-- ==== Sys2Proof/Word.lean ====
section
/-! DEFINITION. The word types of the Fjartos 8 and their plainest arithmetic (00 R2, R3). -/

namespace Sys2Proof

/-- A 64-bit register or address. -/
abbrev Word := BitVec 64

/-- One byte of memory. -/
abbrev Byte := BitVec 8

/-- One vector register: 512 bytes (03 R48). -/
abbrev VReg := BitVec 4096

/-- Sign-extends a field to 64 bits. -/
def sext64 {n : Nat} (x : BitVec n) : Word := x.signExtend 64

/-- Zero-extends a field to 64 bits. -/
def zext64 {n : Nat} (x : BitVec n) : Word := x.zeroExtend 64

/-- Bits `[lo + n - 1 : lo]` of a number. -/
def fld (w lo n : Nat) : Nat := w / 2 ^ lo % 2 ^ n

/-- Bits `[lo + n - 1 : lo]` of a number, as a field of width `n`. -/
def bf (w lo n : Nat) : BitVec n := BitVec.ofNat n (w / 2 ^ lo)

end Sys2Proof
end

