-- ==== Sys2Proof/Syntax.lean ====
section
/-! DEFINITION. What the Fjartos 8 executes: one constructor per row of the opcode table. The first group
are the slot instructions (04 R74 to R87, 06 R100 to R112), with the fields of their encodings; the second
are the events of the table, steps of the machine that no encoding names, with what each event carries. -/

namespace Sys2Proof

/-- The eight slots of a bundle, in slot order (04 R67). -/
inductive Slot where
  | c | s | a | v | m | x | e | t
  deriving DecidableEq, Repr

/-- The element types of 02 R23. -/
inductive ElemType where
  | i8 | n8 | i16 | n16 | i32 | n32 | i64 | e4m3 | e5m2 | fp16 | bf16 | fp32 | b4 | b6 | dyn
  deriving DecidableEq, Repr

/-- The element type a 5-bit code names; none for a reserved code (02 R23). -/
def elemTypeOf : Nat → Option ElemType
  | 0x00 => some .i8
  | 0x01 => some .n8
  | 0x02 => some .i16
  | 0x03 => some .n16
  | 0x04 => some .i32
  | 0x05 => some .n32
  | 0x06 => some .i64
  | 0x08 => some .e4m3
  | 0x09 => some .e5m2
  | 0x0A => some .fp16
  | 0x0B => some .bf16
  | 0x0C => some .fp32
  | 0x10 => some .b4
  | 0x11 => some .b6
  | 0x1F => some .dyn
  | _ => none

/-- The code of an element type (02 R23). -/
def elemTypeCode : ElemType → Nat
  | .i8 => 0x00
  | .n8 => 0x01
  | .i16 => 0x02
  | .n16 => 0x03
  | .i32 => 0x04
  | .n32 => 0x05
  | .i64 => 0x06
  | .e4m3 => 0x08
  | .e5m2 => 0x09
  | .fp16 => 0x0A
  | .bf16 => 0x0B
  | .fp32 => 0x0C
  | .b4 => 0x10
  | .b6 => 0x11
  | .dyn => 0x1F

/-- A flit as it arrives (25 R388): the header fields, the sealed payload and the tag. -/
structure Flit where
  seq : BitVec 32
  ack : BitVec 32
  type : BitVec 8
  ks : BitVec 8
  vc : BitVec 8
  cmp : BitVec 8
  len : BitVec 16
  crd : BitVec 16
  payload : BitVec 1792
  tag : BitVec 128
  deriving DecidableEq, Repr

/-- An incoming PUT message (25 R390, R397): where it arrived, what it applies, and the barrier and
record place its route entry names. -/
structure PutMsg where
  port : BitVec 4
  spart : BitVec 8
  elem : BitVec 8
  op : BitVec 8
  origins : List (BitVec 32)
  addr : BitVec 64
  data : List Byte
  /-- Bytes that the whole PUT has moved with this message, its last one (assumption log 25). -/
  total : Nat
  barrier : Option (BitVec 32)
  logBase : BitVec 32
  anum : BitVec 32
  /-- The sender's name for the command, given back with the answer (assumption log 25). -/
  tag : BitVec 64
  /-- Poison travels with the data (27 R402). -/
  poisoned : Bool
  deriving DecidableEq, Repr

/-- Where an uncorrectable error lies (27 R402): a memory line, an SRAM word of a core, or state that
carries no poison mark. -/
inductive ErrorPlace where
  | line (a : BitVec 41)
  | sram (core : BitVec 6) (word : BitVec 18)
  | control
  deriving DecidableEq, Repr

/-- The instructions and events of the opcode table. -/
inductive Instr where
  /-- NOP, C slot (R116). -/
  | nop
  /-- BR, C slot (R116). -/
  | br (off : BitVec 26)
  /-- CALL, C slot (R116). -/
  | call (off : BitVec 26)
  /-- BC, C slot (R116, R102). -/
  | bc (cond : BitVec 4) (sa : BitVec 6) (off : BitVec 16)
  /-- JR, C slot (R116). -/
  | jr (sa : BitVec 6)
  /-- CALLR, C slot (R116). -/
  | callr (sa : BitVec 6)
  /-- RET, C slot (R116). -/
  | ret
  /-- LOOP, C slot (R118, R74). -/
  | loop (sa : BitVec 6) (cnt : BitVec 11) (len : BitVec 9)
  /-- LBREAK, C slot (R120). -/
  | lbreak (n : BitVec 3)
  /-- SETFMT, C slot (R123). -/
  | setfmt (imm : BitVec 26)
  /-- SLEEPU, C slot (R124). -/
  | sleepu (sa : BitVec 6)
  /-- YIELD, C slot (R125). -/
  | yield
  /-- PHINT, C slot (R128). -/
  | phint (groups : BitVec 24)
  /-- TRAP, C slot (R130). -/
  | trap (imm : BitVec 16)
  /-- ERET, C slot (R131). -/
  | eret
  /-- HALT, C slot (R132). -/
  | halt
  /-- MWAIT, C slot (R127). -/
  | mwait (sd : BitVec 6) (sa : BitVec 6)
  /-- ADD, S slot (R134). -/
  | add (sd : BitVec 6) (sa : BitVec 6) (sb : BitVec 6)
  /-- SUB, S slot (R134). -/
  | sub (sd : BitVec 6) (sa : BitVec 6) (sb : BitVec 6)
  /-- MUL, S slot (R134). -/
  | mul (sd : BitVec 6) (sa : BitVec 6) (sb : BitVec 6)
  /-- MULH, S slot (R134). -/
  | mulh (sd : BitVec 6) (sa : BitVec 6) (sb : BitVec 6)
  /-- MULHU, S slot (R134). -/
  | mulhu (sd : BitVec 6) (sa : BitVec 6) (sb : BitVec 6)
  /-- DIV, S slot (R135). -/
  | div (sd : BitVec 6) (sa : BitVec 6) (sb : BitVec 6)
  /-- DIVU, S slot (R135). -/
  | divu (sd : BitVec 6) (sa : BitVec 6) (sb : BitVec 6)
  /-- REM, S slot (R135). -/
  | rem (sd : BitVec 6) (sa : BitVec 6) (sb : BitVec 6)
  /-- REMU, S slot (R135). -/
  | remu (sd : BitVec 6) (sa : BitVec 6) (sb : BitVec 6)
  /-- AND, S slot (R134). -/
  | and (sd : BitVec 6) (sa : BitVec 6) (sb : BitVec 6)
  /-- OR, S slot (R134). -/
  | or (sd : BitVec 6) (sa : BitVec 6) (sb : BitVec 6)
  /-- XOR, S slot (R134). -/
  | xor (sd : BitVec 6) (sa : BitVec 6) (sb : BitVec 6)
  /-- ANDN, S slot (R134). -/
  | andn (sd : BitVec 6) (sa : BitVec 6) (sb : BitVec 6)
  /-- SHL, S slot (R134). -/
  | shl (sd : BitVec 6) (sa : BitVec 6) (sb : BitVec 6)
  /-- SHR, S slot (R134). -/
  | shr (sd : BitVec 6) (sa : BitVec 6) (sb : BitVec 6)
  /-- SAR, S slot (R134). -/
  | sar (sd : BitVec 6) (sa : BitVec 6) (sb : BitVec 6)
  /-- ROTR, S slot (R134). -/
  | rotr (sd : BitVec 6) (sa : BitVec 6) (sb : BitVec 6)
  /-- MIN, S slot (R134). -/
  | min (sd : BitVec 6) (sa : BitVec 6) (sb : BitVec 6)
  /-- MAX, S slot (R134). -/
  | max (sd : BitVec 6) (sa : BitVec 6) (sb : BitVec 6)
  /-- MINU, S slot (R134). -/
  | minu (sd : BitVec 6) (sa : BitVec 6) (sb : BitVec 6)
  /-- MAXU, S slot (R134). -/
  | maxu (sd : BitVec 6) (sa : BitVec 6) (sb : BitVec 6)
  /-- SEQ, S slot (R134). -/
  | seq (sd : BitVec 6) (sa : BitVec 6) (sb : BitVec 6)
  /-- SLT, S slot (R134). -/
  | slt (sd : BitVec 6) (sa : BitVec 6) (sb : BitVec 6)
  /-- SLTU, S slot (R134). -/
  | sltu (sd : BitVec 6) (sa : BitVec 6) (sb : BitVec 6)
  /-- SELZ, S slot (R134). -/
  | selz (sd : BitVec 6) (sa : BitVec 6) (sb : BitVec 6)
  /-- CLZ, S slot (R134). -/
  | clz (sd : BitVec 6) (sa : BitVec 6)
  /-- CTZ, S slot (R134). -/
  | ctz (sd : BitVec 6) (sa : BitVec 6)
  /-- POPC, S slot (R134). -/
  | popc (sd : BitVec 6) (sa : BitVec 6)
  /-- BREV, S slot (R134). -/
  | brev (sd : BitVec 6) (sa : BitVec 6)
  /-- FSHR, S slot (R134, R137). -/
  | fshr (sd : BitVec 6) (sa : BitVec 6) (sb : BitVec 6)
  /-- ADDI, S slot (R136). -/
  | addi (sd : BitVec 6) (sa : BitVec 6) (imm : BitVec 14)
  /-- ANDI, S slot (R136). -/
  | andi (sd : BitVec 6) (sa : BitVec 6) (imm : BitVec 14)
  /-- ORI, S slot (R136). -/
  | ori (sd : BitVec 6) (sa : BitVec 6) (imm : BitVec 14)
  /-- XORI, S slot (R136). -/
  | xori (sd : BitVec 6) (sa : BitVec 6) (imm : BitVec 14)
  /-- SLTI, S slot (R136). -/
  | slti (sd : BitVec 6) (sa : BitVec 6) (imm : BitVec 14)
  /-- SLTIU, S slot (R136). -/
  | sltiu (sd : BitVec 6) (sa : BitVec 6) (imm : BitVec 14)
  /-- FSHRI, S slot (R137). -/
  | fshri (sd : BitVec 6) (sa : BitVec 6) (sb : BitVec 6) (sh : BitVec 6)
  /-- SHLI, S slot (R136). -/
  | shli (sd : BitVec 6) (sa : BitVec 6) (sh : BitVec 6)
  /-- SHRI, S slot (R136). -/
  | shri (sd : BitVec 6) (sa : BitVec 6) (sh : BitVec 6)
  /-- SARI, S slot (R136). -/
  | sari (sd : BitVec 6) (sa : BitVec 6) (sh : BitVec 6)
  /-- MULI, S slot (R136). -/
  | muli (sd : BitVec 6) (sa : BitVec 6) (imm : BitVec 14)
  /-- SLI, S slot (R138). -/
  | sli (sd : BitVec 6) (imm : BitVec 20)
  /-- SINS, S slot (R138). -/
  | sins (sd : BitVec 6) (imm : BitVec 20)
  /-- BFX, S slot (R139). -/
  | bfx (sd : BitVec 6) (sa : BitVec 6) (pos : BitVec 6) (len : BitVec 6)
  /-- BFXU, S slot (R139). -/
  | bfxu (sd : BitVec 6) (sa : BitVec 6) (pos : BitVec 6) (len : BitVec 6)
  /-- BFI, S slot (R139). -/
  | bfi (sd : BitVec 6) (sa : BitVec 6) (pos : BitVec 6) (len : BitVec 6)
  /-- CRR, S slot (R140). -/
  | crr (sd : BitVec 6) (cr : BitVec 12)
  /-- CRW, S slot (R140, R141). -/
  | crw (sa : BitVec 6) (cr : BitVec 12)
  /-- SETVL, S slot (R142). -/
  | setvl (sd : BitVec 6) (sa : BitVec 6) (vt : BitVec 14)
  /-- LDQ, A slot (R194). -/
  | ldq (an : BitVec 4) (inc : BitVec 4) (size : BitVec 3) (off : BitVec 16)
  /-- STQ, A slot (R194). -/
  | stq (an : BitVec 4) (inc : BitVec 4) (size : BitVec 3) (off : BitVec 16)
  /-- LD, A slot (R196). -/
  | ld (an : BitVec 4) (sd : BitVec 6) (size : BitVec 3) (sx : BitVec 1) (off : BitVec 13)
  /-- ST, A slot (R196). -/
  | st (an : BitVec 4) (sv : BitVec 6) (size : BitVec 3) (off : BitVec 13)
  /-- VLDQ, A slot (R197). -/
  | vldq (an : BitVec 4) (ss : BitVec 6) (ff : BitVec 1) (off : BitVec 9) (inc : BitVec 4)
  /-- VSTQ, A slot (R197). -/
  | vstq (an : BitVec 4) (ss : BitVec 6) (off : BitVec 9) (inc : BitVec 4)
  /-- VGATHQ, A slot (R200). -/
  | vgathq (an : BitVec 4) (sb : BitVec 6) (ff : BitVec 1) (vi : BitVec 9) (mode : BitVec 3) (inc : BitVec 4)
  /-- VSCATQ, A slot (R200). -/
  | vscatq (an : BitVec 4) (sb : BitVec 6) (ff : BitVec 1) (vi : BitVec 9) (mode : BitVec 3) (inc : BitVec 4)
  /-- AMO, A slot (R201). -/
  | amo (an : BitVec 4) (sd : BitVec 6) (sa : BitVec 6) (op : BitVec 4) (size : BitVec 2) (ord : BitVec 2) (scope : BitVec 3)
  /-- AMO_CHUNK, A slot (R203). -/
  | amoChunk (an : BitVec 4) (sd : BitVec 6) (sa : BitVec 6) (ord : BitVec 2) (scope : BitVec 3)
  /-- LDFE, A slot (R204). -/
  | ldfe (an : BitVec 4) (inc : BitVec 4) (off : BitVec 16)
  /-- LDFF, A slot (R204). -/
  | ldff (an : BitVec 4) (inc : BitVec 4) (off : BitVec 16)
  /-- STEF, A slot (R204). -/
  | stef (an : BitVec 4) (inc : BitVec 4) (off : BitVec 16)
  /-- FEMARK, A slot (R204). -/
  | femark (an : BitVec 4) (sc : BitVec 6) (full : BitVec 1) (off : BitVec 13)
  /-- MARM, A slot (R205, R126). -/
  | marm (an : BitVec 4) (inc : BitVec 4) (size : BitVec 3) (off : BitVec 16)
  /-- FENCE, A slot (R206). -/
  | fence (kind : BitVec 2) (scope : BitVec 3)
  /-- PREF, A slot (R205). -/
  | pref (an : BitVec 4) (inc : BitVec 4) (size : BitVec 3) (off : BitVec 16)
  /-- QOPEN, A slot (R317). -/
  | qopen (qn : BitVec 3) (an : BitVec 4) (sp : BitVec 6)
  /-- QNEXT, A slot (R318). -/
  | qnext (qn : BitVec 3) (val : BitVec 1) (nc : BitVec 1)
  /-- QAND, A slot (R319). -/
  | qand (qa : BitVec 3) (qb : BitVec 3) (np : BitVec 1) (val : BitVec 1) (nc : BitVec 1)
  /-- QOR, A slot (R320). -/
  | qor (qa : BitVec 3) (qb : BitVec 3) (np : BitVec 1) (val : BitVec 1) (nc : BitVec 1)
  /-- QSKIP, A slot (R318). -/
  | qskip (qn : BitVec 3) (st : BitVec 6) (val : BitVec 1) (nc : BitVec 1)
  /-- QDOWN, A slot (R317). -/
  | qdown (qn : BitVec 3) (qp : BitVec 3) (an : BitVec 4)
  /-- QCLOSE, A slot (R321). -/
  | qclose (qn : BitVec 3)
  /-- QSTAT, A slot (R321). -/
  | qstat (qn : BitVec 3) (sd : BitVec 6) (pos : BitVec 1)
  /-- VH, V slot (R144). -/
  | vh (idx : BitVec 9) (roff : BitVec 4)
  /-- MBEAT, M slot (R182). -/
  | mbeat (p : BitVec 1) (s : BitVec 1) (a : BitVec 1) (w : BitVec 1) (tile : BitVec 4) (row : BitVec 7) (acc : BitVec 3) (arow : BitVec 7) (inc : BitVec 3) (ainc : BitVec 2)
  /-- MDRAIN, M slot (R189). -/
  | mdrain (acc : BitVec 3) (row : BitVec 7) (sram : BitVec 1) (t : BitVec 4) (drow : BitVec 7) (clr : BitVec 1) (ls : BitVec 1) (inc : BitVec 3) (dinc : BitVec 2)
  /-- MDRAIN_OFOLD, M slot (R190). -/
  | mdrainOfold (acc : BitVec 3) (row : BitVec 7) (sram : BitVec 1) (t : BitVec 4) (clr : BitVec 1) (ls : BitVec 1) (inc : BitVec 3)
  /-- MGSEL, M slot (R187). -/
  | mgsel (g : BitVec 4)
  /-- MMODE, M slot (R187). -/
  | mmode (rs : BitVec 1)
  /-- MFMT, M slot (R187). -/
  | mfmt (sel : BitVec 1)
  /-- MDRAINW, M slot (R187). -/
  | mdrainw
  /-- MFLOAD, M slot (R187). -/
  | mfload (t : BitVec 4) (bank : BitVec 1)
  /-- MZERO, M slot (R187). -/
  | mzero (acc : BitVec 3)
  /-- MGUSE, M slot (R187). -/
  | mguse (slot : BitVec 2)
  /-- MRSTP, M slot (R187). -/
  | mrstp
  /-- MREP, M slot (R188). -/
  | mrep (cnt : BitVec 12)
  /-- XCOPY, X slot (R175). -/
  | xcopy (vd : BitVec 9) (vs : BitVec 9) (lgd : BitVec 3) (lgs : BitVec 3)
  /-- XBCAST, X slot (R175). -/
  | xbcast (vd : BitVec 9) (vs : BitVec 9) (lgs : BitVec 3)
  /-- TWROW, X slot (R174). -/
  | twrow (t : BitVec 4) (row : BitVec 7) (vs : BitVec 9)
  /-- TRCOL, X slot (R174). -/
  | trcol (vd : BitVec 9) (t : BitVec 4) (col : BitVec 7)
  /-- TRROW, X slot (R174). -/
  | trrow (vd : BitVec 9) (t : BitVec 4) (row : BitVec 7)
  /-- LDT, X slot (R177). -/
  | ldt (t : BitVec 4) (an : BitVec 4) (row : BitVec 7) (blk : BitVec 4) (size : BitVec 3) (inc : BitVec 5)
  /-- TUNPK, X slot (R178). -/
  | tunpk (td : BitVec 4) (ts : BitVec 4)
  /-- MOVVS, X slot (R176). -/
  | movvs (sd : BitVec 6) (vs : BitVec 9) (lane : BitVec 7)
  /-- MOVSV, X slot (R176). -/
  | movsv (vd : BitVec 9) (sa : BitVec 6) (lane : BitVec 7)
  /-- ECFG, E slot (R210). -/
  | ecfg (nset : BitVec 3) (dim : BitVec 3) (fsel : BitVec 1) (val : BitVec 29)
  /-- COPY, E slot (R213). -/
  | copy (q : BitVec 4) (bar : BitVec 18) (sset : BitVec 3) (dset : BitVec 3) (asrc : BitVec 4) (adst : BitVec 4) (op : BitVec 6)
  /-- GATHER, E slot (R215). -/
  | gather (q : BitVec 4) (bar : BitVec 18) (nset : BitVec 3) (atab : BitVec 4) (ai : BitVec 4) (ad : BitVec 4) (mode : BitVec 3) (op : BitVec 6)
  /-- SCATTER, E slot (R215). -/
  | scatter (q : BitVec 4) (bar : BitVec 18) (nset : BitVec 3) (atab : BitVec 4) (ai : BitVec 4) (ad : BitVec 4) (mode : BitVec 3) (op : BitVec 6)
  /-- NMOP, E slot (R216). -/
  | nmop (q : BitVec 4) (bar : BitVec 18) (nset : BitVec 3) (ad : BitVec 4) (asrc : BitVec 4) (ai : BitVec 4) (op : BitVec 4) (ix : BitVec 1)
  /-- NMFENCE, E slot (R217). -/
  | nmfence (q : BitVec 4) (bar : BitVec 18)
  /-- NMOPT, E slot (R218). -/
  | nmopt (q : BitVec 4) (bar : BitVec 18) (ap : BitVec 4) (ag : BitVec 4) (am : BitVec 4) (alg : BitVec 4) (cnt : BitVec 20)
  /-- QFENCE, E slot (R217). -/
  | qfence (q : BitVec 4) (bar : BitVec 18) (mask : BitVec 16)
  /-- SUBSCR, E slot (R219). -/
  | subscr (q : BitVec 4) (bar : BitVec 18) (asrc : BitVec 4) (nset : BitVec 3) (ring : BitVec 4) (first : BitVec 5) (cnt : BitVec 4) (slot : BitVec 16)
  /-- SLOTRET, E slot (R219, R271). -/
  | slotret (q : BitVec 4) (bar : BitVec 18) (ring : BitVec 4) (k : BitVec 16)
  /-- UNSUBSCR, E slot (R219). -/
  | unsubscr (q : BitVec 4) (bar : BitVec 18) (ring : BitVec 4)
  /-- HCWLD, E slot (R220). -/
  | hcwld (q : BitVec 4) (bar : BitVec 18) (an : BitVec 4) (first : BitVec 9) (cnt : BitVec 10)
  /-- GLOAD, E slot (R220, R299). -/
  | gload (q : BitVec 4) (bar : BitVec 18) (an : BitVec 4) (slot : BitVec 2)
  /-- FLOADM, E slot (R220). -/
  | floadm (q : BitVec 4) (bar : BitVec 18) (an : BitVec 4) (nset : BitVec 3) (bank : BitVec 1)
  /-- PMIG, E slot (R221). -/
  | pmig (q : BitVec 4) (bar : BitVec 18) (an : BitVec 4) (tier : BitVec 2) (pages : BitVec 30)
  /-- PUT, E slot (R221). -/
  | put (q : BitVec 4) (bar : BitVec 18) (al : BitVec 4) (ar : BitVec 4) (peer : BitVec 8) (op : BitVec 6) (nset : BitVec 3)
  /-- GET, E slot (R221). -/
  | get (q : BitVec 4) (bar : BitVec 18) (al : BitVec 4) (ar : BitVec 4) (peer : BitVec 8) (op : BitVec 6) (nset : BitVec 3)
  /-- PHLIVE, E slot (R367). -/
  | phlive (chunks : BitVec 16) (tiles : BitVec 16) (accs : BitVec 8) (sgroups : BitVec 8)
  /-- BANKCFG, E slot (R246). -/
  | bankcfg (q : BitVec 4) (bar : BitVec 18) (bank : BitVec 5) (mode : BitVec 2) (ring : BitVec 4)
  /-- ZEROM, E slot (R221). -/
  | zerom (q : BitVec 4) (bar : BitVec 18) (an : BitVec 4) (lines : BitVec 32)
  /-- BINIT, T slot (R227). -/
  | binit (sa : BitVec 6) (cnt : BitVec 12)
  /-- BARRIVE, T slot (R228). -/
  | barrive (sa : BitVec 6) (cnt : BitVec 12)
  /-- BWAIT, T slot (R231). -/
  | bwait (sd : BitVec 6) (sa : BitVec 6) (ph : BitVec 4) (tmo : BitVec 10)
  /-- BEXPECT, T slot (R229). -/
  | bexpect (sa : BitVec 6) (sb : BitVec 6)
  /-- SLEEPB, T slot (R233). -/
  | sleepb (sa : BitVec 6)
  /-- TSPAWN, T slot (R234). -/
  | tspawn (sd : BitVec 6) (sa : BitVec 6)
  /-- TVIEW, T slot (R235). -/
  | tview (view : BitVec 3) (sa : BitVec 6)
  /-- TEND, T slot (R236). -/
  | tend
  /-- TSUSPEND, T slot (R238). -/
  | tsuspend (sa : BitVec 6) (sb : BitVec 6)
  /-- TSIGNAL, T slot (R239). -/
  | tsignal (sa : BitVec 6)
  /-- TNOTIFY, T slot (R240). -/
  | tnotify (sa : BitVec 6)
  /-- BTEST, T slot (R231). -/
  | btest (sd : BitVec 6) (sa : BitVec 6) (ph : BitVec 4)
  /-- MREP_REISSUE (R188). -/
  | mrepReissue (c : BitVec 6)
  /-- LINE_PAD (R68). -/
  | linePad (k : BitVec 8)
  /-- BLOCK_CLEAR (R52). -/
  | blockClear (k : BitVec 8)
  /-- BUDGET_EXHAUSTED (R53). -/
  | budgetExhausted (k : BitVec 8)
  /-- SHADOW_LAND (R65). -/
  | shadowLand (k : BitVec 8)
  /-- LOAD_DATA_RETURN (R194). -/
  | loadDataReturn (k : BitVec 8)
  /-- STORE_PERFORM (R195). -/
  | storePerform (k : BitVec 8)
  /-- V_SLOT_COMPLETE (R155). -/
  | vSlotComplete (k : BitVec 8)
  /-- SLEEPU_TARGET (R124). -/
  | sleepuTarget (k : BitVec 8)
  /-- BWAIT_TIMEOUT (R231). -/
  | bwaitTimeout (k : BitVec 8)
  /-- MWAIT_TIMEOUT (R127). -/
  | mwaitTimeout (k : BitVec 8)
  /-- SLEEPB_PROMISE_DUE (R233). -/
  | sleepbPromiseDue (k : BitVec 8)
  /-- COMMAND_COMPLETE (R208). -/
  | commandComplete (c : BitVec 6) (q : BitVec 4)
  /-- ENGINE_FAULT (R209). -/
  | engineFault (c : BitVec 6) (q : BitVec 4)
  /-- REPLAY_LAND (R363). -/
  | replayLand (k : BitVec 8)
  /-- TASK_START (R354). -/
  | taskStart (k : BitVec 8)
  /-- VIEW_FOLD (R336). -/
  | viewFold (p : BitVec 4) (task : BitVec 32)
  /-- DEDUP_PROBE (R254). -/
  | dedupProbe (d : BitVec 2) (line : BitVec 41)
  /-- HOT_CLEAR (R257). -/
  | hotClear (d : BitVec 2) (line : BitVec 41)
  /-- MODULE_WRITE_APPLY (R287). -/
  | moduleWriteApply (d : BitVec 2)
  /-- HOST_MEMORY_ACCESS (R291). -/
  | hostMemoryAccess (write : Bool) (addr : BitVec 48) (size : Nat) (data : List (BitVec 8))
  /-- RIGGER_FILL (R271). -/
  | riggerFill (c : BitVec 6) (ring : BitVec 4)
  /-- GROUP_VALIDATION (R300). -/
  | groupValidation (c : BitVec 6) (slot : BitVec 2)
  /-- PRECTL_SAVE (R367). -/
  | prectlSave (p : BitVec 4)
  /-- PRECTL_RESTORE (R371). -/
  | prectlRestore (p : BitVec 4)
  /-- HV_SAVE (R372). -/
  | hvSave (p : BitVec 4)
  /-- HV_RESTORE (R372). -/
  | hvRestore (p : BitVec 4)
  /-- PREEMPT_BOUND_EXPIRY (R367). -/
  | preemptBoundExpiry (p : BitVec 4)
  /-- PREEMPT_FAIL (R367). -/
  | preemptFail (p : BitVec 4)
  /-- PREEMPT_STATE_REACHED (R366). -/
  | preemptStateReached (p : BitVec 4)
  /-- ROOT_TASK (R350). -/
  | rootTask (p : BitVec 4) (queue : BitVec 4) (crews : BitVec 16) (tag : BitVec 64) (rec : BitVec 512)
  /-- RESUME (R365). -/
  | resume (p : BitVec 4) (n : Nat)
  /-- ABORT (R365). -/
  | abort (p : BitVec 4) (n : Nat)
  /-- HALT_DECISION (R132). -/
  | haltDecision (p : BitVec 4) (task : BitVec 32) (discard : Bool)
  /-- SHOOT (R381). -/
  | shoot (p : BitVec 4) (base : BitVec 64) (size : BitVec 2) (count : Nat) (all : Bool)
  /-- SHOOTDONE (R381). -/
  | shootdone (p : BitVec 4)
  /-- ZMAP (R383). -/
  | zmap (p : BitVec 4) (frame : BitVec 48) (size : BitVec 2)
  /-- ZDONE (R383). -/
  | zdone (p : BitVec 4)
  /-- FRAME_GRANT (R382). -/
  | frameGrant (p : BitVec 4) (req : BitVec 32) (refused : Bool) (frames : List (BitVec 64))
  /-- PUT_MESSAGE (R397). -/
  | putMessage (p : BitVec 4) (m : PutMsg)
  /-- GET_REQUEST (R290). -/
  | getRequest (p : BitVec 4) (port : BitVec 4) (tag : BitVec 64) (addr : BitVec 64) (size : Nat)
  /-- GET_DATA (R221). -/
  | getData (c : BitVec 6) (q : BitVec 4) (data : List (BitVec 8)) (poisoned : Bool)
  /-- FAR_END_ACK (R221). -/
  | farEndAck (c : BitVec 6) (q : BitVec 4) (status : BitVec 2)
  /-- REGISTER_WRITE (R60, R366). -/
  | registerWrite (p : BitVec 4) (pf : Bool) (reg : BitVec 12) (val : BitVec 64)
  /-- REGISTER_READ (R60). -/
  | registerRead (p : BitVec 4) (pf : Bool) (reg : BitVec 12)
  /-- CONTAIN_WRITE (R405). -/
  | containWrite (p : BitVec 4) (compat : Bool)
  /-- FORM (R384). -/
  | form (berths : BitVec 16) (vf : BitVec 8)
  /-- DISSOLVE (R384). -/
  | dissolve (p : BitVec 4)
  /-- RESET (R405). -/
  | reset (p : BitVec 4) (pf : Bool) (task : BitVec 32)
  /-- POWER_ON (R408). -/
  | powerOn
  /-- RESTART_COLD (R408). -/
  | restartCold
  /-- RESTART_WARM (R408). -/
  | restartWarm
  /-- QUOTE_REQUEST (R411). -/
  | quoteRequest (nonce : BitVec 256)
  /-- FIRMWARE_CHUNK (R410). -/
  | firmwareChunk (off : BitVec 32) (len : BitVec 32) (data : List (BitVec 64))
  /-- LINK_PARAMETER (R413). -/
  | linkParameter (port : BitVec 4) (recv : Bool) (switchPoint : BitVec 64)
  /-- FLIT_ARRIVAL (R394). -/
  | flitArrival (port : BitVec 4) (f : Flit)
  /-- NAK_RECEIVED (R394). -/
  | nakReceived (port : BitVec 4) (e : BitVec 32)
  /-- RETRY_TIMEOUT (R394). -/
  | retryTimeout (port : BitVec 4)
  /-- PORT_TRAIN_FULL (R395). -/
  | portTrainFull (port : BitVec 4) (epoch : BitVec 64)
  /-- KEY_SWITCH (R393). -/
  | keySwitch (port : BitVec 4)
  /-- KEY_EXHAUSTED (R393). -/
  | keyExhausted (port : BitVec 4)
  /-- CORRECTED_ERROR (R401). -/
  | correctedError (p : BitVec 4) (unit : BitVec 16) (loc : BitVec 64)
  /-- PATROL_SCRUB (R401). -/
  | patrolScrub (addr : BitVec 48) (found : Bool)
  /-- UNCORRECTABLE_ERROR (R402). -/
  | uncorrectableError (p : BitVec 4) (unit : BitVec 16) (loc : BitVec 64) (place : ErrorPlace)
  /-- GOVERNOR_INTERVAL (R415). -/
  | governorInterval (power : Nat) (temp : Nat) (flowLost : Bool)
  /-- RETRAINING_COMPLETE (R394). -/
  | retrainingComplete (port : BitVec 4) (ok : Bool)
  /-- KEY_SLOT_REFILL (R413). -/
  | keySlotRefill (port : BitVec 4) (recv : Bool) (slot : BitVec 1)
  /-- SPURIOUS_WAKE (R127). -/
  | spuriousWake (k : BitVec 8)
  /-- ARRAY_OPERATION_COMPLETE (R192). -/
  | arrayOperationComplete (c : BitVec 6)
  /-- X_MOVE_COMPLETE (R179). -/
  | xMoveComplete (k : BitVec 8)
  /-- SCOREBOARD_RESULT_WRITE (R196). -/
  | scoreboardResultWrite (k : BitVec 8)
  deriving DecidableEq, Repr

/-- The slot an instruction stands in; none for an event. -/
def Instr.slot : Instr → Option Slot
  | .nop => some .c
  | .br _ => some .c
  | .call _ => some .c
  | .bc _ _ _ => some .c
  | .jr _ => some .c
  | .callr _ => some .c
  | .ret => some .c
  | .loop _ _ _ => some .c
  | .lbreak _ => some .c
  | .setfmt _ => some .c
  | .sleepu _ => some .c
  | .yield => some .c
  | .phint _ => some .c
  | .trap _ => some .c
  | .eret => some .c
  | .halt => some .c
  | .mwait _ _ => some .c
  | .add _ _ _ => some .s
  | .sub _ _ _ => some .s
  | .mul _ _ _ => some .s
  | .mulh _ _ _ => some .s
  | .mulhu _ _ _ => some .s
  | .div _ _ _ => some .s
  | .divu _ _ _ => some .s
  | .rem _ _ _ => some .s
  | .remu _ _ _ => some .s
  | .and _ _ _ => some .s
  | .or _ _ _ => some .s
  | .xor _ _ _ => some .s
  | .andn _ _ _ => some .s
  | .shl _ _ _ => some .s
  | .shr _ _ _ => some .s
  | .sar _ _ _ => some .s
  | .rotr _ _ _ => some .s
  | .min _ _ _ => some .s
  | .max _ _ _ => some .s
  | .minu _ _ _ => some .s
  | .maxu _ _ _ => some .s
  | .seq _ _ _ => some .s
  | .slt _ _ _ => some .s
  | .sltu _ _ _ => some .s
  | .selz _ _ _ => some .s
  | .clz _ _ => some .s
  | .ctz _ _ => some .s
  | .popc _ _ => some .s
  | .brev _ _ => some .s
  | .fshr _ _ _ => some .s
  | .addi _ _ _ => some .s
  | .andi _ _ _ => some .s
  | .ori _ _ _ => some .s
  | .xori _ _ _ => some .s
  | .slti _ _ _ => some .s
  | .sltiu _ _ _ => some .s
  | .fshri _ _ _ _ => some .s
  | .shli _ _ _ => some .s
  | .shri _ _ _ => some .s
  | .sari _ _ _ => some .s
  | .muli _ _ _ => some .s
  | .sli _ _ => some .s
  | .sins _ _ => some .s
  | .bfx _ _ _ _ => some .s
  | .bfxu _ _ _ _ => some .s
  | .bfi _ _ _ _ => some .s
  | .crr _ _ => some .s
  | .crw _ _ => some .s
  | .setvl _ _ _ => some .s
  | .ldq _ _ _ _ => some .a
  | .stq _ _ _ _ => some .a
  | .ld _ _ _ _ _ => some .a
  | .st _ _ _ _ => some .a
  | .vldq _ _ _ _ _ => some .a
  | .vstq _ _ _ _ => some .a
  | .vgathq _ _ _ _ _ _ => some .a
  | .vscatq _ _ _ _ _ _ => some .a
  | .amo _ _ _ _ _ _ _ => some .a
  | .amoChunk _ _ _ _ _ => some .a
  | .ldfe _ _ _ => some .a
  | .ldff _ _ _ => some .a
  | .stef _ _ _ => some .a
  | .femark _ _ _ _ => some .a
  | .marm _ _ _ _ => some .a
  | .fence _ _ => some .a
  | .pref _ _ _ _ => some .a
  | .qopen _ _ _ => some .a
  | .qnext _ _ _ => some .a
  | .qand _ _ _ _ _ => some .a
  | .qor _ _ _ _ _ => some .a
  | .qskip _ _ _ _ => some .a
  | .qdown _ _ _ => some .a
  | .qclose _ => some .a
  | .qstat _ _ _ => some .a
  | .vh _ _ => some .v
  | .mbeat _ _ _ _ _ _ _ _ _ _ => some .m
  | .mdrain _ _ _ _ _ _ _ _ _ => some .m
  | .mdrainOfold _ _ _ _ _ _ _ => some .m
  | .mgsel _ => some .m
  | .mmode _ => some .m
  | .mfmt _ => some .m
  | .mdrainw => some .m
  | .mfload _ _ => some .m
  | .mzero _ => some .m
  | .mguse _ => some .m
  | .mrstp => some .m
  | .mrep _ => some .m
  | .xcopy _ _ _ _ => some .x
  | .xbcast _ _ _ => some .x
  | .twrow _ _ _ => some .x
  | .trcol _ _ _ => some .x
  | .trrow _ _ _ => some .x
  | .ldt _ _ _ _ _ _ => some .x
  | .tunpk _ _ => some .x
  | .movvs _ _ _ => some .x
  | .movsv _ _ _ => some .x
  | .ecfg _ _ _ _ => some .e
  | .copy _ _ _ _ _ _ _ => some .e
  | .gather _ _ _ _ _ _ _ _ => some .e
  | .scatter _ _ _ _ _ _ _ _ => some .e
  | .nmop _ _ _ _ _ _ _ _ => some .e
  | .nmfence _ _ => some .e
  | .nmopt _ _ _ _ _ _ _ => some .e
  | .qfence _ _ _ => some .e
  | .subscr _ _ _ _ _ _ _ _ => some .e
  | .slotret _ _ _ _ => some .e
  | .unsubscr _ _ _ => some .e
  | .hcwld _ _ _ _ _ => some .e
  | .gload _ _ _ _ => some .e
  | .floadm _ _ _ _ _ => some .e
  | .pmig _ _ _ _ _ => some .e
  | .put _ _ _ _ _ _ _ => some .e
  | .get _ _ _ _ _ _ _ => some .e
  | .phlive _ _ _ _ => some .e
  | .bankcfg _ _ _ _ _ => some .e
  | .zerom _ _ _ _ => some .e
  | .binit _ _ => some .t
  | .barrive _ _ => some .t
  | .bwait _ _ _ _ => some .t
  | .bexpect _ _ => some .t
  | .sleepb _ => some .t
  | .tspawn _ _ => some .t
  | .tview _ _ => some .t
  | .tend => some .t
  | .tsuspend _ _ => some .t
  | .tsignal _ => some .t
  | .tnotify _ => some .t
  | .btest _ _ _ => some .t
  | .mrepReissue _ => none
  | .linePad _ => none
  | .blockClear _ => none
  | .budgetExhausted _ => none
  | .shadowLand _ => none
  | .loadDataReturn _ => none
  | .storePerform _ => none
  | .vSlotComplete _ => none
  | .sleepuTarget _ => none
  | .bwaitTimeout _ => none
  | .mwaitTimeout _ => none
  | .sleepbPromiseDue _ => none
  | .commandComplete _ _ => none
  | .engineFault _ _ => none
  | .replayLand _ => none
  | .taskStart _ => none
  | .viewFold _ _ => none
  | .dedupProbe _ _ => none
  | .hotClear _ _ => none
  | .moduleWriteApply _ => none
  | .hostMemoryAccess _ _ _ _ => none
  | .riggerFill _ _ => none
  | .groupValidation _ _ => none
  | .prectlSave _ => none
  | .prectlRestore _ => none
  | .hvSave _ => none
  | .hvRestore _ => none
  | .preemptBoundExpiry _ => none
  | .preemptFail _ => none
  | .preemptStateReached _ => none
  | .rootTask _ _ _ _ _ => none
  | .resume _ _ => none
  | .abort _ _ => none
  | .haltDecision _ _ _ => none
  | .shoot _ _ _ _ _ => none
  | .shootdone _ => none
  | .zmap _ _ _ => none
  | .zdone _ => none
  | .frameGrant _ _ _ _ => none
  | .putMessage _ _ => none
  | .getRequest _ _ _ _ _ => none
  | .getData _ _ _ _ => none
  | .farEndAck _ _ _ => none
  | .registerWrite _ _ _ _ => none
  | .registerRead _ _ _ => none
  | .containWrite _ _ => none
  | .form _ _ => none
  | .dissolve _ => none
  | .reset _ _ _ => none
  | .powerOn => none
  | .restartCold => none
  | .restartWarm => none
  | .quoteRequest _ => none
  | .firmwareChunk _ _ _ => none
  | .linkParameter _ _ _ => none
  | .flitArrival _ _ => none
  | .nakReceived _ _ => none
  | .retryTimeout _ => none
  | .portTrainFull _ _ => none
  | .keySwitch _ => none
  | .keyExhausted _ => none
  | .correctedError _ _ _ => none
  | .patrolScrub _ _ => none
  | .uncorrectableError _ _ _ _ => none
  | .governorInterval _ _ _ => none
  | .retrainingComplete _ _ => none
  | .keySlotRefill _ _ _ => none
  | .spuriousWake _ => none
  | .arrayOperationComplete _ => none
  | .xMoveComplete _ => none
  | .scoreboardResultWrite _ => none

end Sys2Proof
end

