-- ==== Sys2Proof/Config.lean ====
section
/-! DEFINITION. What an implementation of the Fjartos 8 fixes, and the values the manual leaves open. Every
constant here has no body: nothing evaluates it, and a claim holds whatever it is. -/

namespace Sys2Proof.Config

/-- Which of the steps that could come next comes next (00 R13; assumption log 15). -/
opaque pick : Nat → Nat
/-- A fresh open value, applied to the counter `tick` of the state (assumption log 11). -/
opaque freeValue : Nat → Word
/-- FRCP to FSIGM: the FP32 pattern of a result, by stage opcode and FP32 operand (08 R160; log 16). -/
opaque floatFunction : BitVec 8 → BitVec 32 → BitVec 32
/-- Which of a number of slices holds a line, taken modulo that number (12 R251; log 17). -/
opaque sliceHash : Nat → Nat → Nat
/-- The watch entries of a home memory unit for each berth beyond one (07 R126; log 17). -/
opaque moreWatches : Nat
/-- A dedup key drawn from the module's random source (12 R253; log 18). -/
opaque randomKey : Nat → BitVec 128
/-- A start epoch drawn from the module's random source (25 R395; log 18). -/
opaque randomEpoch : Nat → BitVec 64
/-- The key and salt that step 6 and each refill establish (28 R413; log 18). -/
opaque linkKey : Nat → BitVec 256
/-- The salt of a key slot (28 R413; log 18). -/
opaque linkSalt : Nat → BitVec 32
/-- The SLH-DSA-SHA2-128f signature of a quote, by the attestation key (28 R411; log 18). -/
opaque quoteSign : List Byte → List Byte
/-- Whether a firmware image carries a valid signature of the vendor key (28 R410; log 18). -/
opaque imageValid : List (BitVec 64) → Bool
/-- The version of a firmware image (28 R410; log 18). -/
opaque imageVersion : List (BitVec 64) → BitVec 8
/-- The step at which a start attempt fails, 0 for none, by attempt (28 R409; log 10). -/
opaque startFails : Nat → Nat
/-- A core fails the self-test of a start, by start and core (27 R407; log 10). -/
opaque selfTestFails : Nat → Nat → Bool
/-- The engine's estimate, in CYC units, for a promise (10 R214; log 19). -/
opaque promiseEstimate : Nat → Nat
/-- The corrected errors of one unit that post a record (27 R404; log 20). -/
opaque errorThreshold : Nat
/-- The notification credit of a partition beyond the 64 that R240 guarantees (log 21). -/
opaque extraCredit : Nat
/-- The identity signature of the far end of a port verifies, by port and epoch (28 R413; log 18). -/
opaque peerVerifies : Nat → BitVec 64 → Bool
/-- An HBM channel cannot hold data at a start, by start and channel (27 R407; log 10). -/
opaque channelFails : Nat → Nat → Bool
/-- The start epoch of the far end that answers at a port at step 6 of a start, if any (28 R408; log 18). -/
opaque farEnd : Nat → Nat → Option (BitVec 64)
/-- The identity public key that a far end shows at step 6, by start and port (28 R411; log 18). -/
opaque peerKey : Nat → Nat → List (BitVec 8)
/-- The firmware image that the module was made with (28 R410; log 18). -/
opaque factoryImage : List (BitVec 64)
/-- The boot firmware and the link-die firmware in an image (28 R410, R411; log 18). -/
opaque bootPart : List (BitVec 64) → List (BitVec 64)
opaque linkPart : List (BitVec 64) → List (BitVec 64)
/-- The flit credits of a virtual channel beyond one (25 R389; log 34). -/
opaque flitCredits : Nat
/-- What a save writes beyond the frame: places in its area, and bytes (23 R368; log 32). -/
opaque saveImage : Nat → List (Nat × List (BitVec 8))

end Sys2Proof.Config
end

