-- ==== Sys2Proof/Machine/Cells.lean ====
section
/-! DEFINITION. Sparse data by key: a list of key and value pairs with strictly rising keys and no entry
equal to what an unlisted key reads as. Memories, register files and tables are held in this one form. -/

namespace Sys2Proof.Machine

variable {α : Type}

/-- The listed value of a key. -/
def afind : List (Nat × α) → Nat → Option α
  | [], _ => none
  | (k', v) :: t, k => if k' = k then some v else afind t k

/-- The value of a key; an unlisted key reads as `d`. -/
def aget (d : α) (m : List (Nat × α)) (k : Nat) : α := (afind m k).getD d

/-- Lists a value at its place in the order of the keys. -/
def aput : List (Nat × α) → Nat → α → List (Nat × α)
  | [], k, v => [(k, v)]
  | (k', v') :: t, k, v =>
    if k < k' then (k, v) :: (k', v') :: t
    else if k = k' then (k, v) :: t
    else (k', v') :: aput t k v

/-- Unlists a key. -/
def adel : List (Nat × α) → Nat → List (Nat × α)
  | [], _ => []
  | (k', v') :: t, k => if k' = k then adel t k else (k', v') :: adel t k

/-- Writes a value, keeping the canonical form. -/
def aset [DecidableEq α] (d : α) (m : List (Nat × α)) (k : Nat) (v : α) : List (Nat × α) :=
  if v = d then adel m k else aput m k v

/-- The canonical form: keys strictly rising, no value equal to the default. -/
def awf [DecidableEq α] (d : α) : List (Nat × α) → Bool
  | [] => true
  | [(_, v)] => v ≠ d
  | (k, v) :: (k', v') :: t => v ≠ d && k < k' && awf d ((k', v') :: t)

/-- `n` consecutive values from a key upward. -/
def agetN (d : α) (m : List (Nat × α)) (k : Nat) : Nat → List α
  | 0 => []
  | n + 1 => aget d m k :: agetN d m (k + 1) n

/-- Writes consecutive values from a key upward. -/
def asetN [DecidableEq α] (d : α) (m : List (Nat × α)) (k : Nat) : List α → List (Nat × α)
  | [] => m
  | v :: vs => asetN d (aset d m k v) (k + 1) vs

/-- Bytes, lowest first, of a number (00 R3: little-endian). -/
def toBytes (v : Nat) : Nat → List Byte
  | 0 => []
  | n + 1 => BitVec.ofNat 8 v :: toBytes (v / 256) n

/-- The number whose bytes are given, lowest first. -/
def ofBytes : List Byte → Nat
  | [] => 0
  | b :: bs => b.toNat + 256 * ofBytes bs

/-- Splits a value into its bytes, lowest first. -/
def bytesOf {w : Nat} (v : BitVec w) : List Byte := toBytes v.toNat (w / 8)

/-- Joins bytes, lowest first, into a value. -/
def wordOf (w : Nat) (bs : List Byte) : BitVec w := BitVec.ofNat w (ofBytes bs)

/-- A zero byte: what memory and SRAM that nothing has written read as (28 R408 step 5; 12 R244). -/
def zeroByte : Byte := 0#8

/-- The canonical form of memory: addresses strictly rising, no listed byte equal to what an unlisted one reads as. -/
abbrev Memory.wf (m : List (Nat × Byte)) : Bool := awf zeroByte m

end Sys2Proof.Machine
end

