-- ==== Sys2Proof/Machine/Numbers.lean ====
section
/-! DEFINITION. Number formats to the bit (02 R23 to R47): exact values, rounding, and conversion between the
scalar and block formats. Arithmetic is exact on dyadic values and narrowed once at the end. -/

namespace Sys2Proof.Machine

/-- The STAT flags (03 R60). -/
abbrev Flags := BitVec 8
def fNV : Flags := 0x01#8
def fOF : Flags := 0x02#8
def fUF : Flags := 0x04#8
def fNX : Flags := 0x08#8
def fDZ : Flags := 0x10#8
def fFMTV : Flags := 0x20#8
def fSAT : Flags := 0x40#8
def fIOV : Flags := 0x80#8

/-- A flag, or none. -/
def flagIf (b : Bool) (f : Flags) : Flags := if b then f else 0#8

/-- The stochastic generators of a context: seed, core, and the states of the lanes that have drawn (02 R37). -/
structure Rng where
  seed : Word
  core : Nat
  drawn : List (Nat × Word)
  deriving DecidableEq, Repr

/-- The state of a generator right after seeding (02 R37). -/
def genInit (seed : Word) (core l : Nat) : Word :=
  let x := seed ^^^ (BitVec.ofNat 64 ((128 * core + l + 1) * 0x9E3779B97F4A7C15))
  if x = 0#64 then 1#64 else x

/-- One advance of a generator (02 R37). -/
def genNext (s : Word) : Word :=
  let s := s ^^^ (s <<< 13)
  let s := s ^^^ (s >>> 7)
  s ^^^ (s <<< 17)

/-- Draws from a lane's generator. -/
def Rng.draw (r : Rng) (lane : Nat) : Nat × Rng :=
  let s := genNext ((afind r.drawn lane).getD (genInit r.seed r.core lane))
  (s.toNat / 2 ^ 48, { r with drawn := aput r.drawn lane s })

/-- An exact value: a NaN (signalling or not), an infinity, or ±m × 2^e. -/
inductive FVal where
  | nan (signalling : Bool)
  | inf (neg : Bool)
  | fin (neg : Bool) (m : Nat) (e : Int)
  deriving DecidableEq, Repr

/-- A scalar float format (02 R27, R28). -/
structure FloatFmt where
  width : Nat
  mbits : Nat
  bias : Nat
  /-- Infinities, and a quiet bit in the NaNs; false for F8.E4M3. -/
  ieee : Bool
  deriving DecidableEq, Repr

def fmtE4M3 : FloatFmt := ⟨8, 3, 7, false⟩
def fmtE5M2 : FloatFmt := ⟨8, 2, 15, true⟩
def fmtFP16 : FloatFmt := ⟨16, 10, 15, true⟩
def fmtBF16 : FloatFmt := ⟨16, 7, 127, true⟩
def fmtFP32 : FloatFmt := ⟨32, 23, 127, true⟩

/-- The largest exponent field. -/
def FloatFmt.emax (f : FloatFmt) : Nat := 2 ^ (f.width - 1 - f.mbits) - 1
/-- The sign bit's weight. -/
def FloatFmt.signBit (f : FloatFmt) : Nat := 2 ^ (f.width - 1)
/-- The code of +infinity. -/
def FloatFmt.infCode (f : FloatFmt) : Nat := f.emax * 2 ^ f.mbits
/-- The canonical NaN (02 R28). -/
def FloatFmt.nanCode (f : FloatFmt) : Nat :=
  if f.ieee then f.infCode + 2 ^ (f.mbits - 1) else 0x7F
/-- The code of the largest finite value. -/
def FloatFmt.maxCode (f : FloatFmt) : Nat := if f.ieee then f.infCode - 1 else 0x7E

/-- The value of a code (02 R27, R28). -/
def FloatFmt.decode (f : FloatFmt) (c : Nat) : FVal :=
  let neg := decide (f.signBit ≤ c % 2 ^ f.width)
  let e := c / 2 ^ f.mbits % (f.emax + 1)
  let m := c % 2 ^ f.mbits
  if f.ieee && e = f.emax then
    if m = 0 then .inf neg else .nan (m < 2 ^ (f.mbits - 1))
  else if !f.ieee && e = f.emax && m = 7 then .nan false
  else if e = 0 then .fin neg m (1 - (f.bias : Int) - f.mbits)
  else .fin neg (m + 2 ^ f.mbits) ((e : Int) - f.bias - f.mbits)

/-- Number of bits of a number. -/
def bitLen (n : Nat) : Nat := if n = 0 then 0 else Nat.log2 n + 1

/-- Whether rounding takes the neighbour of larger magnitude (02 R35): `lo` below by `rem` parts of `2^sh`,
`odd` whether `lo` has an odd code. `d` is the stochastic draw. -/
def roundUp (mode : Nat) (neg odd : Bool) (rem sh d : Nat) : Bool :=
  match mode with
  | 0 => 2 * rem > 2 ^ sh || (2 * rem = 2 ^ sh && odd)
  | 1 => false
  | 2 => !neg
  | 3 => neg
  | 4 => 2 * rem ≥ 2 ^ sh
  | _ => if neg then !(d * 2 ^ sh < (2 ^ sh - rem) * 65536) else d * 2 ^ sh < rem * 65536

/-- Rounds a magnitude `m / 2^sh` to an integer; says whether it was inexact. A draw is taken only when it is. -/
def roundNat (mode : Nat) (neg : Bool) (m sh : Nat) (r : Rng) (lane : Nat) : Nat × Bool × Rng :=
  let lo := m / 2 ^ sh
  let rem := m % 2 ^ sh
  if rem = 0 then (lo, false, r)
  else
    let dr := if mode = 5 then r.draw lane else (0, r)
    (if roundUp mode neg (lo % 2 = 1) rem sh dr.1 then lo + 1 else lo, true, dr.2)

/-- A result: the code, the flags and the generators after it. -/
abbrev Rounded := Nat × Flags × Rng

/-- A code with its sign. -/
def FloatFmt.signed (f : FloatFmt) (neg : Bool) (c : Nat) : Nat := if neg then c + f.signBit else c

/-- The result of a finite value out of range (02 R39). -/
def FloatFmt.overflow (f : FloatFmt) (mode : Nat) (sat neg : Bool) : Nat × Flags :=
  if sat then (f.signed neg f.maxCode, fSAT ||| fNX)
  else if !f.ieee then (f.nanCode, fOF ||| fNX)
  else
    let toMax := match mode with
      | 1 => true
      | 2 => neg
      | 3 => !neg
      | _ => false
    (f.signed neg (if toMax then f.maxCode else f.infCode), fOF ||| fNX)

/-- Conversion to a float format (02 R36, R39). DESIGN CHOICE (log 72): a value far above the range draws under stochastic
rounding whenever it is inexact at the spacing of its own binade, as if the format's exponents went on; R36 and R37 do not
say. -/
def FloatFmt.round (f : FloatFmt) (mode : Nat) (sat : Bool) (v : FVal) (r : Rng) (lane : Nat) : Rounded :=
  match v with
  | .nan sg => (f.nanCode, flagIf sg fNV, r)
  | .inf neg =>
    if sat then (f.signed neg f.maxCode, fSAT, r)
    else if f.ieee then (f.signed neg f.infCode, 0, r) else (f.nanCode, fNV, r)
  | .fin neg m e =>
    if m = 0 then (f.signed neg 0, 0, r)
    else
      let emin : Int := 1 - (f.bias : Int) - f.mbits
      let q : Int := max emin (e + bitLen m - (f.mbits + 1))
      let sh := (q - e).toNat
      let m' := m * 2 ^ (e - q).toNat
      let (n, inexact, r) := roundNat mode neg m' sh r lane
      let (n, q) := if n = 2 ^ (f.mbits + 1) then (n / 2, q + 1) else (n, q)
      let expo : Int := q - emin
      let code := if n < 2 ^ f.mbits then n else n + expo.toNat * 2 ^ f.mbits
      if code > f.maxCode then
        let o := f.overflow mode sat neg
        (o.1, o.2, r)
      else
        (f.signed neg code,
          flagIf inexact fNX ||| flagIf (inexact && decide (n < 2 ^ f.mbits)) fUF, r)

/-- The integer types (02 R26): width and signedness. -/
structure IntFmt where
  width : Nat
  signed : Bool
  deriving DecidableEq, Repr

def IntFmt.minV (t : IntFmt) : Int := if t.signed then -(2 ^ (t.width - 1) : Nat) else 0
def IntFmt.maxV (t : IntFmt) : Int :=
  if t.signed then (2 ^ (t.width - 1) : Nat) - 1 else (2 ^ t.width : Nat) - 1
/-- The value of a pattern. -/
def IntFmt.decode (t : IntFmt) (c : Nat) : Int :=
  let c := c % 2 ^ t.width
  if t.signed && decide (2 ^ (t.width - 1) ≤ c) then (c : Int) - (2 ^ t.width : Nat) else c
/-- The pattern of a value modulo 2^width. -/
def IntFmt.encode (t : IntFmt) (x : Int) : Nat := (x % (2 ^ t.width : Nat)).toNat
/-- sat(x, T), with its flag (00 R8). -/
def IntFmt.sat (t : IntFmt) (x : Int) : Int × Flags :=
  if x < t.minV then (t.minV, fSAT) else if t.maxV < x then (t.maxV, fSAT) else (x, 0)
/-- Narrowing of an exact result: wrap with IOV, or clamp with SAT (02 R26). -/
def IntFmt.narrow (t : IntFmt) (sat : Bool) (x : Int) : Nat × Flags :=
  if sat then (t.encode (t.sat x).1, (t.sat x).2)
  else (t.encode x, flagIf (x < t.minV || t.maxV < x) fIOV)

/-- Conversion from a float to an integer type (02 R40). -/
def IntFmt.ofFloat (t : IntFmt) (mode : Nat) (sat : Bool) (v : FVal) (r : Rng) (lane : Nat) : Rounded :=
  match v with
  | .nan _ => (0, fNV, r)
  | .inf neg =>
    if sat then (t.encode (if neg then t.minV else t.maxV), fSAT, r)
    else (t.encode (if t.signed then t.minV else 0), fNV, r)
  | .fin neg m e =>
    let (n, inexact, r) := roundNat mode neg (m * 2 ^ e.toNat) (-e).toNat r lane
    let x : Int := if neg then -(n : Int) else n
    let nx := flagIf inexact fNX
    if x < t.minV || t.maxV < x then
      if sat then (t.encode (t.sat x).1, fSAT ||| nx, r)
      else (t.encode (if t.signed then t.minV else 0), fNV ||| nx, r)
    else (t.encode x, nx, r)

/-- An integer as an exact value. -/
def FVal.ofInt (x : Int) : FVal := .fin (x < 0) x.natAbs 0

/-- A value as a signed mantissa at exponent `e`, which must not exceed its own. -/
def scaled (neg : Bool) (m : Nat) (e e' : Int) : Int :=
  let x : Int := (m * 2 ^ (e - e').toNat : Nat)
  if neg then -x else x

/-- The sign of an exact zero sum (08 R158). -/
def zeroSign (mode : Nat) (a b : Bool) : Bool := if a = b then a else mode = 3

/-- Exact sum, and whether it is invalid (08 R158). -/
def FVal.add (mode : Nat) : FVal → FVal → FVal × Bool
  | .nan s, .nan t => (.nan false, s || t)
  | .nan s, _ => (.nan false, s)
  | _, .nan t => (.nan false, t)
  | .inf a, .inf b => if a = b then (.inf a, false) else (.nan false, true)
  | .inf a, _ => (.inf a, false)
  | _, .inf b => (.inf b, false)
  | .fin a m e, .fin b n k =>
    if m = 0 && n = 0 then (.fin (zeroSign mode a b) 0 0, false)
    else
      let q := min e k
      let x := scaled a m e q + scaled b n k q
      if x = 0 then (.fin (zeroSign mode a b) 0 0, false) else (.fin (x < 0) x.natAbs q, false)

/-- A value with its sign inverted. -/
def FVal.neg : FVal → FVal
  | .nan s => .nan s
  | .inf a => .inf !a
  | .fin a m e => .fin (!a) m e

/-- Exact product, and whether it is invalid (08 R158). -/
def FVal.mul : FVal → FVal → FVal × Bool
  | .nan s, .nan t => (.nan false, s || t)
  | .nan s, _ => (.nan false, s)
  | _, .nan t => (.nan false, t)
  | .inf a, .inf b => (.inf (a != b), false)
  | .inf a, .fin b n _ => if n = 0 then (.nan false, true) else (.inf (a != b), false)
  | .fin a m _, .inf b => if m = 0 then (.nan false, true) else (.inf (a != b), false)
  | .fin a m e, .fin b n k => (.fin (a != b) (m * n) (e + k), false)

/-- Less than, on values that are not NaN; zeros of both signs are equal. -/
def FVal.lt : FVal → FVal → Bool
  | .inf a, .inf b => a && !b
  | .inf a, _ => a
  | _, .inf b => !b
  | .fin a m e, .fin b n k => scaled a m e (min e k) < scaled b n k (min e k)
  | _, _ => false

def FVal.isNan : FVal → Bool
  | .nan _ => true
  | _ => false
def FVal.isSnan : FVal → Bool
  | .nan s => s
  | _ => false
def FVal.isInf : FVal → Bool
  | .inf _ => true
  | _ => false
def FVal.isNeg : FVal → Bool
  | .nan _ => false
  | .inf a => a
  | .fin a _ _ => a
def FVal.isZero : FVal → Bool
  | .fin _ m _ => m = 0
  | _ => false

/-- minimumNumber (or maximumNumber) of IEEE 754: −0 ranks below +0 (08 R159). -/
def FVal.minNum (max : Bool) (x y : FVal) : FVal :=
  if x.isNan then (if y.isNan then .nan false else y)
  else if y.isNan then x
  else if FVal.lt x y then (if max then y else x)
  else if FVal.lt y x then (if max then x else y)
  else if x.isNeg = max then y else x

/-- Bit-by-bit integer square root. -/
def isqrt (n : Nat) : Nat → Nat → Nat
  | 0, acc => acc
  | k + 1, acc =>
    let t := acc + 2 ^ k
    isqrt n k (if t * t ≤ n then t else acc)

/-- A square root precise enough for one correct rounding to binary32: 64 bits and a sticky bit. -/
def FVal.sqrt : FVal → FVal
  | .nan s => .nan s
  | .inf a => if a then .nan false else .inf false
  | .fin a m e =>
    if m = 0 then .fin a 0 0
    else if a then .nan false
    else
      let e' : Int := if (e - 140) % 2 = 0 then e - 140 else e - 141
      let n := m * 2 ^ (e - e').toNat
      let q := isqrt n (bitLen n / 2 + 1) 0
      .fin false (2 * q + (if q * q = n then 0 else 1)) (e' / 2 - 1)

/-- A quotient precise enough for one correct rounding to binary32. -/
def FVal.div : FVal → FVal → FVal
  | .nan _, _ => .nan false
  | _, .nan _ => .nan false
  | .inf _, .inf _ => .nan false
  | .inf a, .fin b _ _ => .inf (a != b)
  | .fin a _ _, .inf b => .fin (a != b) 0 0
  | .fin a m e, .fin b n k =>
    if n = 0 then (if m = 0 then .nan false else .inf (a != b))
    else
      let x := m * 2 ^ (bitLen n + 70)
      .fin (a != b) (2 * (x / n) + (if x % n = 0 then 0 else 1)) (e - k - (bitLen n + 70 : Nat) - 1)

/-- No generators: for roundings that draw nothing. -/
def Rng.none : Rng := ⟨0, 0, []⟩

/-- rne32 (00 R8): the binary32 pattern, and its flags. -/
def rne32 (v : FVal) : Nat × Flags := let x := fmtFP32.round 0 false v .none 0; (x.1, x.2.1)

/-- A conversion whose inputs' own invalidity is already known. -/
def FloatFmt.roundInv (f : FloatFmt) (mode : Nat) (sat : Bool) (v : FVal × Bool) (r : Rng) (lane : Nat) :
    Rounded :=
  let x := f.round mode sat v.1 r lane
  (x.1, x.2.1 ||| flagIf v.2 fNV, x.2.2)

/-- The class of an element type: a float format, an integer format, or a block format of 4 or 6 bits. -/
inductive TypeClass where
  | float (f : FloatFmt)
  | int (t : IntFmt)
  | block (bits : Nat)
  deriving DecidableEq, Repr

/-- The class that a type code names, DYN and reserved codes aside (02 R23). -/
def typeClass (code : Nat) : Option TypeClass :=
  match elemTypeOf code with
  | some .i8 => some (.int ⟨8, true⟩)
  | some .n8 => some (.int ⟨8, false⟩)
  | some .i16 => some (.int ⟨16, true⟩)
  | some .n16 => some (.int ⟨16, false⟩)
  | some .i32 => some (.int ⟨32, true⟩)
  | some .n32 => some (.int ⟨32, false⟩)
  | some .i64 => some (.int ⟨64, true⟩)
  | some .e4m3 => some (.float fmtE4M3)
  | some .e5m2 => some (.float fmtE5M2)
  | some .fp16 => some (.float fmtFP16)
  | some .bf16 => some (.float fmtBF16)
  | some .fp32 => some (.float fmtFP32)
  | some .b4 => some (.block 4)
  | some .b6 => some (.block 6)
  | _ => none

/-- Width in bits of the elements of a class. -/
def TypeClass.width : TypeClass → Nat
  | .float f => f.width
  | .int t => t.width
  | .block b => b

/-- Width in bits that a type code names; 8 for a code that names none. -/
def typeWidth (code : Nat) : Nat := ((typeClass code).map TypeClass.width).getD 8

/-- The exact value of a scalar code. -/
def TypeClass.value (c : TypeClass) (x : Nat) : FVal :=
  match c with
  | .float f => f.decode x
  | .int t => .ofInt (t.decode x)
  | .block _ => .fin false 0 0

/-- Conversion of an exact value, from a float or not, to a scalar type (02 R39, R40). -/
def convertTo (dst : TypeClass) (fromInt : Bool) (mode : Nat) (sat : Bool) (v : FVal) (r : Rng)
    (lane : Nat) : Rounded :=
  match dst, fromInt, v with
  | .float f, _, _ => f.round mode sat v r lane
  | .int t, true, .fin neg m e =>
    let x := scaled neg m e 0
    let n := t.narrow sat x
    (n.1, n.2, r)
  | .int t, _, _ => t.ofFloat mode sat v r lane
  | .block _, _, _ => (0, 0, r)

/-- Conversion between scalar types (02 R29, R39, R40). Equal types copy the bits, as R163 says for CVT and R173 for moves;
for COPY with CVT (10 R212) and the drains this is the model's reading (DESIGN CHOICE, log 72). -/
def convert (src dst : TypeClass) (mode : Nat) (sat : Bool) (x : Nat) (r : Rng) (lane : Nat) : Rounded :=
  if src = dst then (x % 2 ^ dst.width, 0, r)
  else
    let fromInt := match src with
      | .int _ => true
      | _ => false
    convertTo dst fromInt mode sat (src.value x) r lane

/-! Block formats (02 R30 to R34, R41 to R43). -/

/-- Magnitudes of the codes of a block type, in units of 2^-1 for B4 and 2^-4 for B6 (02 R32, R33). -/
def blockMags (bits ty : Nat) : List Nat :=
  if bits = 4 then
    match ty with
    | 0 => [0, 2, 4, 6, 8, 10, 12, 14, 16]
    | 1 => [0, 1, 2, 3, 4, 6, 8, 12]
    | 2 => [0, 2, 4, 8, 16, 32, 64, 128]
    | _ => [0, 2, 4, 6, 8, 10, 16, 32]
  else
    (List.range 32).map (fun c =>
      if ty = 0 then
        let e := c / 8
        let m := c % 8
        if e = 0 then 2 * m else (8 + m) * 2 ^ e
      else
        let e := c / 4
        let m := c % 4
        if e = 0 then m else (4 + m) * 2 ^ (e - 1))

/-- The exponent of the unit of `blockMags`. -/
def blockUnit (bits : Nat) : Int := if bits = 4 then -1 else -4

/-- The value of a code before scaling (02 R32, R33). -/
def blockCodeVal (bits ty code : Nat) : FVal :=
  if bits = 4 && ty = 0 then .ofInt ((⟨4, true⟩ : IntFmt).decode code)
  else
    let half := 2 ^ (bits - 1)
    .fin (half ≤ code % (2 * half)) ((blockMags bits ty).getD (code % half) 0) (blockUnit bits)

/-- A scale byte that makes every element NaN: 0xFF, or types 10 and 11 for B6 (02 R31, R33). -/
def isNanScale (bits scale : Nat) : Bool := scale = 0xFF || (bits = 6 && scale / 64 ≥ 2)

/-- The exact value of a block element (02 R31 to R34). -/
def blockValue (bits scale code : Nat) : FVal :=
  if isNanScale bits scale then .nan false
  else match blockCodeVal bits (scale / 64 % 4) code with
    | .fin a m e => .fin a m (e + (scale % 64 : Nat) - 32)
    | v => v

/-- Decoding of a block element to a scalar type (02 R43). -/
def decodeBlockTo (bits : Nat) (dst : TypeClass) (mode : Nat) (sat : Bool) (scale code : Nat) (r : Rng)
    (lane : Nat) : Rounded :=
  let x := convertTo dst false mode sat (blockValue bits scale code) r lane
  (x.1, x.2.1 ||| flagIf (bits = 6 && scale / 64 ≥ 2 && scale ≠ 0xFF) fFMTV, x.2.2)

/-- The largest magnitude M of a block type, in its units (02 R32, R33). -/
def blockMax (bits ty : Nat) : Nat :=
  if bits = 4 && ty = 0 then 14 else (blockMags bits ty).getLastD 0

/-- The largest exponent of a block type (02 R41). -/
def blockEmax (bits ty : Nat) : Nat := if bits = 4 && ty = 3 then 62 else 63

/-- Magnitude comparison of `m × 2^e` with `k` units of `2^u`. -/
def magGt (m : Nat) (e : Int) (k : Nat) (u : Int) : Bool :=
  let q := min e u
  m * 2 ^ (e - q).toNat > k * 2 ^ (u - q).toNat

/-- `m × 2^e` equals `k` units of `2^u`. -/
def magEq (m : Nat) (e : Int) (k : Nat) (u : Int) : Bool :=
  let q := min e u
  m * 2 ^ (e - q).toNat = k * 2 ^ (u - q).toNat

/-- The least exponent from `E` upward with which a magnitude fits, or the largest (02 R41). -/
def leastExp (bits ty m : Nat) (e : Int) : Nat → Nat → Nat
  | 0, x => x
  | fuel + 1, x =>
    if x = blockEmax bits ty then x
    else if magGt m (e + 32 - (x : Nat)) (blockMax bits ty) (blockUnit bits) then
      leastExp bits ty m e fuel (x + 1)
    else x

/-- Index of the largest magnitude of the list not above `n / 2^sh`. -/
def magFloor (n sh : Nat) : List Nat → Nat → Nat
  | [], i => i - 1
  | k :: t, i => if k * 2 ^ sh ≤ n then magFloor n sh t (i + 1) else i - 1

/-- One code of a block, its flags, and the generators (02 R35, R41): NX where the code's value differs from q. -/
def blockCode (bits ty E mode : Nat) (v : FVal) (r : Rng) (lane : Nat) : Rounded :=
  let half := 2 ^ (bits - 1)
  let iType := decide (bits = 4 ∧ ty = 0)
  let mags := blockMags bits ty
  let signed (neg : Bool) (i : Nat) : Nat :=
    if iType then (⟨4, true⟩ : IntFmt).encode (if neg then -(i : Int) else i)
    else if neg then i + half else i
  let top (neg : Bool) : Nat := if iType then (if neg then 8 else 7) else half - 1
  match v with
  | .nan _ => (0, 0, r)
  | .inf neg => (signed neg (top neg), fSAT ||| fNX, r)
  | .fin neg m e =>
    let q := e + 32 - (E : Int)
    let u := blockUnit bits
    if magGt m q (blockMax bits ty) u then
      let same := magEq m q (mags.getD (top neg) 0) u
      (signed neg (top neg), fSAT ||| flagIf (!same) fNX, r)
    else
      let sh := (u - q).toNat
      let n := m * 2 ^ (q - u).toNat
      let i := magFloor n sh mags 0
      let lo := mags.getD i 0
      if lo * 2 ^ sh = n then (signed neg i, 0, r)
      else
        let gap := mags.getD (i + 1) 0 - lo
        let dr := if mode = 5 then r.draw lane else (0, r)
        -- the position between the neighbours, as rem / (gap × 2^sh)
        let rem := n - lo * 2 ^ sh
        let den := gap * 2 ^ sh
        let up := match mode with
          | 0 => 2 * rem > den || (2 * rem = den && i % 2 = 1)
          | 1 => false
          | 2 => !neg
          | 3 => neg
          | 4 => 2 * rem ≥ den
          | _ => if neg then !(dr.1 * den < (den - rem) * 65536) else dr.1 * den < rem * 65536
        let j := if up then i + 1 else i
        (signed neg j, fNX ||| flagIf (j = 0 && m ≠ 0) fUF, dr.2)

/-- An encoded block: scale byte, 32 codes, flags, generators. -/
abbrev BlockResult := Nat × List Nat × Flags × Rng

/-- Codes of the elements in ascending order; an absent element is code 0 (02 R30). -/
def blockCodes (bits ty E mode : Nat) : List (Option FVal × Nat) → Rng → List Nat × Flags × Rng
  | [], r => ([], 0, r)
  | (none, _) :: t, r =>
    let x := blockCodes bits ty E mode t r
    (0 :: x.1, x.2.1, x.2.2)
  | (some v, lane) :: t, r =>
    let c := blockCode bits ty E mode v r lane
    let x := blockCodes bits ty E mode t c.2.2
    (c.1 :: x.1, c.2.1 ||| x.2.1, x.2.2)

/-- The largest magnitude among present finite elements, as mantissa and exponent. -/
def blockPeak : List (Option FVal × Nat) → Nat × Int
  | [] => (0, 0)
  | (some (.fin _ m e), _) :: t =>
    let p := blockPeak t
    if magGt m e p.1 p.2 then (m, e) else p
  | _ :: t => blockPeak t

/-- Encoding of one block under one type (02 R41); none when it overflows with saturation off. -/
def encodeBlockAs (bits ty mode : Nat) (sat : Bool) (xs : List (Option FVal × Nat)) (r : Rng) :
    Option BlockResult :=
  let anyInf := xs.any (fun p => (p.1.map FVal.isInf).getD false)
  let pk := blockPeak xs
  let E := if anyInf then blockEmax bits ty
    else if pk.1 = 0 then 0 else leastExp bits ty pk.1 pk.2 64 0
  let tooBig := anyInf || (pk.1 ≠ 0 && magGt pk.1 (pk.2 + 32 - (E : Nat)) (blockMax bits ty) (blockUnit bits))
  if tooBig && !sat then none
  else
    let x := blockCodes bits ty E mode xs r
    some (ty * 64 + E, x.1, x.2.1, x.2.2)

/-- The NaN block (02 R31, R41). -/
def nanBlock (fl : Flags) (r : Rng) : BlockResult := (0xFF, List.replicate 32 0, fl, r)

/-- A sum of squared errors, as a mantissa and an exponent; none when infinite (02 R42). -/
def squaredError (bits : Nat) (xs : List (Option FVal × Nat)) (b : Option BlockResult) : Option (Nat × Int) :=
  match b with
  | none => none
  | some (scale, codes, _, _) =>
    (xs.zip codes).foldl (fun acc p =>
      match acc, p.1.1 with
      | some (n, k), some (.fin a m e) =>
        match blockValue bits scale p.2 with
        | .fin b m' e' =>
          let q := min e e'
          let d := (scaled a m e q - scaled b m' e' q).natAbs
          let k' := min k (2 * q)
          some (n * 2 ^ (k - k').toNat + d * d * 2 ^ (2 * q - k').toNat, k')
        | _ => none
      | some _, some _ => none
      | acc, none => acc
      | none, _ => none) (some (0, 0))

/-- One error sum is strictly less than another; an infinite one is the greatest. -/
def errLt : Option (Nat × Int) → Option (Nat × Int) → Bool
  | some (m, e), some (n, k) => m * 2 ^ (e - min e k).toNat < n * 2 ^ (k - min e k).toNat
  | some _, none => true
  | none, _ => false

/-- Conversion of a block (02 R41, R42): `ty` is the target type, 4 the automatic choice of B4. DESIGN CHOICE (log 72): a
block whose NaNs are all quiet sets no NV, as the pseudocode of R41 says; the NV row of R47 names every NaN-bearing block. -/
def encodeBlock (bits ty mode : Nat) (sat : Bool) (xs : List (Option FVal × Nat)) (r : Rng) : BlockResult :=
  let anyNan := xs.any (fun p => (p.1.map FVal.isNan).getD false)
  let anySnan := xs.any (fun p => (p.1.map FVal.isSnan).getD false)
  let anyInf := xs.any (fun p => (p.1.map FVal.isInf).getD false)
  if anyNan then nanBlock (flagIf anySnan fNV) r
  else if anyInf && !sat then nanBlock fNV r
  else
    let best := if ty ≠ 4 then ty else
      let err := fun t => squaredError bits xs (encodeBlockAs bits t 0 sat xs r)
      [1, 2, 3].foldl (fun b t => if errLt (err t) (err b) then t else b) 0
    match encodeBlockAs bits best mode sat xs r with
    | some b => b
    | none => nanBlock fOF r

end Sys2Proof.Machine
end

