-- ==== Sys2Proof/Machine/Functions.lean ====
section
/-! DEFINITION. The function stages FRCP to FSIGM (08 R160): their exact results, to many more bits than FP32 holds, and
the FP32 results within the manual's bounds. Which of those a stage gives is free (assumption log 16). Fixed-point numbers
here have 96 fractional bits. -/

namespace Sys2Proof.Machine

/-- ln 2 and log2 e. -/
def lnTwo : Nat := 0xB17217F7D1CF79ABC9E3B398
def logTwoE : Nat := 0x171547652B82FE1777D0FFDA0

/-- m × 2^e in fixed point. -/
def fixedOf (m : Nat) (e : Int) : Nat := m * 2 ^ (e + 96).toNat / 2 ^ (-(e + 96)).toNat

/-- The series of e^y from one term on, n terms more. -/
def expSeries : Nat → Nat → Nat → Nat → Nat
  | 0, _, term, _ => term
  | n + 1, k, term, y => term + expSeries n (k + 1) (term * y / 2 ^ 96 / k) y

/-- 2^y, as m × 2^e. -/
def expTwo (y : Int) : Nat × Int :=
  (expSeries 32 1 (2 ^ 96) ((y % 2 ^ 96).toNat * lnTwo / 2 ^ 96), y / 2 ^ 96 - 96)

/-- e^y in fixed point, for y of at most 256. -/
def expFixed (y : Nat) : Nat :=
  let r := expTwo ((min y (256 * 2 ^ 96)) * logTwoE / 2 ^ 96 : Nat)
  r.1 * 2 ^ (r.2 + 96).toNat

/-- n bits of log2 of a number in [1, 2) with 128 fractional bits. -/
def logBits : Nat → Nat → Nat → Nat
  | 0, _, acc => acc
  | n + 1, y, acc =>
    let z := y * y / 2 ^ 128
    if 2 ^ 129 ≤ z then logBits n (z / 2) (2 * acc + 1) else logBits n z (2 * acc)

/-- The exact result of a stage for the operand ± m × 2^e, where it is neither special nor exact: its sign, and its
magnitude as m × 2^e. What is cut off leaves the result in the binade of the exact one: a result that lies below a power
of two is cut downward. -/
def exactFn (op : Nat) (neg : Bool) (m : Nat) (e : Int) : Bool × Nat × Int :=
  let top : Int := e + (bitLen m : Nat)
  let x := if 10 < top then 1024 * 2 ^ 96 else fixedOf m e
  match op with
  | 0x2C => (neg, 2 ^ 128 / m, -128 - e)
  | 0x2D =>
    let m' := if e % 2 = 0 then m else 2 * m
    (false, isqrt (2 ^ 256 / m') 129 0, -128 - (if e % 2 = 0 then e else e - 1) / 2)
  | 0x2E =>
    let r := expTwo (if neg then -((if top ≤ 10 && e < -96 then x + 1 else x : Nat) : Int) else x)
    (false, r.1, r.2)
  | 0x2F =>
    let v : Int := (top - 1) * 2 ^ 96 + (logBits 96 (m * 2 ^ (129 - bitLen m)) 0 : Nat)
    (decide (v < 0), v.natAbs, -96)
  | 0x30 =>
    if top < -20 then
      (neg, m * 2 ^ 96 - (m * m * m * 2 ^ (96 + 2 * e).toNat / (3 * 2 ^ (-(96 + 2 * e)).toNat) + 1), e - 96)
    else if 6 < top then (neg, 2 ^ 96 - 1, -96)
    else
      let g := expFixed (2 * x)
      (neg, (g - 2 ^ 96) * 2 ^ 128 / (g + 2 ^ 96), -128)
  | _ =>
    let g := expFixed x
    if neg then (false, 2 ^ 696 / (g + 1 + 2 ^ 96), -600) else (false, g * 2 ^ 128 / (g + 2 ^ 96), -128)

/-- The bound of a stage, in FP32 ulps. -/
def fnBound (op : Nat) : Nat := if op = 0x2C || op = 0x2D then 1 else 2

/-- FLOG2 may also lie within 2^-22 of its exact result, for an operand in [0.5, 2]. -/
def fnAbsolute (op : Nat) (m : Nat) (e : Int) : Bool :=
  op = 0x2F && (e + (bitLen m : Nat) = 0 || e + (bitLen m : Nat) = 1)

/-- The power of two at which a magnitude stands: an ulp is that of its binade. -/
def magTop (m : Nat) (e : Int) : Int := e + (bitLen m : Nat) - 1

/-- An FP32 value lies within the bound of an exact result (a 2^-50 part of which is left for how exact it is). -/
def withinBound (ulps : Nat) (absolute neg : Bool) (m : Nat) (e : Int) : FVal → Bool
  | .fin rn rm re =>
    let scaled := fun (k : Nat) (x : Int) => k * 2 ^ (x + 1200).toNat / 2 ^ (-(x + 1200)).toNat
    let a := scaled m e
    let v := scaled rm re
    let diff := if rn = neg then (if v < a then a - v else v - a) else a + v
    let ulp := scaled 1 (max (-149) (magTop m e - 23))
    decide (diff ≤ ulps * ulp + a / 2 ^ 50 + 1) || (absolute && decide (diff ≤ 2 ^ 1178 + a / 2 ^ 50))
  | _ => false

/-- The FP32 result: the one that the configuration names if it lies within the bound, else the nearest. Where the exact
result is beyond FP32's range the manual bounds nothing. -/
def functionResult (op : Nat) (neg : Bool) (m : Nat) (e : Int) : FVal :=
  let x := exactFn op neg m e
  let c := fmtFP32.decode (Config.floatFunction (BitVec.ofNat 8 op)
    (BitVec.ofNat 32 (fmtFP32.round 0 false (.fin neg m e) .none 0).1)).toNat
  if 128 ≤ magTop x.2.1 x.2.2 || withinBound (fnBound op) (fnAbsolute op m e) x.1 x.2.1 x.2.2 c then c
  else fmtFP32.decode (fmtFP32.round 0 false (.fin x.1 x.2.1 x.2.2) .none 0).1

end Sys2Proof.Machine
end

