-- ==== Sys2Proof/Machine/Compress.lean ====
section
/-! DEFINITION. Compression on the die network (12 R259): the mode of a line, its payload and flits, and its exact
expansion. -/

namespace Sys2Proof.Machine

/-- The modes of a line on the network (12 R259); a delta has 1, 2 or 4 bytes. -/
inductive LineMode where
  | zero | repeated | delta1 | delta2 | delta4 | raw
  deriving DecidableEq, Repr

/-- The sixteen 8-byte words of a line. -/
def lineWords (x : List Byte) : List (BitVec 64) := (List.range 16).map (fun k => wordOf 64 ((x.drop (8 * k)).take 8))

/-- Every delta from the first word, read as signed, fits `n` bytes. -/
def deltasFit (n : Nat) (ws : List (BitVec 64)) : Bool :=
  ws.all (fun w => decide (-2 ^ (8 * n - 1) ≤ (w - ws.headD 0).toInt ∧ (w - ws.headD 0).toInt < 2 ^ (8 * n - 1)))

/-- The first mode that fits; a line that must go raw does. -/
def lineMode (raw : Bool) (x : List Byte) : LineMode :=
  let ws := lineWords x
  if raw then .raw
  else if x.all (fun b => b = 0) then .zero
  else if ws.all (fun w => w = ws.headD 0) then .repeated
  else if deltasFit 1 ws then .delta1
  else if deltasFit 2 ws then .delta2
  else if deltasFit 4 ws then .delta4
  else .raw

/-- The first word, the deltas as `n` bytes each, and zeros up to whole flits. -/
def deltaPayload (n pad : Nat) (ws : List (BitVec 64)) : List Byte :=
  bytesOf (ws.headD 0) ++ (ws.map (fun w => toBytes (w - ws.headD 0).toNat n)).flatten ++ List.replicate pad 0

/-- The payload of a line in a mode. -/
def linePayload (m : LineMode) (x : List Byte) : List Byte :=
  let ws := lineWords x
  match m with
  | .zero => []
  | .repeated => bytesOf (ws.headD 0) ++ List.replicate 24 0
  | .delta1 => deltaPayload 1 8 ws
  | .delta2 => deltaPayload 2 24 ws
  | .delta4 => deltaPayload 4 24 ws
  | .raw => x

/-- Data flits of 32 bytes. -/
def LineMode.flits : LineMode → Nat
  | .zero => 0
  | .repeated => 1
  | .delta1 => 1
  | .delta2 => 2
  | .delta4 => 3
  | .raw => 4

/-- The line that a payload of deltas of `n` bytes stands for. -/
def deltaLine (n : Nat) (p : List Byte) : List Byte :=
  let w0 : BitVec 64 := wordOf 64 (p.take 8)
  ((List.range 16).map (fun k =>
    bytesOf (w0 + (wordOf (8 * n) ((p.drop (8 + n * k)).take n)).signExtend 64))).flatten

/-- The line that a payload stands for. -/
def expandLine (m : LineMode) (p : List Byte) : List Byte :=
  match m with
  | .zero => List.replicate 128 0
  | .repeated => (List.replicate 16 (p.take 8)).flatten
  | .delta1 => deltaLine 1 p
  | .delta2 => deltaLine 2 p
  | .delta4 => deltaLine 4 p
  | .raw => p

/-- A line as it arrives over the network. -/
def crossLine (raw : Bool) (x : List Byte) : List Byte :=
  let m := lineMode raw x
  expandLine m (linePayload m x)

end Sys2Proof.Machine
end

