-- ==== Sys2Proof/WellFormed.lean ====
section
/-! DEFINITION. Which field values an encoding admits: a slot instruction outside them raises ILLI at its
bundle (04 R74 to R78, R83 to R87; 06 R105, R106; 10 R210, R212). Conditions that depend on run-time state
are checked when the instruction executes. -/

namespace Sys2Proof

/-- A barrier field names no barrier, or an existing byte of the crew window (04 R85). -/
def barOk (bar : BitVec 18) : Bool :=
  bar = 0x3FFFF#18 || bar.toNat * 16 % 0x100000 < 0xC0000

/-- An element word of a nest set: not reserved, DYN, B4 or B6 (10 R210). -/
def nestElemOk (code : Nat) : Bool :=
  match elemTypeOf code with
  | none => false
  | some .dyn => false
  | some .b4 => false
  | some .b6 => false
  | some _ => true

/-- The dimension and value fields of ECFG (04 R86, 10 R210). -/
def ecfgOk (dim : BitVec 3) (fsel : BitVec 1) (val : BitVec 29) : Bool :=
  if dim.toNat ≤ 5 then true
  else if dim.toNat = 6 then
    if fsel = 0#1 then fld val.toNat 5 24 = 0 && nestElemOk (fld val.toNat 0 5)
    else fld val.toNat 26 3 ≤ 5
  else false

/-- The operations of COPY: codes 0 to 5, with the promise flag in bit 5 (10 R212). -/
def copyOpOk (op : BitVec 6) : Bool := fld op.toNat 0 5 ≤ 5

/-- The operations of SCATTER, PUT and GET: MOVE, ADD, MAX, MIN, OR (10 R212). -/
def redOpOk (op : BitVec 6) : Bool := op.toNat ≤ 5 && op.toNat ≠ 1

/-- The encoding admits the instruction's field values. An event carries no encoding. -/
def Instr.wf : Instr → Bool
  | .nop => true
  | .br _ => true
  | .call _ => true
  | .bc cond _ _ => cond.toNat ≤ 5
  | .jr _ => true
  | .callr _ => true
  | .ret => true
  | .loop sa cnt len => len ≠ 0 && (sa = 0 || cnt = 0)
  | .lbreak n => 1 ≤ n.toNat && n.toNat ≤ 6
  | .setfmt _ => true
  | .sleepu _ => true
  | .yield => true
  | .phint _ => true
  | .trap _ => true
  | .eret => true
  | .halt => true
  | .mwait _ _ => true
  | .add _ _ _ => true
  | .sub _ _ _ => true
  | .mul _ _ _ => true
  | .mulh _ _ _ => true
  | .mulhu _ _ _ => true
  | .div _ _ _ => true
  | .divu _ _ _ => true
  | .rem _ _ _ => true
  | .remu _ _ _ => true
  | .and _ _ _ => true
  | .or _ _ _ => true
  | .xor _ _ _ => true
  | .andn _ _ _ => true
  | .shl _ _ _ => true
  | .shr _ _ _ => true
  | .sar _ _ _ => true
  | .rotr _ _ _ => true
  | .min _ _ _ => true
  | .max _ _ _ => true
  | .minu _ _ _ => true
  | .maxu _ _ _ => true
  | .seq _ _ _ => true
  | .slt _ _ _ => true
  | .sltu _ _ _ => true
  | .selz _ _ _ => true
  | .clz _ _ => true
  | .ctz _ _ => true
  | .popc _ _ => true
  | .brev _ _ => true
  | .fshr _ _ _ => true
  | .addi _ _ _ => true
  | .andi _ _ _ => true
  | .ori _ _ _ => true
  | .xori _ _ _ => true
  | .slti _ _ _ => true
  | .sltiu _ _ _ => true
  | .fshri _ _ _ _ => true
  | .shli _ _ _ => true
  | .shri _ _ _ => true
  | .sari _ _ _ => true
  | .muli _ _ _ => true
  | .sli _ _ => true
  | .sins _ _ => true
  | .bfx _ _ _ _ => true
  | .bfxu _ _ _ _ => true
  | .bfi _ _ _ _ => true
  | .crr _ _ => true
  | .crw _ _ => true
  | .setvl _ _ _ => true
  | .ldq _ _ size _ => size.toNat ≤ 4
  | .stq _ _ size _ => size.toNat ≤ 4
  | .ld _ _ size _ _ => size.toNat ≤ 3
  | .st _ _ size _ => size.toNat ≤ 3
  | .vldq _ _ _ _ _ => true
  | .vstq _ _ _ _ => true
  | .vgathq _ _ _ _ mode _ => mode.toNat ≤ 2
  | .vscatq _ _ _ _ mode _ => mode.toNat ≤ 2
  | .amo _ _ _ op size _ scope => op.toNat ≤ 10 && size.toNat ≤ 1 && (op.toNat ≠ 10 || size = 0) && scope.toNat ≤ 4
  | .amoChunk _ _ _ _ scope => scope.toNat ≤ 4
  | .ldfe _ _ _ => true
  | .ldff _ _ _ => true
  | .stef _ _ _ => true
  | .femark _ _ _ _ => true
  | .marm _ _ size _ => size.toNat ≤ 4
  | .fence _ scope => scope.toNat ≤ 4
  | .pref _ _ size _ => size.toNat ≤ 4
  | .qopen _ _ _ => true
  | .qnext _ _ _ => true
  | .qand _ _ _ _ _ => true
  | .qor _ _ _ _ _ => true
  | .qskip _ _ _ _ => true
  | .qdown _ _ _ => true
  | .qclose _ => true
  | .qstat _ _ _ => true
  | .vh _ _ => true
  | .mbeat _ _ _ _ _ _ _ _ _ _ => true
  | .mdrain _ _ _ _ _ _ _ _ _ => true
  | .mdrainOfold _ _ _ _ _ _ _ => true
  | .mgsel _ => true
  | .mmode _ => true
  | .mfmt _ => true
  | .mdrainw => true
  | .mfload _ _ => true
  | .mzero _ => true
  | .mguse _ => true
  | .mrstp => true
  | .mrep _ => true
  | .xcopy _ _ _ _ => true
  | .xbcast _ _ _ => true
  | .twrow _ _ _ => true
  | .trcol _ _ _ => true
  | .trrow _ _ _ => true
  | .ldt _ _ _ _ size _ => size.toNat ≤ 3
  | .tunpk _ _ => true
  | .movvs _ _ _ => true
  | .movsv _ _ _ => true
  | .ecfg _ dim fsel val => ecfgOk dim fsel val
  | .copy _ bar _ _ _ _ op => barOk bar && copyOpOk op
  | .gather _ bar _ _ _ _ mode op => barOk bar && mode.toNat ≤ 2 && op = 0
  | .scatter _ bar _ _ _ _ mode op => barOk bar && mode.toNat ≤ 2 && redOpOk op
  | .nmop _ bar _ _ _ _ op _ => barOk bar && op.toNat ≤ 5
  | .nmfence _ bar => barOk bar
  | .nmopt _ bar _ _ _ alg _ => barOk bar && alg.toNat ≤ 2
  | .qfence _ bar _ => barOk bar
  | .subscr _ bar _ _ _ first cnt _ => barOk bar && first.toNat + cnt.toNat ≤ 24
  | .slotret _ bar _ k => barOk bar && k ≠ 0
  | .unsubscr _ bar _ => barOk bar
  | .hcwld _ bar _ first cnt => barOk bar && cnt ≠ 0 && first.toNat + cnt.toNat ≤ 512
  | .gload _ bar _ _ => barOk bar
  | .floadm _ bar _ _ _ => barOk bar
  | .pmig _ bar _ tier _ => barOk bar && tier.toNat ≤ 1
  | .put _ bar _ _ _ op _ => barOk bar && redOpOk op
  | .get _ bar _ _ _ op _ => barOk bar && redOpOk op
  | .phlive _ _ _ _ => true
  | .bankcfg _ bar bank mode _ => barOk bar && bank.toNat ≤ 23 && mode.toNat ≤ 2
  | .zerom _ bar _ _ => barOk bar
  | .binit _ cnt => cnt ≠ 0
  | .barrive _ cnt => cnt ≠ 0
  | .bwait _ _ _ _ => true
  | .bexpect _ _ => true
  | .sleepb _ => true
  | .tspawn _ _ => true
  | .tview _ _ => true
  | .tend => true
  | .tsuspend _ _ => true
  | .tsignal _ => true
  | .tnotify _ => true
  | .btest _ _ _ => true
  | .mrepReissue _ => true
  | .linePad _ => true
  | .blockClear _ => true
  | .budgetExhausted _ => true
  | .shadowLand _ => true
  | .loadDataReturn _ => true
  | .storePerform _ => true
  | .vSlotComplete _ => true
  | .sleepuTarget _ => true
  | .bwaitTimeout _ => true
  | .mwaitTimeout _ => true
  | .sleepbPromiseDue _ => true
  | .commandComplete _ _ => true
  | .engineFault _ _ => true
  | .replayLand _ => true
  | .taskStart _ => true
  | .viewFold _ _ => true
  | .dedupProbe _ _ => true
  | .hotClear _ _ => true
  | .moduleWriteApply _ => true
  | .hostMemoryAccess _ _ _ _ => true
  | .riggerFill _ _ => true
  | .groupValidation _ _ => true
  | .prectlSave _ => true
  | .prectlRestore _ => true
  | .hvSave _ => true
  | .hvRestore _ => true
  | .preemptBoundExpiry _ => true
  | .preemptFail _ => true
  | .preemptStateReached _ => true
  | .rootTask _ _ _ _ _ => true
  | .resume _ _ => true
  | .abort _ _ => true
  | .haltDecision _ _ _ => true
  | .shoot _ _ _ _ _ => true
  | .shootdone _ => true
  | .zmap _ _ _ => true
  | .zdone _ => true
  | .frameGrant _ _ _ _ => true
  | .putMessage _ _ => true
  | .getRequest _ _ _ _ _ => true
  | .getData _ _ _ _ => true
  | .farEndAck _ _ _ => true
  | .registerWrite _ _ _ _ => true
  | .registerRead _ _ _ => true
  | .containWrite _ _ => true
  | .form _ _ => true
  | .dissolve _ => true
  | .reset _ _ _ => true
  | .powerOn => true
  | .restartCold => true
  | .restartWarm => true
  | .quoteRequest _ => true
  | .firmwareChunk _ _ _ => true
  | .linkParameter _ _ _ => true
  | .flitArrival _ _ => true
  | .nakReceived _ _ => true
  | .retryTimeout _ => true
  | .portTrainFull _ _ => true
  | .keySwitch _ => true
  | .keyExhausted _ => true
  | .correctedError _ _ _ => true
  | .patrolScrub _ _ => true
  | .uncorrectableError _ _ _ _ => true
  | .governorInterval _ _ _ => true
  | .retrainingComplete _ _ => true
  | .keySlotRefill _ _ _ => true
  | .spuriousWake _ => true
  | .arrayOperationComplete _ => true
  | .xMoveComplete _ => true
  | .scoreboardResultWrite _ => true

end Sys2Proof
end

