-- ==== Sys2Proof/Decode.lean ====
section
/-! DEFINITION. From bits to instructions and back (04 R74 to R87, 06 R100 to R112). A slot body is read by
the slot it stands in; every body that is not an instruction is rejected by name, and raises ILLI at its
bundle (06 R100). The encoder writes the same fields. -/

namespace Sys2Proof

/-- Why a slot body is not an instruction. -/
inductive DecodeError where
  /-- An opcode, function, class or sub-operation that the opcode map does not assign (06 R100). -/
  | unassigned (s : Slot)
  /-- A nonzero reserved field, or a fixed field of another value (00 R7). -/
  | reservedField (s : Slot)
  /-- A field value that raises ILLI at the bundle (04 R74 to R87). -/
  | illegalField (s : Slot)
  deriving DecidableEq, Repr

/-- The result of reading one slot body. -/
abbrev Decoded := Except DecodeError Instr

/-- An instruction whose fields must be admitted by the encoding. -/
def checked (s : Slot) (rsvOk : Bool) (i : Instr) : Decoded :=
  if rsvOk then (if i.wf then .ok i else .error (.illegalField s)) else .error (.reservedField s)

/-- Reads a C-slot body. -/
def decodeC (w : Nat) : Decoded :=
  match fld w 26 6 with
  | 0x0 => checked .c (fld w 0 26 = 0) .nop
  | 0x1 => checked .c (true) (.br (bf w 0 26))
  | 0x2 => checked .c (true) (.call (bf w 0 26))
  | 0x3 => checked .c (true) (.bc (bf w 22 4) (bf w 16 6) (bf w 0 16))
  | 0x4 => checked .c (fld w 0 20 = 0) (.jr (bf w 20 6))
  | 0x5 => checked .c (fld w 0 20 = 0) (.callr (bf w 20 6))
  | 0x6 => checked .c (fld w 0 26 = 0) .ret
  | 0x8 => checked .c (true) (.loop (bf w 20 6) (bf w 9 11) (bf w 0 9))
  | 0x9 => checked .c (fld w 0 23 = 0) (.lbreak (bf w 23 3))
  | 0xa => checked .c (true) (.setfmt (bf w 0 26))
  | 0xb => checked .c (fld w 0 20 = 0) (.sleepu (bf w 20 6))
  | 0xc => checked .c (fld w 0 26 = 0) .yield
  | 0xd => checked .c (fld w 24 2 = 0) (.phint (bf w 0 24))
  | 0xe => checked .c (fld w 16 10 = 0) (.trap (bf w 0 16))
  | 0xf => checked .c (fld w 0 26 = 0) .eret
  | 0x10 => checked .c (fld w 0 26 = 0) .halt
  | 0x11 => checked .c (fld w 0 14 = 0) (.mwait (bf w 20 6) (bf w 14 6))
  | _ => .error (.unassigned .c)

/-- Reads a X-slot body. -/
def decodeX (w : Nat) : Decoded :=
  match fld w 27 5 with
  | 0x0 => checked .x (fld w 0 3 = 0) (.xcopy (bf w 18 9) (bf w 9 9) (bf w 6 3) (bf w 3 3))
  | 0x1 => checked .x (fld w 0 3 = 0 && fld w 6 3 = 0) (.xbcast (bf w 18 9) (bf w 9 9) (bf w 3 3))
  | 0x2 => checked .x (fld w 0 7 = 0) (.twrow (bf w 23 4) (bf w 16 7) (bf w 7 9))
  | 0x3 => checked .x (fld w 0 7 = 0) (.trcol (bf w 18 9) (bf w 14 4) (bf w 7 7))
  | 0x4 => checked .x (fld w 0 7 = 0) (.trrow (bf w 18 9) (bf w 14 4) (bf w 7 7))
  | 0x5 => checked .x (true) (.ldt (bf w 23 4) (bf w 19 4) (bf w 12 7) (bf w 8 4) (bf w 5 3) (bf w 0 5))
  | 0x6 => checked .x (fld w 0 19 = 0) (.tunpk (bf w 23 4) (bf w 19 4))
  | 0x7 => checked .x (fld w 0 5 = 0) (.movvs (bf w 21 6) (bf w 12 9) (bf w 5 7))
  | 0x8 => checked .x (fld w 0 5 = 0) (.movsv (bf w 18 9) (bf w 12 6) (bf w 5 7))
  | _ => .error (.unassigned .x)

/-- Reads a E-slot body. -/
def decodeE (w : Nat) : Decoded :=
  match fld w 58 6 with
  | 0x0 => checked .e (fld w 36 22 = 0) (.ecfg (bf w 33 3) (bf w 30 3) (bf w 29 1) (bf w 0 29))
  | 0x1 => checked .e (fld w 0 16 = 0) (.copy (bf w 54 4) (bf w 36 18) (bf w 33 3) (bf w 30 3) (bf w 26 4) (bf w 22 4) (bf w 16 6))
  | 0x2 => checked .e (fld w 0 12 = 0) (.gather (bf w 54 4) (bf w 36 18) (bf w 33 3) (bf w 29 4) (bf w 25 4) (bf w 21 4) (bf w 18 3) (bf w 12 6))
  | 0x3 => checked .e (fld w 0 12 = 0) (.scatter (bf w 54 4) (bf w 36 18) (bf w 33 3) (bf w 29 4) (bf w 25 4) (bf w 21 4) (bf w 18 3) (bf w 12 6))
  | 0x4 => checked .e (fld w 0 16 = 0) (.nmop (bf w 54 4) (bf w 36 18) (bf w 33 3) (bf w 29 4) (bf w 25 4) (bf w 21 4) (bf w 17 4) (bf w 16 1))
  | 0x5 => checked .e (fld w 0 36 = 0) (.nmfence (bf w 54 4) (bf w 36 18))
  | 0x6 => checked .e (true) (.nmopt (bf w 54 4) (bf w 36 18) (bf w 32 4) (bf w 28 4) (bf w 24 4) (bf w 20 4) (bf w 0 20))
  | 0x7 => checked .e (fld w 0 20 = 0) (.qfence (bf w 54 4) (bf w 36 18) (bf w 20 16))
  | 0x8 => checked .e (true) (.subscr (bf w 54 4) (bf w 36 18) (bf w 32 4) (bf w 29 3) (bf w 25 4) (bf w 20 5) (bf w 16 4) (bf w 0 16))
  | 0x9 => checked .e (fld w 16 9 = 0 && fld w 29 7 = 0) (.slotret (bf w 54 4) (bf w 36 18) (bf w 25 4) (bf w 0 16))
  | 0xa => checked .e (fld w 0 25 = 0 && fld w 29 7 = 0) (.unsubscr (bf w 54 4) (bf w 36 18) (bf w 25 4))
  | 0xb => checked .e (fld w 0 13 = 0) (.hcwld (bf w 54 4) (bf w 36 18) (bf w 32 4) (bf w 23 9) (bf w 13 10))
  | 0xc => checked .e (fld w 0 30 = 0) (.gload (bf w 54 4) (bf w 36 18) (bf w 32 4) (bf w 30 2))
  | 0xd => checked .e (fld w 0 28 = 0) (.floadm (bf w 54 4) (bf w 36 18) (bf w 32 4) (bf w 29 3) (bf w 28 1))
  | 0xe => checked .e (true) (.pmig (bf w 54 4) (bf w 36 18) (bf w 32 4) (bf w 30 2) (bf w 0 30))
  | 0xf => checked .e (fld w 0 11 = 0) (.put (bf w 54 4) (bf w 36 18) (bf w 32 4) (bf w 28 4) (bf w 20 8) (bf w 14 6) (bf w 11 3))
  | 0x10 => checked .e (fld w 0 11 = 0) (.get (bf w 54 4) (bf w 36 18) (bf w 32 4) (bf w 28 4) (bf w 20 8) (bf w 14 6) (bf w 11 3))
  | 0x11 => checked .e (fld w 0 10 = 0) (.phlive (bf w 42 16) (bf w 26 16) (bf w 18 8) (bf w 10 8))
  | 0x12 => checked .e (fld w 0 25 = 0) (.bankcfg (bf w 54 4) (bf w 36 18) (bf w 31 5) (bf w 29 2) (bf w 25 4))
  | 0x13 => checked .e (true) (.zerom (bf w 54 4) (bf w 36 18) (bf w 32 4) (bf w 0 32))
  | _ => .error (.unassigned .e)

/-- Reads a T-slot body. -/
def decodeT (w : Nat) : Decoded :=
  match fld w 26 6 with
  | 0x0 => checked .t (fld w 0 8 = 0) (.binit (bf w 20 6) (bf w 8 12))
  | 0x1 => checked .t (fld w 0 8 = 0) (.barrive (bf w 20 6) (bf w 8 12))
  | 0x2 => checked .t (true) (.bwait (bf w 20 6) (bf w 14 6) (bf w 10 4) (bf w 0 10))
  | 0x3 => checked .t (fld w 0 14 = 0) (.bexpect (bf w 20 6) (bf w 14 6))
  | 0x4 => checked .t (fld w 0 20 = 0) (.sleepb (bf w 20 6))
  | 0x5 => checked .t (fld w 0 14 = 0) (.tspawn (bf w 20 6) (bf w 14 6))
  | 0x6 => checked .t (fld w 0 17 = 0) (.tview (bf w 23 3) (bf w 17 6))
  | 0x7 => checked .t (fld w 0 26 = 0) .tend
  | 0x8 => checked .t (fld w 0 14 = 0) (.tsuspend (bf w 20 6) (bf w 14 6))
  | 0x9 => checked .t (fld w 0 20 = 0) (.tsignal (bf w 20 6))
  | 0xa => checked .t (fld w 0 20 = 0) (.tnotify (bf w 20 6))
  | 0xb => checked .t (fld w 0 10 = 0) (.btest (bf w 20 6) (bf w 14 6) (bf w 10 4))
  | _ => .error (.unassigned .t)

/-- Reads an S-slot body of opcode 0x00 by its function code (06 R104). -/
def decodeAlu (w : Nat) : Decoded :=
  match fld w 0 8 with
  | 0x0 => checked .s (true) (.add (bf w 20 6) (bf w 14 6) (bf w 8 6))
  | 0x1 => checked .s (true) (.sub (bf w 20 6) (bf w 14 6) (bf w 8 6))
  | 0x2 => checked .s (true) (.mul (bf w 20 6) (bf w 14 6) (bf w 8 6))
  | 0x3 => checked .s (true) (.mulh (bf w 20 6) (bf w 14 6) (bf w 8 6))
  | 0x4 => checked .s (true) (.mulhu (bf w 20 6) (bf w 14 6) (bf w 8 6))
  | 0x5 => checked .s (true) (.div (bf w 20 6) (bf w 14 6) (bf w 8 6))
  | 0x6 => checked .s (true) (.divu (bf w 20 6) (bf w 14 6) (bf w 8 6))
  | 0x7 => checked .s (true) (.rem (bf w 20 6) (bf w 14 6) (bf w 8 6))
  | 0x8 => checked .s (true) (.remu (bf w 20 6) (bf w 14 6) (bf w 8 6))
  | 0x10 => checked .s (true) (.and (bf w 20 6) (bf w 14 6) (bf w 8 6))
  | 0x11 => checked .s (true) (.or (bf w 20 6) (bf w 14 6) (bf w 8 6))
  | 0x12 => checked .s (true) (.xor (bf w 20 6) (bf w 14 6) (bf w 8 6))
  | 0x13 => checked .s (true) (.andn (bf w 20 6) (bf w 14 6) (bf w 8 6))
  | 0x14 => checked .s (true) (.shl (bf w 20 6) (bf w 14 6) (bf w 8 6))
  | 0x15 => checked .s (true) (.shr (bf w 20 6) (bf w 14 6) (bf w 8 6))
  | 0x16 => checked .s (true) (.sar (bf w 20 6) (bf w 14 6) (bf w 8 6))
  | 0x17 => checked .s (true) (.rotr (bf w 20 6) (bf w 14 6) (bf w 8 6))
  | 0x18 => checked .s (true) (.min (bf w 20 6) (bf w 14 6) (bf w 8 6))
  | 0x19 => checked .s (true) (.max (bf w 20 6) (bf w 14 6) (bf w 8 6))
  | 0x1a => checked .s (true) (.minu (bf w 20 6) (bf w 14 6) (bf w 8 6))
  | 0x1b => checked .s (true) (.maxu (bf w 20 6) (bf w 14 6) (bf w 8 6))
  | 0x20 => checked .s (true) (.seq (bf w 20 6) (bf w 14 6) (bf w 8 6))
  | 0x21 => checked .s (true) (.slt (bf w 20 6) (bf w 14 6) (bf w 8 6))
  | 0x22 => checked .s (true) (.sltu (bf w 20 6) (bf w 14 6) (bf w 8 6))
  | 0x23 => checked .s (true) (.selz (bf w 20 6) (bf w 14 6) (bf w 8 6))
  | 0x28 => checked .s (fld w 8 6 = 0) (.clz (bf w 20 6) (bf w 14 6))
  | 0x29 => checked .s (fld w 8 6 = 0) (.ctz (bf w 20 6) (bf w 14 6))
  | 0x2a => checked .s (fld w 8 6 = 0) (.popc (bf w 20 6) (bf w 14 6))
  | 0x2b => checked .s (fld w 8 6 = 0) (.brev (bf w 20 6) (bf w 14 6))
  | 0x30 => checked .s (true) (.fshr (bf w 20 6) (bf w 14 6) (bf w 8 6))
  | _ => .error (.unassigned .s)

/-- Reads an S-slot body. -/
def decodeS (w : Nat) : Decoded :=
  match fld w 26 6 with
  | 0x0 => decodeAlu w
  | 0x1 => checked .s (true) (.addi (bf w 20 6) (bf w 14 6) (bf w 0 14))
  | 0x2 => checked .s (true) (.andi (bf w 20 6) (bf w 14 6) (bf w 0 14))
  | 0x3 => checked .s (true) (.ori (bf w 20 6) (bf w 14 6) (bf w 0 14))
  | 0x4 => checked .s (true) (.xori (bf w 20 6) (bf w 14 6) (bf w 0 14))
  | 0x5 => checked .s (true) (.slti (bf w 20 6) (bf w 14 6) (bf w 0 14))
  | 0x6 => checked .s (true) (.sltiu (bf w 20 6) (bf w 14 6) (bf w 0 14))
  | 0x7 => checked .s (fld w 0 2 = 0) (.fshri (bf w 20 6) (bf w 14 6) (bf w 8 6) (bf w 2 6))
  | 0x8 => checked .s (fld w 6 8 = 0) (.shli (bf w 20 6) (bf w 14 6) (bf w 0 6))
  | 0x9 => checked .s (fld w 6 8 = 0) (.shri (bf w 20 6) (bf w 14 6) (bf w 0 6))
  | 0xa => checked .s (fld w 6 8 = 0) (.sari (bf w 20 6) (bf w 14 6) (bf w 0 6))
  | 0xb => checked .s (true) (.muli (bf w 20 6) (bf w 14 6) (bf w 0 14))
  | 0x10 => checked .s (true) (.sli (bf w 20 6) (bf w 0 20))
  | 0x11 => checked .s (true) (.sins (bf w 20 6) (bf w 0 20))
  | 0x18 => checked .s (fld w 0 2 = 0) (.bfx (bf w 20 6) (bf w 14 6) (bf w 8 6) (bf w 2 6))
  | 0x19 => checked .s (fld w 0 2 = 0) (.bfxu (bf w 20 6) (bf w 14 6) (bf w 8 6) (bf w 2 6))
  | 0x1a => checked .s (fld w 0 2 = 0) (.bfi (bf w 20 6) (bf w 14 6) (bf w 8 6) (bf w 2 6))
  | 0x20 => checked .s (fld w 12 8 = 0) (.crr (bf w 20 6) (bf w 0 12))
  | 0x21 => checked .s (fld w 12 2 = 0 && fld w 20 6 = 0) (.crw (bf w 14 6) (bf w 0 12))
  | 0x22 => checked .s (true) (.setvl (bf w 20 6) (bf w 14 6) (bf w 0 14))
  | _ => .error (.unassigned .s)

/-- Reads an AMO body; operation 11 is CHUNK, of size 1 only (06 R106). -/
def decodeAmo (w : Nat) : Decoded :=
  if fld w 7 4 = 11 then
    checked .a (fld w 5 2 = 1) (.amoChunk (bf w 23 4) (bf w 17 6) (bf w 11 6) (bf w 3 2) (bf w 0 3))
  else checked .a true (.amo (bf w 23 4) (bf w 17 6) (bf w 11 6) (bf w 7 4) (bf w 5 2) (bf w 3 2) (bf w 0 3))

/-- Reads an A-slot body. -/
def decodeA (w : Nat) : Decoded :=
  match fld w 27 5 with
  | 0x8 => decodeAmo w
  | 0x0 => checked .a (true) (.ldq (bf w 23 4) (bf w 19 4) (bf w 16 3) (bf w 0 16))
  | 0x1 => checked .a (true) (.stq (bf w 23 4) (bf w 19 4) (bf w 16 3) (bf w 0 16))
  | 0x2 => checked .a (true) (.ld (bf w 23 4) (bf w 17 6) (bf w 14 3) (bf w 13 1) (bf w 0 13))
  | 0x3 => checked .a (fld w 13 1 = 0) (.st (bf w 23 4) (bf w 17 6) (bf w 14 3) (bf w 0 13))
  | 0x4 => checked .a (fld w 4 3 = 0) (.vldq (bf w 23 4) (bf w 17 6) (bf w 16 1) (bf w 7 9) (bf w 0 4))
  | 0x5 => checked .a (fld w 4 3 = 0 && fld w 16 1 = 0) (.vstq (bf w 23 4) (bf w 17 6) (bf w 7 9) (bf w 0 4))
  | 0x6 => checked .a (true) (.vgathq (bf w 23 4) (bf w 17 6) (bf w 16 1) (bf w 7 9) (bf w 4 3) (bf w 0 4))
  | 0x7 => checked .a (true) (.vscatq (bf w 23 4) (bf w 17 6) (bf w 16 1) (bf w 7 9) (bf w 4 3) (bf w 0 4))
  | 0x9 => checked .a (fld w 16 3 = 2) (.ldfe (bf w 23 4) (bf w 19 4) (bf w 0 16))
  | 0xa => checked .a (fld w 16 3 = 2) (.ldff (bf w 23 4) (bf w 19 4) (bf w 0 16))
  | 0xb => checked .a (fld w 16 3 = 2) (.stef (bf w 23 4) (bf w 19 4) (bf w 0 16))
  | 0xc => checked .a (fld w 14 3 = 2) (.femark (bf w 23 4) (bf w 17 6) (bf w 13 1) (bf w 0 13))
  | 0xd => checked .a (true) (.marm (bf w 23 4) (bf w 19 4) (bf w 16 3) (bf w 0 16))
  | 0xe => checked .a (fld w 0 22 = 0) (.fence (bf w 25 2) (bf w 22 3))
  | 0xf => checked .a (true) (.pref (bf w 23 4) (bf w 19 4) (bf w 16 3) (bf w 0 16))
  | 0x10 => checked .a (fld w 0 8 = 0 && fld w 18 6 = 0) (.qopen (bf w 24 3) (bf w 14 4) (bf w 8 6))
  | 0x11 => checked .a (fld w 2 22 = 0) (.qnext (bf w 24 3) (bf w 1 1) (bf w 0 1))
  | 0x12 => checked .a (fld w 3 15 = 0 && fld w 24 3 = 0) (.qand (bf w 21 3) (bf w 18 3) (bf w 2 1) (bf w 1 1) (bf w 0 1))
  | 0x13 => checked .a (fld w 3 15 = 0 && fld w 24 3 = 0) (.qor (bf w 21 3) (bf w 18 3) (bf w 2 1) (bf w 1 1) (bf w 0 1))
  | 0x14 => checked .a (fld w 2 6 = 0 && fld w 14 10 = 0) (.qskip (bf w 24 3) (bf w 8 6) (bf w 1 1) (bf w 0 1))
  | 0x15 => checked .a (fld w 0 14 = 0 && fld w 18 3 = 0) (.qdown (bf w 24 3) (bf w 21 3) (bf w 14 4))
  | 0x16 => checked .a (fld w 0 24 = 0) (.qclose (bf w 24 3))
  | 0x17 => checked .a (fld w 0 3 = 0 && fld w 4 4 = 0 && fld w 14 10 = 0) (.qstat (bf w 24 3) (bf w 8 6) (bf w 3 1))
  | _ => .error (.unassigned .a)

/-- Reads a V-slot body. -/
def decodeV (w : Nat) : Decoded :=
  checked .v (fld w 0 3 = 0) (.vh (bf w 7 9) (bf w 3 4))

/-- Reads an MCTL body by its sub-operation (04 R83). -/
def decodeMctl (w : Nat) : Decoded :=
  match fld w 26 4 with
  | 0x0 => checked .m (fld w 0 22 = 0) (.mgsel (bf w 22 4))
  | 0x1 => checked .m (fld w 0 25 = 0) (.mmode (bf w 25 1))
  | 0x2 => checked .m (fld w 0 25 = 0) (.mfmt (bf w 25 1))
  | 0x3 => checked .m (fld w 0 26 = 0) .mdrainw
  | 0x4 => checked .m (fld w 0 21 = 0) (.mfload (bf w 22 4) (bf w 21 1))
  | 0x5 => checked .m (fld w 0 23 = 0) (.mzero (bf w 23 3))
  | 0x6 => checked .m (fld w 0 24 = 0) (.mguse (bf w 24 2))
  | 0x7 => checked .m (fld w 0 26 = 0) .mrstp
  | _ => .error (.unassigned .m)

/-- Reads an M-slot body by its class (04 R83); bit 6 of MDRAIN selects OFOLD (09 R190). -/
def decodeM (w : Nat) : Decoded :=
  match fld w 30 2 with
  | 0x0 => checked .m true (.mbeat (bf w 29 1) (bf w 28 1) (bf w 27 1) (bf w 26 1) (bf w 22 4) (bf w 15 7) (bf w 12 3) (bf w 5 7) (bf w 2 3) (bf w 0 2))
  | 0x1 =>
    if fld w 6 1 = 0 then checked .m true (.mdrain (bf w 27 3) (bf w 20 7) (bf w 19 1) (bf w 15 4) (bf w 8 7) (bf w 7 1) (bf w 5 1) (bf w 2 3) (bf w 0 2))
    else checked .m (fld w 0 2 = 0 && fld w 8 7 = 0) (.mdrainOfold (bf w 27 3) (bf w 20 7) (bf w 19 1) (bf w 15 4) (bf w 7 1) (bf w 5 1) (bf w 2 3))
  | 0x2 => decodeMctl w
  | _ => checked .m (fld w 0 18 = 0) (.mrep (bf w 18 12))

/-- Reads the body of a slot. -/
def decodeSlot : Slot → Nat → Decoded
  | .c, w => decodeC w
  | .s, w => decodeS w
  | .a, w => decodeA w
  | .v, w => decodeV w
  | .m, w => decodeM w
  | .x, w => decodeX w
  | .e, w => decodeE w
  | .t, w => decodeT w

/-- The bytes of a slot's body (04 R67). -/
def slotBytes : Slot → Nat
  | .v => 2
  | .e => 8
  | _ => 4

/-- The number of a slot, 0 to 7 (04 R67). -/
def slotNo : Slot → Nat
  | .c => 0
  | .s => 1
  | .a => 2
  | .v => 3
  | .m => 4
  | .x => 5
  | .e => 6
  | .t => 7

/-- The slots in ascending order. -/
def allSlots : List Slot := [.c, .s, .a, .v, .m, .x, .e, .t]

/-- The body of an instruction in its slot, written from the field tables of 04 R74 to R87; an event has
none. -/
def encode : Instr → Option Nat
  | .nop => some (0)
  | .br off => some (off.toNat + 67108864)
  | .call off => some (off.toNat + 134217728)
  | .bc cond sa off => some (cond.toNat * 4194304 + sa.toNat * 65536 + off.toNat + 201326592)
  | .jr sa => some (sa.toNat * 1048576 + 268435456)
  | .callr sa => some (sa.toNat * 1048576 + 335544320)
  | .ret => some (402653184)
  | .loop sa cnt len => some (sa.toNat * 1048576 + cnt.toNat * 512 + len.toNat + 536870912)
  | .lbreak n => some (n.toNat * 8388608 + 603979776)
  | .setfmt imm => some (imm.toNat + 671088640)
  | .sleepu sa => some (sa.toNat * 1048576 + 738197504)
  | .yield => some (805306368)
  | .phint groups => some (groups.toNat + 872415232)
  | .trap imm => some (imm.toNat + 939524096)
  | .eret => some (1006632960)
  | .halt => some (1073741824)
  | .mwait sd sa => some (sd.toNat * 1048576 + sa.toNat * 16384 + 1140850688)
  | .add sd sa sb => some (sd.toNat * 1048576 + sa.toNat * 16384 + sb.toNat * 256)
  | .sub sd sa sb => some (sd.toNat * 1048576 + sa.toNat * 16384 + sb.toNat * 256 + 1)
  | .mul sd sa sb => some (sd.toNat * 1048576 + sa.toNat * 16384 + sb.toNat * 256 + 2)
  | .mulh sd sa sb => some (sd.toNat * 1048576 + sa.toNat * 16384 + sb.toNat * 256 + 3)
  | .mulhu sd sa sb => some (sd.toNat * 1048576 + sa.toNat * 16384 + sb.toNat * 256 + 4)
  | .div sd sa sb => some (sd.toNat * 1048576 + sa.toNat * 16384 + sb.toNat * 256 + 5)
  | .divu sd sa sb => some (sd.toNat * 1048576 + sa.toNat * 16384 + sb.toNat * 256 + 6)
  | .rem sd sa sb => some (sd.toNat * 1048576 + sa.toNat * 16384 + sb.toNat * 256 + 7)
  | .remu sd sa sb => some (sd.toNat * 1048576 + sa.toNat * 16384 + sb.toNat * 256 + 8)
  | .and sd sa sb => some (sd.toNat * 1048576 + sa.toNat * 16384 + sb.toNat * 256 + 16)
  | .or sd sa sb => some (sd.toNat * 1048576 + sa.toNat * 16384 + sb.toNat * 256 + 17)
  | .xor sd sa sb => some (sd.toNat * 1048576 + sa.toNat * 16384 + sb.toNat * 256 + 18)
  | .andn sd sa sb => some (sd.toNat * 1048576 + sa.toNat * 16384 + sb.toNat * 256 + 19)
  | .shl sd sa sb => some (sd.toNat * 1048576 + sa.toNat * 16384 + sb.toNat * 256 + 20)
  | .shr sd sa sb => some (sd.toNat * 1048576 + sa.toNat * 16384 + sb.toNat * 256 + 21)
  | .sar sd sa sb => some (sd.toNat * 1048576 + sa.toNat * 16384 + sb.toNat * 256 + 22)
  | .rotr sd sa sb => some (sd.toNat * 1048576 + sa.toNat * 16384 + sb.toNat * 256 + 23)
  | .min sd sa sb => some (sd.toNat * 1048576 + sa.toNat * 16384 + sb.toNat * 256 + 24)
  | .max sd sa sb => some (sd.toNat * 1048576 + sa.toNat * 16384 + sb.toNat * 256 + 25)
  | .minu sd sa sb => some (sd.toNat * 1048576 + sa.toNat * 16384 + sb.toNat * 256 + 26)
  | .maxu sd sa sb => some (sd.toNat * 1048576 + sa.toNat * 16384 + sb.toNat * 256 + 27)
  | .seq sd sa sb => some (sd.toNat * 1048576 + sa.toNat * 16384 + sb.toNat * 256 + 32)
  | .slt sd sa sb => some (sd.toNat * 1048576 + sa.toNat * 16384 + sb.toNat * 256 + 33)
  | .sltu sd sa sb => some (sd.toNat * 1048576 + sa.toNat * 16384 + sb.toNat * 256 + 34)
  | .selz sd sa sb => some (sd.toNat * 1048576 + sa.toNat * 16384 + sb.toNat * 256 + 35)
  | .clz sd sa => some (sd.toNat * 1048576 + sa.toNat * 16384 + 40)
  | .ctz sd sa => some (sd.toNat * 1048576 + sa.toNat * 16384 + 41)
  | .popc sd sa => some (sd.toNat * 1048576 + sa.toNat * 16384 + 42)
  | .brev sd sa => some (sd.toNat * 1048576 + sa.toNat * 16384 + 43)
  | .fshr sd sa sb => some (sd.toNat * 1048576 + sa.toNat * 16384 + sb.toNat * 256 + 48)
  | .addi sd sa imm => some (sd.toNat * 1048576 + sa.toNat * 16384 + imm.toNat + 67108864)
  | .andi sd sa imm => some (sd.toNat * 1048576 + sa.toNat * 16384 + imm.toNat + 134217728)
  | .ori sd sa imm => some (sd.toNat * 1048576 + sa.toNat * 16384 + imm.toNat + 201326592)
  | .xori sd sa imm => some (sd.toNat * 1048576 + sa.toNat * 16384 + imm.toNat + 268435456)
  | .slti sd sa imm => some (sd.toNat * 1048576 + sa.toNat * 16384 + imm.toNat + 335544320)
  | .sltiu sd sa imm => some (sd.toNat * 1048576 + sa.toNat * 16384 + imm.toNat + 402653184)
  | .fshri sd sa sb sh => some (sd.toNat * 1048576 + sa.toNat * 16384 + sb.toNat * 256 + sh.toNat * 4 + 469762048)
  | .shli sd sa sh => some (sd.toNat * 1048576 + sa.toNat * 16384 + sh.toNat + 536870912)
  | .shri sd sa sh => some (sd.toNat * 1048576 + sa.toNat * 16384 + sh.toNat + 603979776)
  | .sari sd sa sh => some (sd.toNat * 1048576 + sa.toNat * 16384 + sh.toNat + 671088640)
  | .muli sd sa imm => some (sd.toNat * 1048576 + sa.toNat * 16384 + imm.toNat + 738197504)
  | .sli sd imm => some (sd.toNat * 1048576 + imm.toNat + 1073741824)
  | .sins sd imm => some (sd.toNat * 1048576 + imm.toNat + 1140850688)
  | .bfx sd sa pos len => some (sd.toNat * 1048576 + sa.toNat * 16384 + pos.toNat * 256 + len.toNat * 4 + 1610612736)
  | .bfxu sd sa pos len => some (sd.toNat * 1048576 + sa.toNat * 16384 + pos.toNat * 256 + len.toNat * 4 + 1677721600)
  | .bfi sd sa pos len => some (sd.toNat * 1048576 + sa.toNat * 16384 + pos.toNat * 256 + len.toNat * 4 + 1744830464)
  | .crr sd cr => some (sd.toNat * 1048576 + cr.toNat + 2147483648)
  | .crw sa cr => some (sa.toNat * 16384 + cr.toNat + 2214592512)
  | .setvl sd sa vt => some (sd.toNat * 1048576 + sa.toNat * 16384 + vt.toNat + 2281701376)
  | .ldq an inc size off => some (an.toNat * 8388608 + inc.toNat * 524288 + size.toNat * 65536 + off.toNat)
  | .stq an inc size off => some (an.toNat * 8388608 + inc.toNat * 524288 + size.toNat * 65536 + off.toNat + 134217728)
  | .ld an sd size sx off => some (an.toNat * 8388608 + sd.toNat * 131072 + size.toNat * 16384 + sx.toNat * 8192 + off.toNat + 268435456)
  | .st an sv size off => some (an.toNat * 8388608 + sv.toNat * 131072 + size.toNat * 16384 + off.toNat + 402653184)
  | .vldq an ss ff off inc => some (an.toNat * 8388608 + ss.toNat * 131072 + ff.toNat * 65536 + off.toNat * 128 + inc.toNat + 536870912)
  | .vstq an ss off inc => some (an.toNat * 8388608 + ss.toNat * 131072 + off.toNat * 128 + inc.toNat + 671088640)
  | .vgathq an sb ff vi mode inc => some (an.toNat * 8388608 + sb.toNat * 131072 + ff.toNat * 65536 + vi.toNat * 128 + mode.toNat * 16 + inc.toNat + 805306368)
  | .vscatq an sb ff vi mode inc => some (an.toNat * 8388608 + sb.toNat * 131072 + ff.toNat * 65536 + vi.toNat * 128 + mode.toNat * 16 + inc.toNat + 939524096)
  | .amo an sd sa op size ord scope => some (an.toNat * 8388608 + sd.toNat * 131072 + sa.toNat * 2048 + op.toNat * 128 + size.toNat * 32 + ord.toNat * 8 + scope.toNat + 1073741824)
  | .amoChunk an sd sa ord scope => some (an.toNat * 8388608 + sd.toNat * 131072 + sa.toNat * 2048 + ord.toNat * 8 + scope.toNat + 1073743264)
  | .ldfe an inc off => some (an.toNat * 8388608 + inc.toNat * 524288 + off.toNat + 1208090624)
  | .ldff an inc off => some (an.toNat * 8388608 + inc.toNat * 524288 + off.toNat + 1342308352)
  | .stef an inc off => some (an.toNat * 8388608 + inc.toNat * 524288 + off.toNat + 1476526080)
  | .femark an sc full off => some (an.toNat * 8388608 + sc.toNat * 131072 + full.toNat * 8192 + off.toNat + 1610645504)
  | .marm an inc size off => some (an.toNat * 8388608 + inc.toNat * 524288 + size.toNat * 65536 + off.toNat + 1744830464)
  | .fence kind scope => some (kind.toNat * 33554432 + scope.toNat * 4194304 + 1879048192)
  | .pref an inc size off => some (an.toNat * 8388608 + inc.toNat * 524288 + size.toNat * 65536 + off.toNat + 2013265920)
  | .qopen qn an sp => some (qn.toNat * 16777216 + an.toNat * 16384 + sp.toNat * 256 + 2147483648)
  | .qnext qn val nc => some (qn.toNat * 16777216 + val.toNat * 2 + nc.toNat + 2281701376)
  | .qand qa qb np val nc => some (qa.toNat * 2097152 + qb.toNat * 262144 + np.toNat * 4 + val.toNat * 2 + nc.toNat + 2415919104)
  | .qor qa qb np val nc => some (qa.toNat * 2097152 + qb.toNat * 262144 + np.toNat * 4 + val.toNat * 2 + nc.toNat + 2550136832)
  | .qskip qn st val nc => some (qn.toNat * 16777216 + st.toNat * 256 + val.toNat * 2 + nc.toNat + 2684354560)
  | .qdown qn qp an => some (qn.toNat * 16777216 + qp.toNat * 2097152 + an.toNat * 16384 + 2818572288)
  | .qclose qn => some (qn.toNat * 16777216 + 2952790016)
  | .qstat qn sd pos => some (qn.toNat * 16777216 + sd.toNat * 256 + pos.toNat * 8 + 3087007744)
  | .vh idx roff => some (idx.toNat * 128 + roff.toNat * 8)
  | .mbeat p s a w tile row acc arow inc ainc => some (p.toNat * 536870912 + s.toNat * 268435456 + a.toNat * 134217728 + w.toNat * 67108864 + tile.toNat * 4194304 + row.toNat * 32768 + acc.toNat * 4096 + arow.toNat * 32 + inc.toNat * 4 + ainc.toNat)
  | .mdrain acc row sram t drow clr ls inc dinc => some (acc.toNat * 134217728 + row.toNat * 1048576 + sram.toNat * 524288 + t.toNat * 32768 + drow.toNat * 256 + clr.toNat * 128 + ls.toNat * 32 + inc.toNat * 4 + dinc.toNat + 1073741824)
  | .mdrainOfold acc row sram t clr ls inc => some (acc.toNat * 134217728 + row.toNat * 1048576 + sram.toNat * 524288 + t.toNat * 32768 + clr.toNat * 128 + ls.toNat * 32 + inc.toNat * 4 + 1073741888)
  | .mgsel g => some (g.toNat * 4194304 + 2147483648)
  | .mmode rs => some (rs.toNat * 33554432 + 2214592512)
  | .mfmt sel => some (sel.toNat * 33554432 + 2281701376)
  | .mdrainw => some (2348810240)
  | .mfload t bank => some (t.toNat * 4194304 + bank.toNat * 2097152 + 2415919104)
  | .mzero acc => some (acc.toNat * 8388608 + 2483027968)
  | .mguse slot => some (slot.toNat * 16777216 + 2550136832)
  | .mrstp => some (2617245696)
  | .mrep cnt => some (cnt.toNat * 262144 + 3221225472)
  | .xcopy vd vs lgd lgs => some (vd.toNat * 262144 + vs.toNat * 512 + lgd.toNat * 64 + lgs.toNat * 8)
  | .xbcast vd vs lgs => some (vd.toNat * 262144 + vs.toNat * 512 + lgs.toNat * 8 + 134217728)
  | .twrow t row vs => some (t.toNat * 8388608 + row.toNat * 65536 + vs.toNat * 128 + 268435456)
  | .trcol vd t col => some (vd.toNat * 262144 + t.toNat * 16384 + col.toNat * 128 + 402653184)
  | .trrow vd t row => some (vd.toNat * 262144 + t.toNat * 16384 + row.toNat * 128 + 536870912)
  | .ldt t an row blk size inc => some (t.toNat * 8388608 + an.toNat * 524288 + row.toNat * 4096 + blk.toNat * 256 + size.toNat * 32 + inc.toNat + 671088640)
  | .tunpk td ts => some (td.toNat * 8388608 + ts.toNat * 524288 + 805306368)
  | .movvs sd vs lane => some (sd.toNat * 2097152 + vs.toNat * 4096 + lane.toNat * 32 + 939524096)
  | .movsv vd sa lane => some (vd.toNat * 262144 + sa.toNat * 4096 + lane.toNat * 32 + 1073741824)
  | .ecfg nset dim fsel val => some (nset.toNat * 8589934592 + dim.toNat * 1073741824 + fsel.toNat * 536870912 + val.toNat)
  | .copy q bar sset dset asrc adst op => some (q.toNat * 18014398509481984 + bar.toNat * 68719476736 + sset.toNat * 8589934592 + dset.toNat * 1073741824 + asrc.toNat * 67108864 + adst.toNat * 4194304 + op.toNat * 65536 + 288230376151711744)
  | .gather q bar nset atab ai ad mode op => some (q.toNat * 18014398509481984 + bar.toNat * 68719476736 + nset.toNat * 8589934592 + atab.toNat * 536870912 + ai.toNat * 33554432 + ad.toNat * 2097152 + mode.toNat * 262144 + op.toNat * 4096 + 576460752303423488)
  | .scatter q bar nset atab ai ad mode op => some (q.toNat * 18014398509481984 + bar.toNat * 68719476736 + nset.toNat * 8589934592 + atab.toNat * 536870912 + ai.toNat * 33554432 + ad.toNat * 2097152 + mode.toNat * 262144 + op.toNat * 4096 + 864691128455135232)
  | .nmop q bar nset ad asrc ai op ix => some (q.toNat * 18014398509481984 + bar.toNat * 68719476736 + nset.toNat * 8589934592 + ad.toNat * 536870912 + asrc.toNat * 33554432 + ai.toNat * 2097152 + op.toNat * 131072 + ix.toNat * 65536 + 1152921504606846976)
  | .nmfence q bar => some (q.toNat * 18014398509481984 + bar.toNat * 68719476736 + 1441151880758558720)
  | .nmopt q bar ap ag am alg cnt => some (q.toNat * 18014398509481984 + bar.toNat * 68719476736 + ap.toNat * 4294967296 + ag.toNat * 268435456 + am.toNat * 16777216 + alg.toNat * 1048576 + cnt.toNat + 1729382256910270464)
  | .qfence q bar mask => some (q.toNat * 18014398509481984 + bar.toNat * 68719476736 + mask.toNat * 1048576 + 2017612633061982208)
  | .subscr q bar asrc nset ring first cnt slot => some (q.toNat * 18014398509481984 + bar.toNat * 68719476736 + asrc.toNat * 4294967296 + nset.toNat * 536870912 + ring.toNat * 33554432 + first.toNat * 1048576 + cnt.toNat * 65536 + slot.toNat + 2305843009213693952)
  | .slotret q bar ring k => some (q.toNat * 18014398509481984 + bar.toNat * 68719476736 + ring.toNat * 33554432 + k.toNat + 2594073385365405696)
  | .unsubscr q bar ring => some (q.toNat * 18014398509481984 + bar.toNat * 68719476736 + ring.toNat * 33554432 + 2882303761517117440)
  | .hcwld q bar an first cnt => some (q.toNat * 18014398509481984 + bar.toNat * 68719476736 + an.toNat * 4294967296 + first.toNat * 8388608 + cnt.toNat * 8192 + 3170534137668829184)
  | .gload q bar an slot => some (q.toNat * 18014398509481984 + bar.toNat * 68719476736 + an.toNat * 4294967296 + slot.toNat * 1073741824 + 3458764513820540928)
  | .floadm q bar an nset bank => some (q.toNat * 18014398509481984 + bar.toNat * 68719476736 + an.toNat * 4294967296 + nset.toNat * 536870912 + bank.toNat * 268435456 + 3746994889972252672)
  | .pmig q bar an tier pages => some (q.toNat * 18014398509481984 + bar.toNat * 68719476736 + an.toNat * 4294967296 + tier.toNat * 1073741824 + pages.toNat + 4035225266123964416)
  | .put q bar al ar peer op nset => some (q.toNat * 18014398509481984 + bar.toNat * 68719476736 + al.toNat * 4294967296 + ar.toNat * 268435456 + peer.toNat * 1048576 + op.toNat * 16384 + nset.toNat * 2048 + 4323455642275676160)
  | .get q bar al ar peer op nset => some (q.toNat * 18014398509481984 + bar.toNat * 68719476736 + al.toNat * 4294967296 + ar.toNat * 268435456 + peer.toNat * 1048576 + op.toNat * 16384 + nset.toNat * 2048 + 4611686018427387904)
  | .phlive chunks tiles accs sgroups => some (chunks.toNat * 4398046511104 + tiles.toNat * 67108864 + accs.toNat * 262144 + sgroups.toNat * 1024 + 4899916394579099648)
  | .bankcfg q bar bank mode ring => some (q.toNat * 18014398509481984 + bar.toNat * 68719476736 + bank.toNat * 2147483648 + mode.toNat * 536870912 + ring.toNat * 33554432 + 5188146770730811392)
  | .zerom q bar an lines => some (q.toNat * 18014398509481984 + bar.toNat * 68719476736 + an.toNat * 4294967296 + lines.toNat + 5476377146882523136)
  | .binit sa cnt => some (sa.toNat * 1048576 + cnt.toNat * 256)
  | .barrive sa cnt => some (sa.toNat * 1048576 + cnt.toNat * 256 + 67108864)
  | .bwait sd sa ph tmo => some (sd.toNat * 1048576 + sa.toNat * 16384 + ph.toNat * 1024 + tmo.toNat + 134217728)
  | .bexpect sa sb => some (sa.toNat * 1048576 + sb.toNat * 16384 + 201326592)
  | .sleepb sa => some (sa.toNat * 1048576 + 268435456)
  | .tspawn sd sa => some (sd.toNat * 1048576 + sa.toNat * 16384 + 335544320)
  | .tview view sa => some (view.toNat * 8388608 + sa.toNat * 131072 + 402653184)
  | .tend => some (469762048)
  | .tsuspend sa sb => some (sa.toNat * 1048576 + sb.toNat * 16384 + 536870912)
  | .tsignal sa => some (sa.toNat * 1048576 + 603979776)
  | .tnotify sa => some (sa.toNat * 1048576 + 671088640)
  | .btest sd sa ph => some (sd.toNat * 1048576 + sa.toNat * 16384 + ph.toNat * 1024 + 738197504)
  | .mrepReissue _ => none
  | .linePad _ => none
  | .blockClear _ => none
  | .budgetExhausted _ => none
  | .shadowLand _ => none
  | .loadDataReturn _ => none
  | .storePerform _ => none
  | .vSlotComplete _ => none
  | .sleepuTarget _ => none
  | .bwaitTimeout _ => none
  | .mwaitTimeout _ => none
  | .sleepbPromiseDue _ => none
  | .commandComplete _ _ => none
  | .engineFault _ _ => none
  | .replayLand _ => none
  | .taskStart _ => none
  | .viewFold _ _ => none
  | .dedupProbe _ _ => none
  | .hotClear _ _ => none
  | .moduleWriteApply _ => none
  | .hostMemoryAccess _ _ _ _ => none
  | .riggerFill _ _ => none
  | .groupValidation _ _ => none
  | .prectlSave _ => none
  | .prectlRestore _ => none
  | .hvSave _ => none
  | .hvRestore _ => none
  | .preemptBoundExpiry _ => none
  | .preemptFail _ => none
  | .preemptStateReached _ => none
  | .rootTask _ _ _ _ _ => none
  | .resume _ _ => none
  | .abort _ _ => none
  | .haltDecision _ _ _ => none
  | .shoot _ _ _ _ _ => none
  | .shootdone _ => none
  | .zmap _ _ _ => none
  | .zdone _ => none
  | .frameGrant _ _ _ _ => none
  | .putMessage _ _ => none
  | .getRequest _ _ _ _ _ => none
  | .getData _ _ _ _ => none
  | .farEndAck _ _ _ => none
  | .registerWrite _ _ _ _ => none
  | .registerRead _ _ _ => none
  | .containWrite _ _ => none
  | .form _ _ => none
  | .dissolve _ => none
  | .reset _ _ _ => none
  | .powerOn => none
  | .restartCold => none
  | .restartWarm => none
  | .quoteRequest _ => none
  | .firmwareChunk _ _ _ => none
  | .linkParameter _ _ _ => none
  | .flitArrival _ _ => none
  | .nakReceived _ _ => none
  | .retryTimeout _ => none
  | .portTrainFull _ _ => none
  | .keySwitch _ => none
  | .keyExhausted _ => none
  | .correctedError _ _ _ => none
  | .patrolScrub _ _ => none
  | .uncorrectableError _ _ _ _ => none
  | .governorInterval _ _ _ => none
  | .retrainingComplete _ _ => none
  | .keySlotRefill _ _ _ => none
  | .spuriousWake _ => none
  | .arrayOperationComplete _ => none
  | .xMoveComplete _ => none
  | .scoreboardResultWrite _ => none

/-- How many bits of an instruction's body its form fixes. -/
def fixedBits : Instr → Nat
  | .nop => 32
  | .br _ => 6
  | .call _ => 6
  | .bc _ _ _ => 6
  | .jr _ => 26
  | .callr _ => 26
  | .ret => 32
  | .loop _ _ _ => 6
  | .lbreak _ => 29
  | .setfmt _ => 6
  | .sleepu _ => 26
  | .yield => 32
  | .phint _ => 8
  | .trap _ => 16
  | .eret => 32
  | .halt => 32
  | .mwait _ _ => 20
  | .add _ _ _ => 14
  | .sub _ _ _ => 14
  | .mul _ _ _ => 14
  | .mulh _ _ _ => 14
  | .mulhu _ _ _ => 14
  | .div _ _ _ => 14
  | .divu _ _ _ => 14
  | .rem _ _ _ => 14
  | .remu _ _ _ => 14
  | .and _ _ _ => 14
  | .or _ _ _ => 14
  | .xor _ _ _ => 14
  | .andn _ _ _ => 14
  | .shl _ _ _ => 14
  | .shr _ _ _ => 14
  | .sar _ _ _ => 14
  | .rotr _ _ _ => 14
  | .min _ _ _ => 14
  | .max _ _ _ => 14
  | .minu _ _ _ => 14
  | .maxu _ _ _ => 14
  | .seq _ _ _ => 14
  | .slt _ _ _ => 14
  | .sltu _ _ _ => 14
  | .selz _ _ _ => 14
  | .clz _ _ => 20
  | .ctz _ _ => 20
  | .popc _ _ => 20
  | .brev _ _ => 20
  | .fshr _ _ _ => 14
  | .addi _ _ _ => 6
  | .andi _ _ _ => 6
  | .ori _ _ _ => 6
  | .xori _ _ _ => 6
  | .slti _ _ _ => 6
  | .sltiu _ _ _ => 6
  | .fshri _ _ _ _ => 8
  | .shli _ _ _ => 14
  | .shri _ _ _ => 14
  | .sari _ _ _ => 14
  | .muli _ _ _ => 6
  | .sli _ _ => 6
  | .sins _ _ => 6
  | .bfx _ _ _ _ => 8
  | .bfxu _ _ _ _ => 8
  | .bfi _ _ _ _ => 8
  | .crr _ _ => 14
  | .crw _ _ => 14
  | .setvl _ _ _ => 6
  | .ldq _ _ _ _ => 5
  | .stq _ _ _ _ => 5
  | .ld _ _ _ _ _ => 5
  | .st _ _ _ _ => 6
  | .vldq _ _ _ _ _ => 8
  | .vstq _ _ _ _ => 9
  | .vgathq _ _ _ _ _ _ => 5
  | .vscatq _ _ _ _ _ _ => 5
  | .amo _ _ _ _ _ _ _ => 5
  | .amoChunk _ _ _ _ _ => 11
  | .ldfe _ _ _ => 8
  | .ldff _ _ _ => 8
  | .stef _ _ _ => 8
  | .femark _ _ _ _ => 8
  | .marm _ _ _ _ => 5
  | .fence _ _ => 27
  | .pref _ _ _ _ => 5
  | .qopen _ _ _ => 19
  | .qnext _ _ _ => 27
  | .qand _ _ _ _ _ => 23
  | .qor _ _ _ _ _ => 23
  | .qskip _ _ _ _ => 21
  | .qdown _ _ _ => 22
  | .qclose _ => 29
  | .qstat _ _ _ => 22
  | .vh _ _ => 3
  | .mbeat _ _ _ _ _ _ _ _ _ _ => 2
  | .mdrain _ _ _ _ _ _ _ _ _ => 3
  | .mdrainOfold _ _ _ _ _ _ _ => 12
  | .mgsel _ => 28
  | .mmode _ => 31
  | .mfmt _ => 31
  | .mdrainw => 32
  | .mfload _ _ => 27
  | .mzero _ => 29
  | .mguse _ => 30
  | .mrstp => 32
  | .mrep _ => 20
  | .xcopy _ _ _ _ => 8
  | .xbcast _ _ _ => 11
  | .twrow _ _ _ => 12
  | .trcol _ _ _ => 12
  | .trrow _ _ _ => 12
  | .ldt _ _ _ _ _ _ => 5
  | .tunpk _ _ => 24
  | .movvs _ _ _ => 10
  | .movsv _ _ _ => 10
  | .ecfg _ _ _ _ => 28
  | .copy _ _ _ _ _ _ _ => 22
  | .gather _ _ _ _ _ _ _ _ => 18
  | .scatter _ _ _ _ _ _ _ _ => 18
  | .nmop _ _ _ _ _ _ _ _ => 22
  | .nmfence _ _ => 42
  | .nmopt _ _ _ _ _ _ _ => 6
  | .qfence _ _ _ => 26
  | .subscr _ _ _ _ _ _ _ _ => 6
  | .slotret _ _ _ _ => 22
  | .unsubscr _ _ _ => 38
  | .hcwld _ _ _ _ _ => 19
  | .gload _ _ _ _ => 36
  | .floadm _ _ _ _ _ => 34
  | .pmig _ _ _ _ _ => 6
  | .put _ _ _ _ _ _ _ => 17
  | .get _ _ _ _ _ _ _ => 17
  | .phlive _ _ _ _ => 16
  | .bankcfg _ _ _ _ _ => 31
  | .zerom _ _ _ _ => 6
  | .binit _ _ => 14
  | .barrive _ _ => 14
  | .bwait _ _ _ _ => 6
  | .bexpect _ _ => 20
  | .sleepb _ => 26
  | .tspawn _ _ => 20
  | .tview _ _ => 23
  | .tend => 32
  | .tsuspend _ _ => 20
  | .tsignal _ => 26
  | .tnotify _ => 26
  | .btest _ _ _ => 16
  | .mrepReissue _ => 0
  | .linePad _ => 0
  | .blockClear _ => 0
  | .budgetExhausted _ => 0
  | .shadowLand _ => 0
  | .loadDataReturn _ => 0
  | .storePerform _ => 0
  | .vSlotComplete _ => 0
  | .sleepuTarget _ => 0
  | .bwaitTimeout _ => 0
  | .mwaitTimeout _ => 0
  | .sleepbPromiseDue _ => 0
  | .commandComplete _ _ => 0
  | .engineFault _ _ => 0
  | .replayLand _ => 0
  | .taskStart _ => 0
  | .viewFold _ _ => 0
  | .dedupProbe _ _ => 0
  | .hotClear _ _ => 0
  | .moduleWriteApply _ => 0
  | .hostMemoryAccess _ _ _ _ => 0
  | .riggerFill _ _ => 0
  | .groupValidation _ _ => 0
  | .prectlSave _ => 0
  | .prectlRestore _ => 0
  | .hvSave _ => 0
  | .hvRestore _ => 0
  | .preemptBoundExpiry _ => 0
  | .preemptFail _ => 0
  | .preemptStateReached _ => 0
  | .rootTask _ _ _ _ _ => 0
  | .resume _ _ => 0
  | .abort _ _ => 0
  | .haltDecision _ _ _ => 0
  | .shoot _ _ _ _ _ => 0
  | .shootdone _ => 0
  | .zmap _ _ _ => 0
  | .zdone _ => 0
  | .frameGrant _ _ _ _ => 0
  | .putMessage _ _ => 0
  | .getRequest _ _ _ _ _ => 0
  | .getData _ _ _ _ => 0
  | .farEndAck _ _ _ => 0
  | .registerWrite _ _ _ _ => 0
  | .registerRead _ _ _ => 0
  | .containWrite _ _ => 0
  | .form _ _ => 0
  | .dissolve _ => 0
  | .reset _ _ _ => 0
  | .powerOn => 0
  | .restartCold => 0
  | .restartWarm => 0
  | .quoteRequest _ => 0
  | .firmwareChunk _ _ _ => 0
  | .linkParameter _ _ _ => 0
  | .flitArrival _ _ => 0
  | .nakReceived _ _ => 0
  | .retryTimeout _ => 0
  | .portTrainFull _ _ => 0
  | .keySwitch _ => 0
  | .keyExhausted _ => 0
  | .correctedError _ _ _ => 0
  | .patrolScrub _ _ => 0
  | .uncorrectableError _ _ _ _ => 0
  | .governorInterval _ _ _ => 0
  | .retrainingComplete _ _ => 0
  | .keySlotRefill _ _ _ => 0
  | .spuriousWake _ => 0
  | .arrayOperationComplete _ => 0
  | .xMoveComplete _ => 0
  | .scoreboardResultWrite _ => 0

/-- Of two readings, the one whose form fixes more bits; the first on a tie. -/
def moreFixed : Option Instr → Option Instr → Option Instr
  | some i, some j => if fixedBits i < fixedBits j then some j else some i
  | some i, none => some i
  | none, r => r

/-- The instruction a body is read as in one slot. -/
def readAs (s : Slot) (w : Nat) : Option Instr :=
  match decodeSlot s w with
  | .ok i => some i
  | .error _ => none

/-- The instruction read from the bits of one row of the opcode table. A row's bits are a slot body, and a
body alone does not say its slot: the header of its bundle does (04 R67). Of the slots of the row's width,
this takes the reading whose form fixes the most bits, X, T, M, A, S, C on a tie (assumption log 14). -/
def decodeTableWord (nbits w : Nat) : Option Instr :=
  if nbits ≤ 16 then readAs .v (w % 2 ^ 16)
  else if nbits ≤ 32 then
    [Slot.x, .t, .m, .a, .s, .c].foldl (fun r s => moreFixed r (readAs s (w % 2 ^ 32))) none
  else readAs .e (w % 2 ^ 64)

end Sys2Proof
end

