-- ==== Sys2Proof/Machine/Crypto.lean ====
section
/-! DEFINITION. The published functions that the manual names: SHA-256 (28 R411), SipHash-2-4 (12 R253) and AES-256-GCM (25
R392), over bytes in the order in which they are taken. -/

namespace Sys2Proof.Machine

/-- The number whose bytes are given, highest first. -/
def ofBytesBE (bs : List Byte) : Nat := bs.foldl (fun a b => a * 256 + b.toNat) 0

/-- The 32-bit words of a list of bytes, highest byte first. -/
def wordsBE : Nat → List Byte → List (BitVec 32)
  | 0, _ => []
  | n + 1, bs => BitVec.ofNat 32 (ofBytesBE (bs.take 4)) :: wordsBE n (bs.drop 4)

/-! SHA-256. -/

/-- The 64 round constants, the first highest. -/
def shaConstants : Nat :=
  0x428a2f9871374491b5c0fbcfe9b5dba53956c25b59f111f1923f82a4ab1c5ed5d807aa9812835b01243185be550c7dc3 * 2 ^ 1664 +
  0x72be5d7480deb1fe9bdc06a7c19bf174e49b69c1efbe47860fc19dc6240ca1cc2de92c6f4a7484aa5cb0a9dc76f988da * 2 ^ 1280 +
  0x983e5152a831c66db00327c8bf597fc7c6e00bf3d5a7914706ca63511429296727b70a852e1b21384d2c6dfc53380d13 * 2 ^ 896 +
  0x650a7354766a0abb81c2c92e92722c85a2bfe8a1a81a664bc24b8b70c76c51a3d192e819d6990624f40e3585106aa070 * 2 ^ 512 +
  0x19a4c1161e376c082748774c34b0bcb5391c0cb34ed8aa4a5b9cca4f682e6ff3748f82ee78a5636f84c878148cc70208 * 2 ^ 128 +
  0x90befffaa4506cebbef9a3f7c67178f2

/-- A chaining value, or the working variables of a round. -/
structure Sha where
  a : BitVec 32
  b : BitVec 32
  c : BitVec 32
  d : BitVec 32
  e : BitVec 32
  f : BitVec 32
  g : BitVec 32
  h : BitVec 32
  deriving DecidableEq, Repr

/-- The initial chaining value. -/
def shaStart : Sha := ⟨0x6a09e667, 0xbb67ae85, 0x3c6ef372, 0xa54ff53a, 0x510e527f, 0x9b05688c, 0x1f83d9ab, 0x5be0cd19⟩

/-- The message schedule, its last word first: `n` more words. -/
def shaExtend : Nat → List (BitVec 32) → List (BitVec 32)
  | 0, w => w
  | n + 1, w =>
    let x := w.getD 1 0
    let y := w.getD 14 0
    shaExtend n (((x.rotateRight 17 ^^^ x.rotateRight 19 ^^^ x >>> 10) + w.getD 6 0 +
      (y.rotateRight 7 ^^^ y.rotateRight 18 ^^^ y >>> 3) + w.getD 15 0) :: w)

/-- One round, with the sum of its constant and its word. -/
def Sha.round (s : Sha) (kw : BitVec 32) : Sha :=
  let t := s.h + (s.e.rotateRight 6 ^^^ s.e.rotateRight 11 ^^^ s.e.rotateRight 25) +
    (s.e &&& s.f ^^^ ~~~s.e &&& s.g) + kw
  let u := (s.a.rotateRight 2 ^^^ s.a.rotateRight 13 ^^^ s.a.rotateRight 22) +
    (s.a &&& s.b ^^^ s.a &&& s.c ^^^ s.b &&& s.c)
  ⟨t + u, s.a, s.b, s.c, s.d + t, s.e, s.f, s.g⟩

/-- One block of 64 bytes. -/
def Sha.block (s : Sha) (bs : List Byte) : Sha :=
  let w := (shaExtend 48 (wordsBE 16 bs).reverse).reverse
  let r := ((List.range 64).zip w).foldl
    (fun s q => s.round (BitVec.ofNat 32 (shaConstants / 2 ^ (32 * (63 - q.1))) + q.2)) s
  ⟨s.a + r.a, s.b + r.b, s.c + r.c, s.d + r.d, s.e + r.e, s.f + r.f, s.g + r.g, s.h + r.h⟩

/-- Blocks in order. -/
def Sha.blocks (s : Sha) : Nat → List Byte → Sha
  | 0, _ => s
  | n + 1, bs => (s.block (bs.take 64)).blocks n (bs.drop 64)

/-- The digest; its first byte is the highest. -/
def sha256 (bs : List Byte) : BitVec 256 :=
  let m := bs ++ 0x80 :: List.replicate ((119 - bs.length % 64) % 64) 0 ++ (toBytes (8 * bs.length) 8).reverse
  let r := shaStart.blocks (m.length / 64) m
  r.a ++ r.b ++ r.c ++ r.d ++ r.e ++ r.f ++ r.g ++ r.h

/-! SipHash-2-4. -/

/-- The four state words. -/
structure Sip where
  a : BitVec 64
  b : BitVec 64
  c : BitVec 64
  d : BitVec 64
  deriving DecidableEq, Repr

/-- One round. -/
def Sip.round (s : Sip) : Sip :=
  let a := s.a + s.b
  let b := s.b.rotateLeft 13 ^^^ a
  let a := a.rotateLeft 32
  let c := s.c + s.d
  let d := s.d.rotateLeft 16 ^^^ c
  let a := a + d
  let d := d.rotateLeft 21 ^^^ a
  let c := c + b
  let b := b.rotateLeft 17 ^^^ c
  ⟨a, b, c.rotateLeft 32, d⟩

/-- One word of the message. -/
def Sip.word (s : Sip) (m : BitVec 64) : Sip :=
  let t := ({ s with d := s.d ^^^ m }).round.round
  { t with a := t.a ^^^ m }

/-- Words of eight bytes, and then the last: the bytes left and the length. -/
def Sip.words (s : Sip) (len : Nat) : Nat → List Byte → Sip
  | 0, bs => s.word (BitVec.ofNat 64 (ofBytes bs + len % 256 * 2 ^ 56))
  | n + 1, bs => (s.word (BitVec.ofNat 64 (ofBytes (bs.take 8)))).words len n (bs.drop 8)

/-- The 64-bit output for a key whose low half is the first. -/
def sipHash64 (key : BitVec 128) (bs : List Byte) : BitVec 64 :=
  let k0 : BitVec 64 := key.truncate 64
  let k1 : BitVec 64 := (key >>> 64).truncate 64
  let s : Sip := ⟨k0 ^^^ 0x736f6d6570736575, k1 ^^^ 0x646f72616e646f6d, k0 ^^^ 0x6c7967656e657261, k1 ^^^ 0x7465646279746573⟩
  let s := s.words bs.length (bs.length / 8) bs
  let s := ({ s with c := s.c ^^^ 0xff }).round.round.round.round
  s.a ^^^ s.b ^^^ s.c ^^^ s.d

/-- The content hash of a line: bits [39:0] (12 R253). -/
def sipHash (key : BitVec 128) (bs : List Byte) : BitVec 40 := (sipHash64 key bs).truncate 40

/-! AES-256. -/

/-- The substitution table, the entry of 0 highest. -/
def aesSubstitution : Nat :=
  0x637c777bf26b6fc53001672bfed7ab76ca82c97dfa5947f0add4a2af9ca472c0b7fd9326363ff7cc34a5e5f171d83115 * 2 ^ 1664 +
  0x04c723c31896059a071280e2eb27b27509832c1a1b6e5aa0523bd6b329e32f8453d100ed20fcb15b6acbbe394a4c58cf * 2 ^ 1280 +
  0xd0efaafb434d338545f9027f503c9fa851a3408f929d38f5bcb6da2110fff3d2cd0c13ec5f974417c4a77e3d645d1973 * 2 ^ 896 +
  0x60814fdc222a908846eeb814de5e0bdbe0323a0a4906245cc2d3ac629195e479e7c8376d8dd54ea96c56f4ea657aae08 * 2 ^ 512 +
  0xba78252e1ca6b4c6e8dd741f4bbd8b8a703eb5664803f60e613557b986c11d9ee1f8981169d98e949b1e87e9ce5528df * 2 ^ 128 +
  0x8ca1890dbfe6426841992d0fb054bb16

/-- The substitution of a byte. -/
def aesSub (b : Byte) : Byte := BitVec.ofNat 8 (aesSubstitution / 2 ^ (8 * (255 - b.toNat)))

/-- A byte times x in the field of AES. -/
def aesTwice (b : Byte) : Byte := if b.msb then b <<< 1 ^^^ 0x1B else b <<< 1

/-- Two lists of bytes, added bit by bit. -/
def xorBytes (x y : List Byte) : List Byte := (x.zip y).map (fun q => q.1 ^^^ q.2)

/-- The key schedule, its last word first: words from number `i` on. -/
def aesExpand : Nat → Nat → List (List Byte) → List (List Byte)
  | 0, _, w => w
  | n + 1, i, w =>
    let t := w.headD []
    let t := if i % 8 = 0 then xorBytes ((t.drop 1 ++ t.take 1).map aesSub) [BitVec.ofNat 8 (2 ^ (i / 8 - 1)), 0, 0, 0]
      else if i % 8 = 4 then t.map aesSub else t
    aesExpand n (i + 1) (xorBytes (w.getD 7 []) t :: w)

/-- Consecutive parts of four bytes. -/
def fours : Nat → List Byte → List (List Byte)
  | 0, _ => []
  | n + 1, bs => bs.take 4 :: fours n (bs.drop 4)

/-- The 60 words of the schedule of a key of 32 bytes. -/
def aesSchedule (key : List Byte) : List (List Byte) := (aesExpand 52 8 (fours 8 key).reverse).reverse

/-- The key of a round. -/
def aesRoundKey (w : List (List Byte)) (r : Nat) : List Byte := ((w.drop (4 * r)).take 4).flatten

/-- Row r of each column comes from r columns further on. -/
def aesShift (s : List Byte) : List Byte := (List.range 16).map (fun k => s.getD (k % 4 + 4 * ((k / 4 + k % 4) % 4)) 0)

/-- A column, mixed. -/
def aesMix (s : List Byte) : List Byte :=
  (List.range 16).map (fun k =>
    let at_ := fun (r : Nat) => s.getD (k / 4 * 4 + (k + r) % 4) 0
    aesTwice (at_ 0) ^^^ aesTwice (at_ 1) ^^^ at_ 1 ^^^ at_ 2 ^^^ at_ 3)

/-- A block of 16 bytes under a key of 32. -/
def aesBlock (key block : List Byte) : List Byte :=
  let w := aesSchedule key
  let s := (List.range 13).foldl (fun s r => xorBytes (aesMix (aesShift (s.map aesSub))) (aesRoundKey w (r + 1)))
    (xorBytes block (aesRoundKey w 0))
  xorBytes (aesShift (s.map aesSub)) (aesRoundKey w 14)

/-! Galois/Counter Mode. -/

/-- Key stream of n blocks from counter block `ctr` on, under a key and an IV of 12 bytes. -/
def gcmStream (key iv : List Byte) : Nat → Nat → List Byte
  | 0, _ => []
  | n + 1, ctr => aesBlock key (iv ++ (toBytes ctr 4).reverse) ++ gcmStream key iv n (ctr + 1)

/-- The product of two blocks, bit 0 of a block the highest: n bits of x are left. -/
def gcmMul : Nat → Nat → Nat → Nat → Nat
  | 0, _, _, z => z
  | n + 1, x, v, z =>
    gcmMul n x (if v % 2 = 1 then (v / 2) ^^^ (0xE1 * 2 ^ 120) else v / 2) (if x.testBit n then z ^^^ v else z)

/-- GHASH of n blocks of 16 bytes, the last filled up with zeros. -/
def ghash (h : Nat) : Nat → List Byte → Nat → Nat
  | 0, _, y => y
  | n + 1, bs, y =>
    let b := bs.take 16
    ghash h n (bs.drop 16) (gcmMul 128 (y ^^^ ofBytesBE (b ++ List.replicate (16 - b.length) 0)) h 0)

/-- A payload under a key and an IV whose first byte is the highest; its own inverse. -/
def gcmCrypt (key : BitVec 256) (iv : BitVec 96) (bs : List Byte) : List Byte :=
  xorBytes bs (gcmStream (bytesOf key) (bytesOf iv).reverse ((bs.length + 15) / 16) 2)

/-- The tag for a header and a plaintext; its first byte is the lowest. -/
def gcmTag (key : BitVec 256) (iv : BitVec 96) (header plain : List Byte) : BitVec 128 :=
  let k := bytesOf key
  let h := ofBytesBE (aesBlock k (List.replicate 16 0))
  let cipher := gcmCrypt key iv plain
  let y := ghash h ((header.length + 15) / 16) header 0
  let y := ghash h ((cipher.length + 15) / 16) cipher y
  let y := gcmMul 128 (y ^^^ (8 * header.length * 2 ^ 64 + 8 * cipher.length)) h 0
  wordOf 128 (xorBytes (toBytes y 16).reverse (gcmStream k (bytesOf iv).reverse 1 1))

end Sys2Proof.Machine
end

