-- ==== Sys2Proof/Machine/State.lean ====
section
/-! DEFINITION. The state of the module: everything the manual gives it, as plain data, and its state after
reset. The machine is the whole module. The context that acts is held in `ctx`, its core in `core`; every
other context and core is parked in a table. A table lists only entries that differ from their state at reset. -/

namespace Sys2Proof.Machine

/-- Why the machine stops. -/
inductive Fault where
  /-- Raised by a step after the power stages went off (28 R415): only POWER_ON can follow. Safe. -/
  | poweredOff
  deriving DecidableEq, Repr

/-- Why an instruction has no meaning here. -/
inductive Refusal where
  /-- Raised by an arm of `exec` that has no meaning yet; the mnemonic is the opcode table's. Safe. -/
  | notModelled (mnemonic : String)
  deriving DecidableEq, Repr

/-- The two modes of a context (03 R60). -/
inductive Mode where
  | user | handler
  deriving DecidableEq, Repr

/-- One active loop level (07 R118). -/
structure LoopLevel where
  start : Word
  stop : Word
  count : Word
  index : Word
  deriving DecidableEq, Repr

/-- A loop stack, innermost level first, and the loop buffer's record of bytes by address (07 R118). -/
structure Loops where
  levels : List LoopLevel
  buffer : List (Nat × Byte)
  deriving DecidableEq, Repr

/-- An entry of LDQ or SDQ: a scalar, or a register's worth of data with one enable bit a byte (03 R57,
10 R198). -/
inductive QEntry where
  | scalar (v : Word)
  | vector (v : VReg) (enable : BitVec 512)
  deriving DecidableEq, Repr

/-- The registers a bundle reads at issue (04 R72). -/
structure Regs where
  s : List (Nat × Word)
  a : List (Nat × Word)
  /-- The HANDLER-mode a0 (23 R358). -/
  handlerBase : Word
  vl : Word
  vtype : Word
  fmt : Word
  stat : Word
  lscale : Word
  seed : Word
  deriving DecidableEq, Repr

/-- The remaining control registers a context owns (03 R60). -/
structure CtrlRegs where
  taskid : Word
  deadl : Word
  budget : Word
  bused : Word
  mfp0 : Word
  mfp1 : Word
  /-- TSHAPE0 to TSHAPE15; an unlisted register holds 0x7FFE0. -/
  tshape : List (Nat × Word)
  trapvec : Word
  trapcause : Word
  trappc : Word
  trapinfo : Word
  rqcount : Word
  vwin : Word
  twin : Word
  deriving DecidableEq, Repr

/-- The attributes of a page beside MS and its tier (12 R260): its lines may be probed and shared; they may cross
the network compressed. -/
structure PageAttr where
  dd : Bool
  cmp : Bool
  deriving DecidableEq, Repr

/-- Where a unit of memory lies: at a byte of a core's SRAM, or at a physical address, with MS and the other
attributes of its page (12 R242, R260; 24 R376). -/
inductive Loc where
  | sram (core off : Nat)
  | phys (pa : Nat) (ms : Bool) (page : PageAttr)
  deriving DecidableEq, Repr

/-- What a pending load does with its data (10 R194 to R204; 09 R177; 18 R316). -/
inductive LoadKind where
  /-- Enters LDQ as scalar entries of up to eight bytes. -/
  | queue
  /-- Writes a scalar register, sign-extended or not. -/
  | reg (sd : Nat) (signed : Bool)
  /-- Enters LDQ as vector entries: element width in bits, entries; unlisted elements read 0. -/
  | vector (w : Nat) (entries : Nat)
  /-- Writes tile bytes from a byte of the tile store upward. -/
  | tile (base : Nat)
  /-- An atomic: operation, operand, compare value, destination, size, ordering and scope. -/
  | amo (op : Nat) (sa cmp : Word) (sd : Nat) (size : Nat) (ord scope : Nat)
  /-- CHUNK. -/
  | chunk (sd : Nat) (ord scope : Nat)
  /-- The acquire of a fence, by its kind; a full or sc one waits for the stores before it (10 R206). -/
  | fence (kind : Nat) (scope : Nat)
  /-- Scalar entries of a stream instruction: those that are known, and in each other's place the next unit's value. -/
  | stream (es : List (Option Word))
  /-- Entries whose values are already read. -/
  | ready (es : List QEntry)
  deriving DecidableEq, Repr

/-- A load issued and not yet performed: its units in order, each with its size in bytes; a unit that is
absent reads zero (10 R200). -/
structure LoadOp where
  seq : Nat
  kind : LoadKind
  units : List (Option Loc × Nat)
  deriving DecidableEq, Repr

/-- What a pending store writes (10 R194 to R200, R204). -/
inductive StoreKind where
  /-- Bytes already known (ST). -/
  | data (bs : List Byte)
  /-- The low bytes of scalar SDQ entries: how many entries. -/
  | queue (entries : Nat)
  /-- Vector SDQ entries: element width in bits and how many entries. -/
  | vector (w : Nat) (entries : Nat)
  /-- FEMARK: the full/empty bits of the words. -/
  | mark (full : Bool)
  /-- The release of a fence (10 R206). -/
  | fence (scope : Nat)
  deriving DecidableEq, Repr

/-- A store issued and not yet performed. -/
structure StoreOp where
  seq : Nat
  kind : StoreKind
  units : List (Option Loc × Nat)
  /-- Units still to be translated, each with its address: one is reached only if its data is enabled (10 R193, R197). -/
  late : List (Nat × Word)
  deriving DecidableEq, Repr

/-- An SDQ entry: its kind, the issue number of the operation that will give its data, and its data once
known (08 R151). -/
structure SdqEntry where
  isVector : Bool
  owner : Nat
  data : Option QEntry
  deriving DecidableEq, Repr

/-- Source operands of a V slot or X move as captured at issue: a register group, or one scalar. -/
inductive Operand where
  | group (rs : List VReg)
  | value (v : Word)
  deriving DecidableEq, Repr

/-- A V slot in flight: everything its result depends on (08 R144). -/
structure VFlight where
  /-- The entry's number, and the entry as it was at issue. -/
  idx : Nat
  entry : BitVec 256
  roff : Nat
  ops : List (Nat × Operand)
  mask : VReg
  vl : Nat
  vtype : Word
  fmt : Word
  gens : List (Nat × Word)
  /-- The seed that the generators started from at issue: a later CRW of SEED does not reach it (02 R37). -/
  seed : Word
  /-- The window's first physical register. -/
  base : Nat
  deriving DecidableEq, Repr

/-- An X-slot move in flight: a write of tile bytes, of a register, or of a scalar (09 R173, R179). -/
inductive XWrite where
  | tile (bytes : List (Nat × Byte))
  | reg (vd : Nat) (v m : VReg)
  | scalar (sd : Nat) (v : Word)
  deriving DecidableEq, Repr

/-- An X-slot move in flight: the instruction, the source bytes and scalar read, what its conversion depends
on, and the first physical register or tile it writes (09 R173, R179). -/
structure XFlight where
  i : Instr
  src : List Byte
  ops : List Word
  fmt : Word
  vtype : Word
  vl : Nat
  shapeD : Word
  shapeS : Word
  gens : List (Nat × Word)
  seed : Word
  dst : Nat
  deriving DecidableEq, Repr

/-- A result in flight: issued, not yet written (03 R50). -/
inductive Flight where
  | v (f : VFlight)
  | x (f : XFlight)
  deriving DecidableEq, Repr

/-- What a shadow writes (03 R65): FMT, or 64 bytes of one lane group of a physical register. -/
inductive ShadowWrite where
  | fmt (v : Word)
  | lanes (reg : Nat) (code : Nat) (lg : Nat) (data : BitVec 512)
  deriving DecidableEq, Repr

/-- A pending shadow write and the bundles still to be counted before it lands. -/
structure Shadow where
  seq : Nat
  remain : Nat
  enc : Nat
  write : ShadowWrite
  deriving DecidableEq, Repr

/-- A replay entry frozen by a trap (23 R362). -/
inductive Replay where
  | flight (seq remain : Nat) (f : Flight)
  | shadow (sh : Shadow)
  /-- A write of a guest save that a hypervisor save found pending: its place in the save area and its bytes (23 R372). -/
  | save (off : Nat) (bytes : List Byte)
  deriving DecidableEq, Repr

/-- A stream register (18 R314) and its private descriptor copy (18 R313). -/
structure Stream where
  pos : Nat
  fend : Nat
  fbase : Nat
  desc : Word
  coord : Nat
  opened : Bool
  ended : Bool
  held : Bool
  parked : Bool
  kind : BitVec 2
  cw : Bool
  pw : Bool
  es : BitVec 2
  /-- The private copy: EXT, POSBASE, CRDBASE, VALBASE; absent after a restore (18 R324). -/
  copy : Option (List Word)
  deriving DecidableEq, Repr

/-- A nest set (10 R210). -/
structure NestSet where
  bound : List (Nat × Nat)
  stride : List (Nat × Int)
  elem : BitVec 5
  origin : List (Nat × Nat)
  deriving DecidableEq, Repr

/-- The states of a watch (07 R126). -/
inductive WatchState where
  | idle | set | seen | dropped
  deriving DecidableEq, Repr

/-- The context's watch: its line, in local SRAM or in memory (07 R126). -/
structure Watch where
  line : Loc
  st : WatchState
  cnt : Nat
  orig : Nat
  msl : Bool
  /-- An MWAIT waits on it (the model's own): once a write is seen, later ones are not counted (07 R127). -/
  waiting : Bool
  deriving DecidableEq, Repr

/-- A view declaration (19 R332): range offset, length, type code, operator. -/
structure ViewDesc where
  range : Nat
  len : Nat
  type : Nat
  op : Nat
  deriving DecidableEq, Repr

/-- A view held by a task: its descriptor, the crew whose pool it was reserved in, the parts of the view backing that
hold it, each a start and a length in bytes (none: in the pool), its bytes, the written bit of each element, and its
poisoned words (19 R333 to R335; 27 R402). -/
structure View where
  desc : ViewDesc
  crew : Nat
  backing : Option (List (Nat × Nat))
  bytes : List (Nat × Byte)
  written : List (Nat × Bool)
  poison : List (Nat × Bool)
  deriving DecidableEq, Repr

/-- A deferred record (11 R232; 23 R361). -/
structure Deferred where
  code : BitVec 8
  pc : Word
  indices : List Word
  enc : Nat
  element : Nat
  aregs : List Word
  /-- The barrier, as core and SRAM offset. -/
  bar : Nat × Nat
  deriving DecidableEq, Repr

/-- A cause that the host or TRAPVEC handles, with the words of its record (23 R361). -/
structure TrapReq where
  cause : BitVec 8
  pc : Word
  record : List Word
  deriving DecidableEq, Repr

/-- The kinds of a host fault record (23 R365). -/
abbrev FaultKind := Nat

/-- What a waiting context waits on (03 R50, R52; 23 R365). -/
inductive Status where
  /-- No task. -/
  | idle
  | ready
  /-- Blocked since a cycle; whether a bounded wait has expired; the settled result of MWAIT. -/
  | blocked (since : Nat) (expired : Bool) (wake : Option Word)
  /-- The block has ended; the waiting bundle issues again (03 R52). -/
  | cleared (since : Nat) (expired : Bool) (wake : Option Word)
  /-- Waiting for the host's reply to a fault; the trap entry to resume, if it was one. -/
  | hostWait (entry : Option TrapReq)
  | halted
  /-- At a save point, until its save can begin (23 R367, R369): everything, or what PHINT and PHLIVE name. -/
  | saving (hint : Option (BitVec 24 × Option (Nat × Nat × Nat × Nat)))
  deriving DecidableEq, Repr

/-- What a trap changes besides entering its handler: OVR of a barrier object (00 R9), a deferred record that
DEFER delivers (11 R232), a MERGE record (19 R341), a pending MREP (09 R188), PARK of a stream (18 R322). -/
inductive Side where
  | none
  | ovr (bar : Nat × Nat)
  | defer (bar : Nat × Nat)
  | merge (rec : Nat × Nat × Nat)
  | mrep
  | park (q : Nat)
  deriving DecidableEq, Repr

/-- Why a slot does not execute (03 R50; 00 R9; 23 R365; 27 R403). -/
inductive Stop where
  /-- A trap cause with its record, and what else the trap changes. -/
  | trap (cause : BitVec 8) (record : List Word) (side : Side)
  | block
  | hold
  /-- A fault for the host: cause, virtual address, kind; the stream it parks. -/
  | host (cause : BitVec 8) (va : Word) (kind : FaultKind) (park : Option Nat)
  /-- Poisoned data would reach the context: its physical address or structure index (27 R404). -/
  | poison (loc : Word)
  deriving DecidableEq, Repr

/-- What the last exec did (the model's own): it completed, stopped, or ended the task. -/
inductive Evt where
  | none
  | stopped (e : Stop)
  | ended
  deriving DecidableEq, Repr

/-- Queues and results of a context that are still to come. -/
structure Pending where
  ldq : List QEntry
  sdq : List SdqEntry
  lq : List LoadOp
  stq : List StoreOp
  flight : List (Nat × Flight)
  shadows : List Shadow
  /-- Frozen by a trap, and how the frame listed them. -/
  replay : List Replay
  /-- Re-injected results still to land: the cycle of each, and its issue number (23 R363). -/
  reinject : List (Nat × Nat × Flight)
  /-- After a save their cycles are counted from the context's first bundle (23 R371): until that bundle the list holds
  cycles still to pass. -/
  paused : Bool
  /-- Issue order within the context (14 R281). -/
  seq : Nat
  /-- Pending MREP count of USER and of HANDLER mode (09 R188). -/
  mrep : Option Nat
  mrepHandler : Option Nat
  deriving DecidableEq, Repr

/-- A context. -/
structure Ctx where
  pc : Word
  npc : Word
  mode : Mode
  r : Regs
  cr : CtrlRegs
  /-- The seed of the last reseeding, and the generators that have drawn since (02 R37). -/
  genSeed : Word
  gens : List (Nat × Word)
  /-- A CRW of SEED in this bundle (the model's own). -/
  reseed : Bool
  /-- The control transfer of this bundle and where it came from (04 R69; the model's own). -/
  xferFrom : Word
  /-- The C slot of the next bundle is not executed (07 R131). -/
  skipC : Bool
  /-- The bytes of a bundle that waits to issue (03 R52). -/
  fetched : Option (List Byte)
  /-- What PHLIVE in this bundle names: chunks, tiles, accumulators, stream groups (23 R367). -/
  live : Option (Nat × Nat × Nat × Nat)
  loops : Loops
  loopsHandler : Loops
  hist : List (Nat × Instr)
  histHandler : List (Nat × Instr)
  pend : Pending
  streams : List (Nat × Stream)
  hcw : List (Nat × BitVec 256)
  /-- Entries not marked bad. -/
  hcwGood : List (Nat × Bool)
  /-- Address and partition of the last full table load (03 R61). -/
  hcwFrom : Option (Word × Nat)
  nest : List (Nat × NestSet)
  watch : Watch
  deferred : List Deferred
  /-- MERGE records: slot, ordinal, join barrier offset (19 R341). -/
  merges : List (Nat × Nat × Nat)
  viewDecls : List (Nat × ViewDesc)
  views : List (Nat × View)
  /-- What the writes to pages with MS that the context has read come after: the module writes of each die (the
  model's own; assumption log 22). -/
  seen : List Nat
  status : Status
  /-- The trap whose frame the handler runs under (23 R360). -/
  frame : Option TrapReq
  /-- A task-start load of the HCW table still to do: its address and next entry (03 R61). -/
  startLoad : Option (Word × Nat)
  /-- The partition the context last ran in. -/
  part : Nat
  deriving DecidableEq, Repr

/-- The modes of a bank (12 R243). -/
inductive BankMode where
  | scratch | cache | fifo
  deriving DecidableEq, Repr

/-- A line of an L1 (12 R248). -/
structure L1Line where
  way : Nat
  data : List Byte
  valid : BitVec 32
  dirty : BitVec 32
  page : PageAttr
  used : Nat
  deriving DecidableEq, Repr

/-- What an engine command waits on before it goes on (10 R114, R221; 24 R382). -/
inductive CmdWait where
  | none
  /-- The host's reply to a fault. -/
  | host
  /-- The far end of a PUT or GET, behind the port that its message went to (25 R394). -/
  | farEnd (port : Nat)
  /-- The grant of a frame request, by number. -/
  | frames (req : Nat)
  deriving DecidableEq, Repr

/-- A command waits for the far end of a port. -/
def CmdWait.peerPort? : CmdWait → Option Nat
  | .farEnd port => some port
  | _ => Option.none
/-- A command waits for the far end of some port. -/
def CmdWait.atPeer (w : CmdWait) : Bool := w.peerPort?.isSome

/-- An engine command issued and not yet completed: its encoding, what it read at issue, its barrier and amount
(10 R207, R208), the task and its dispatch that issued it, and its progress. -/
structure Cmd where
  i : Instr
  ctx : Nat
  pc : Word
  indices : List Word
  aregs : List Word
  sets : List NestSet
  fmt : Word
  bar : Option (Nat × Nat)
  amount : Nat
  task : Nat
  order : Nat
  /-- Place in the core's issue order. -/
  stamp : Nat
  /-- The number of the context's last access before it, and the scope of the release that issuing it is (10 R207). -/
  after : Nat
  scope : Nat
  /-- Arrival number of a PUT (25 R397). -/
  anum : Nat
  /-- Steps done, in ascending order. -/
  done : Nat
  wait : CmdWait
  /-- The header of an NMOPT; data of a GET still to be stored; elements of a PUT, or of a row of an FLOADM, read so far;
  and whether each element of a PUT, or each byte of a GET, is poisoned. -/
  data : List Byte
  bads : List Bool
  /-- The row index in use, and whether it was poisoned; elements of table rows that a GATHER has fetched, each with whether it is poisoned; and
  contributions to a destination that are read and not yet applied (10 R215, R216). -/
  index : Int
  indexBad : Bool
  fetched : List (Nat × List Byte × Bool)
  held : List (Word × List Byte × Bool)
  /-- Frames granted to a PMIG. -/
  frames : List Nat
  deriving DecidableEq, Repr

/-- The states of a ring slot (13 R271). -/
inductive SlotState where
  | free | filling | full | done
  deriving DecidableEq, Repr

/-- A rigger's ring (13 R270, R271). -/
structure Ring where
  first : Nat
  banks : Nat
  slotBytes : Nat
  slots : List SlotState
  /-- Fill number of each slot, and the next fill. -/
  next : Nat
  oldest : Nat
  active : Bool
  src : Word
  set : NestSet
  /-- Total stream bytes. -/
  total : Nat
  /-- Issue number of the SUBSCR that formed it, and that command while the rigger still serves it. -/
  owner : Nat
  cmd : Option Cmd
  deriving DecidableEq, Repr

/-- The states of an accumulator tile (09 R185). -/
inductive AccState where
  | empty
  | flt (l : BitVec 8)
  | int
  deriving DecidableEq, Repr

/-- The states of a group slot (15 R299). -/
inductive GroupState where
  | empty | validating | valid | failed
  deriving DecidableEq, Repr

/-- A group slot: state, descriptor bytes, and the rest of GRPSTAT (15 R296 to R301). -/
structure GroupSlot where
  st : GroupState
  bytes : List Byte
  n : Nat
  k : Nat
  check : Nat
  fg : Nat
  fh : Nat
  fk : Nat
  inexact : Bool
  /-- Issue number of the latest GLOAD to the slot: an earlier one is abandoned (15 R299). -/
  stamp : Nat
  /-- The context whose last bundle holds the GLOAD (the model's own): its next bundle still reads VALIDATING (15
  R301). -/
  loader : Option Nat
  deriving DecidableEq, Repr

/-- A drain's writes, from its issue until they are performed (09 R189 to R191): bytes of the tile store;
elements of SRAM; or the terms of a fold, each a destination row and its BF16 weight, with the drained row's
FP32 patterns and the exponent of its loss scale, into an FP32 tile of a shape or into SRAM rows. -/
inductive ArrayOp where
  | tile (phys : Nat) (bytes : List (Nat × Byte))
  | sram (units : List (Loc × List Byte))
  | foldTile (phys : Nat) (shape : Word) (terms : List (Nat × Nat)) (g : List Nat) (l : Int)
  | foldSram (terms : List (List Loc × Nat)) (g : List Nat) (l : Int)
  deriving DecidableEq, Repr

/-- An active repeat: the encoding last issued, executions still due, its context, the LSCALE captured at the
first issue, the bundle that carried it, with its mode, and the number of the context's last access before it (03 R63; 09
R185, R188, R191). -/
structure Repeat where
  i : Instr
  left : Nat
  ctx : Nat
  ls : BitVec 8
  pc : Word
  mode : Mode
  after : Nat
  deriving DecidableEq, Repr

/-- The array state of 09 R180. -/
structure ArrayUnit where
  claim : Option Nat
  rs : Bool
  mfpSel : Bool
  /-- Weight banks: codes by (bank × 128 + row) × 128 + column, scales by (bank × 128 + row) × 4 + block, and the type each row was pushed under. -/
  weights : List (Nat × BitVec 16)
  wscales : List (Nat × Byte)
  wtypes : List (Nat × Option Nat)
  /-- Which physical bank is ACTIVE. -/
  active : Bool
  pc : Nat
  pbank : Nat
  lbank : Nat
  filters : List (Nat × BitVec 16)
  fscales : List (Nat × Byte)
  ftypes : List (Nat × Option Nat)
  slot : Option Nat
  g : Nat
  acc : List (Nat × BitVec 32)
  accState : List (Nat × AccState)
  dirty : Bool
  repeat_ : Option Repeat
  /-- Drains issued and not yet performed, oldest first, each with the context that issued it and the number of the
  context's last access before it. -/
  queue : List (Nat × Nat × ArrayOp)
  /-- The partition of the last claim. -/
  part : Option Nat
  deriving DecidableEq, Repr

/-- A core: what its four contexts share. -/
structure Core where
  sram : List (Nat × Byte)
  fe : List (Nat × Bool)
  bankMode : List (Nat × BankMode)
  bankRing : List (Nat × Nat)
  /-- Banks that a BANKCFG has zeroed, with the cycle; and the offsets of objects there at which a phase has completed
  since (the model's own; 12 R247). -/
  wiped : List (Nat × Nat)
  phased : List (Nat × Bool)
  l1 : List (Nat × L1Line)
  l1clock : Nat
  rings : List (Nat × Ring)
  vregs : List (Nat × VReg)
  /-- Last partition that used a physical register or tile (03 R56). -/
  vlast : List (Nat × Option Nat)
  tiles : List (Nat × Byte)
  tlast : List (Nat × Option Nat)
  arr : ArrayUnit
  groups : List (Nat × GroupSlot)
  eq : List (Nat × List Cmd)
  stamp : Nat
  tlb : List (Nat × List Nat)
  icache : List (Nat × List Byte)
  selected : Nat
  /-- The context was selected when it became ready on an idle core: in which cycle, and which one was selected before
  (03 R51). -/
  woken : Option (Nat × Nat)
  /-- SRAM words that carry a poison code (27 R402). -/
  poison : List (Nat × Bool)
  /-- The context whose save stands in the emergency area (23 R369). -/
  emergency : Option Nat
  deriving DecidableEq, Repr

/-- The kinds of an L2 tag (12 R252). -/
inductive TagKind where
  | own | share | zero
  deriving DecidableEq, Repr

/-- An L2 tag of a held line (12 R252). -/
structure L2Tag where
  kind : TagKind
  entry : Nat
  dirty : Bool
  hot : Bool
  dd : Bool
  part : Nat
  slice : Nat
  used : Nat
  /-- CYC of the last write or AMO. -/
  idle : Nat
  deriving DecidableEq, Repr

/-- An L2 data entry: references and content hash (12 R252). Its 128 bytes are what the die reads there. -/
structure L2Entry where
  part : Nat
  slice : Nat
  rc : Nat
  hash : BitVec 40
  hv : Bool
  deriving DecidableEq, Repr

/-- A module write on its way (14 R286): its source die and number, the clock it is stamped with, its bytes. -/
structure ModWrite where
  src : Nat
  num : Nat
  stamp : List Nat
  home : Nat
  bytes : List (Nat × Byte)
  deriving DecidableEq, Repr

/-- A compute die. -/
structure Die where
  clock : List Nat
  inbox : List ModWrite
  /-- Writes performed here as their home that some die has still to apply, in the order of their performance. -/
  order : List ModWrite
  /-- Bytes this die reads that differ from the home's. -/
  own : List (Nat × Byte)
  tags : List (Nat × L2Tag)
  entries : List (Nat × L2Entry)
  nextEntry : Nat
  /-- Uses of its tags so far: each stamps its tag with the next number (12 R256). -/
  uses : Nat
  tlb : List (Nat × List Nat)
  deriving DecidableEq, Repr

/-- The fields of a job-slice record (19 R327). -/
structure Job where
  entry : Word
  arg : Word
  deadline : Word
  budget : Word
  vwin : Nat
  tiles : Nat
  flags : Nat
  firstop : Word
  hcwtab : Word
  join : Nat
  vtab : Nat
  deriving DecidableEq, Repr

/-- How a continuation starts (11 R238). -/
structure Cont where
  record : Word
  entry : Word
  live : Word
  saved : List Word
  status : Nat
  /-- The place of poison in what the record gives its registers (27 R403). -/
  bad : Option Word
  deriving DecidableEq, Repr

/-- The life of a task. -/
inductive TaskState where
  | ready | running (k : Nat) | suspended | halted
  | finished (status : Nat) (discarded : Bool)
  deriving DecidableEq, Repr

/-- A slot of a family's fold and join (19 R336, R340): the members folded into it, its progress index in the step it
is at, a wait for the host, and the end of its join. -/
structure SlotFold where
  members : Nat
  elem : Nat
  paused : Bool
  joined : Bool
  deriving DecidableEq, Repr

/-- A family of children (19 R329, R336): members in spawn order, those done with, abandoned slots. -/
structure Family where
  members : List Nat
  closed : Bool
  join : Nat
  vtab : Nat
  /-- The crew of the parent's ranges and join barrier. -/
  crew : Nat
  folded : Nat
  steps : List (Nat × SlotFold)
  /-- Slots with a tile element in a bank not in scratchpad mode. -/
  bad : List (Nat × Bool)
  acc : List (Nat × View)
  firstDescs : List (Nat × ViewDesc)
  abandoned : List (Nat × Nat)
  disc : List (Nat × Bool)
  flags : List (Nat × BitVec 8)
  /-- Of children with nonzero status: how many, and the first one's status and TASKID. -/
  badCount : Nat
  badStatus : Nat
  badTask : Nat
  deriving DecidableEq, Repr

/-- A task entry (22 R348). -/
structure Task where
  id : Nat
  job : Job
  st : TaskState
  queue : Nat
  crews : Nat
  tag : Option Word
  parent : Option Nat
  families : List Family
  /-- The crew that its views belong to. -/
  crew : Nat
  views : List (Nat × View)
  decls : List (Nat × ViewDesc)
  stat : BitVec 8
  merges : List (Nat × Nat × Nat)
  cont : Option Cont
  overtake : Nat
  order : Nat
  deadline : Word
  /-- The module writes that its start waits for, or that its end released (14 R279). -/
  seen : List Nat
  deriving DecidableEq, Repr

/-- Who waits for the host's reply to a fault record (23 R365). -/
inductive Waiter where
  | context (k : Nat)
  | command (core q : Nat)
  | rigger (core ring : Nat)
  /-- The merge of a slot of a task's family, named by its first member. -/
  | merge (task first slot : Nat)
  | save (k : Nat)
  deriving DecidableEq, Repr

/-- A partition (24 R384). -/
structure Part where
  formed : Bool
  berths : Nat
  vf : Nat
  /-- PTROOT as walks use it, and as the host last wrote it (24 R385). -/
  ptroot : Word
  ptrootNext : Word
  vbase : Word
  vbsize : Word
  savebase : Word
  hvbase : Word
  embase : Word
  pbound : Word
  stolen : Word
  /-- The guest's STATE, FAIL, and whether BOUND has elapsed (23 R366, R367). -/
  preState : Nat
  preFail : Bool
  preForced : Bool
  /-- The hypervisor's own STATE (23 R372). -/
  hvState : Nat
  /-- CYC at the guest's save command, and at an HV save. -/
  preSince : Nat
  hvSince : Nat
  /-- Guest commands that wait for the HV restore, oldest first (23 R373). -/
  guestCmds : List Nat
  tqcfg : List (Nat × Nat)
  slack : Word
  misscnt : Word
  compat : Bool
  key : BitVec 128
  engineFaults : Nat
  prefetchFaults : Nat
  tasks : List (Nat × Task)
  gens : List (Nat × Nat)
  nextOrder : Nat
  /-- Bins of privileged queues: the serving bin and the tasks of its turn (22 R355). -/
  turns : List (Nat × Nat × List Nat)
  /-- Per crew: the task that does not fit, and since when (22 R357). -/
  reserve : List (Nat × Nat × Nat)
  credit : Nat
  /-- Contexts that a guest save holds, each with the SRAM chunks that its save names (23 R368). -/
  saved : List (Nat × Nat)
  /-- Writes that the saves in progress have still to make, oldest first: the context, the place in its area, the bytes. -/
  saveWrites : List (Nat × Nat × List Byte)
  /-- Contexts that the hypervisor save in progress has written (23 R372). -/
  hvSaved : List Nat
  /-- Page-zeroing ranges in progress (24 R383). -/
  zeroing : List (Nat × Nat)
  shoots : Nat
  routes : List (Nat × List Nat)
  /-- Bytes of each crew's view pool in use, and the parts of the view backing in use, by start with their lengths (19
  R335). -/
  viewUse : List (Nat × Nat)
  backingUse : List (Nat × Nat)
  frameReq : Nat
  /-- Fault records posted, and those without a reply, by number, with the cause (23 R365). -/
  faultNo : Nat
  faults : List (Nat × BitVec 8 × Waiter)
  deriving DecidableEq, Repr

/-- One direction of a link port (25 R388 to R396). -/
structure LinkStream where
  seq : BitVec 32
  /-- The last SEQ accepted, 0 before any (25 R388, R395). -/
  last : BitVec 32
  slots : List (Nat × Nat)
  cur : Nat
  counters : List (Nat × Nat)
  keys : List (Nat × Nat)
  switchPoint : Nat
  keylate : Bool
  keyexh : Bool
  table : List (Nat × Word)
  retry : List Flit
  ackedAt : Nat
  nakOut : Bool
  failures : List (Nat × Nat)
  assembling : List (Nat × List Byte)
  deriving DecidableEq, Repr

/-- A link port (25 R387, R398). -/
structure Port where
  st : Nat
  retrain : Nat
  tx : LinkStream
  rx : LinkStream
  /-- The start epoch that the far end last showed, and the one last sent to it (25 R395). -/
  epoch : BitVec 64
  sent : BitVec 64
  errors : Nat
  downs : Nat
  failedTrainings : Nat
  /-- Flit credits in use by the sender, and owed by the receiver, by virtual channel (25 R388, R389). -/
  credits : List (Nat × Nat)
  owed : List (Nat × Nat)
  /-- By virtual channel, flits sealed and not yet credited, oldest first: whether each ends a notification (the model's
  own; 11 R240). -/
  unreturned : List (Nat × List Bool)
  /-- A flit other than IDLE was accepted since the last flit was sealed, or that flit left credit to return (the model's
  own). -/
  owes : Bool
  /-- The channels whose message in assembly a partition reset answers with error status once it is whole (27 R406). -/
  refused : List Nat
  deriving DecidableEq, Repr

/-- A message the module sends: its port and virtual channel, its kind and body words (25 R389 to R391), and how
many of its words, its first one included, are sealed. -/
structure Msg where
  port : Nat
  vc : Nat
  kind : Nat
  body : List Word
  sealed : Nat
  deriving DecidableEq, Repr

/-- The state of the module. -/
structure State where
  ctx : Ctx
  core : Core
  coreId : Nat
  ctxId : Nat
  ctxs : List (Nat × Ctx)
  cores : List (Nat × Core)
  dies : List (Nat × Die)
  parts : List (Nat × Part)
  mem : List (Nat × Byte)
  /-- By line of a page with MS: the module writes that a write there comes after, while some die has still to apply
  one of them; and the same of the host's writes (the model's own; assumption log 22). -/
  msClock : List (Nat × List Nat)
  hostClock : List Nat
  /-- Memory codewords of 32 bytes with a POISON mark (27 R401, R402). -/
  poison : List (Nat × Bool)
  /-- HBM channels dropped by a repair, by 32 × stack + channel (27 R407). -/
  dropped : List (Nat × Bool)
  cyc : Nat
  /-- 720,720ths of a CYC unit that have passed beyond CYC, and core cycles since start. -/
  cycFrac : Nat
  cycle : Nat
  ports : List (Nat × Port)
  out : List Msg
  /-- Flits put on the wire, oldest first, each with its port (25 R394). -/
  wire : List (Nat × Flit)
  /-- Repair record: BERTHOFF, CHDROP, SPARE, REPLACE as HEALTH shows them (27 R407), and failures. -/
  health : Word
  sev3 : List (Nat × Nat)
  /-- Units that posted SEV 3 or failed a self-test since the last start. -/
  hurt : List (Nat × Bool)
  cecnt : Word
  uecnt : Word
  cePosted : List (Nat × Nat)
  rating : Nat
  cap : Nat
  limit : Nat
  startstat : Word
  rollback : BitVec 8
  firmware : List (Nat × Word)
  firmwareLen : Nat
  measure : List (BitVec 256)
  /-- The image that runs, none for the one the module was made with; and the digests taken by steps 1, 3 and 6 (28
  R411). -/
  running : List Word
  digests : List (BitVec 256)
  recovery : Bool
  power : Bool
  epoch : BitVec 64
  /-- The model's own: the counter of open values, events from outside, the last exec's outcome, and the
  registers and loop levels that a bundle with several slots reads. -/
  tick : Nat
  agenda : List Instr
  evt : Evt
  latch : Option (Regs × CtrlRegs × List LoopLevel)
  deriving DecidableEq, Repr

/-- An idle watch. -/
def Watch.none : Watch := { line := .sram 0 0, st := .idle, cnt := 0, orig := 0, msl := false, waiting := false }

/-- A nest set at task start: bounds 1, strides and origins 0, element word N8 (10 R210). -/
def NestSet.reset : NestSet := { bound := [], stride := [], elem := 0x01, origin := [] }

/-- A closed stream. -/
def Stream.reset : Stream :=
  { pos := 0, fend := 0, fbase := 0, desc := 0, coord := 0, opened := false, ended := false, held := false,
    parked := false, kind := 0, cw := false, pw := false, es := 0, copy := none }

/-- Registers at reset and at task start (03 R56, R60). -/
def Regs.reset : Regs :=
  { s := [], a := [], handlerBase := 0, vl := 0, vtype := 0, fmt := 0x080C, stat := 0, lscale := 0, seed := 0 }

/-- Control registers at reset (03 R60). -/
def CtrlRegs.reset : CtrlRegs :=
  { taskid := 0, deadl := 0, budget := 0, bused := 0, mfp0 := 0x0108, mfp1 := 0x0108, tshape := [],
    trapvec := 0, trapcause := 0, trappc := 0, trapinfo := 0, rqcount := 0, vwin := 0, twin := 0 }

/-- No queue entry and no result to come. -/
def Pending.reset : Pending :=
  { ldq := [], sdq := [], lq := [], stq := [], flight := [], shadows := [], replay := [], reinject := [], paused := false,
    seq := 0, mrep := none, mrepHandler := none }

/-- An idle context. -/
def Ctx.reset : Ctx :=
  { pc := 0, npc := 0, mode := .user, r := .reset, cr := .reset, genSeed := 0, gens := [], reseed := false,
    xferFrom := 0, skipC := false, fetched := none, live := none, loops := ⟨[], []⟩, loopsHandler := ⟨[], []⟩, hist := [], histHandler := [],
    pend := .reset, streams := [], hcw := [], hcwGood := [], hcwFrom := none, nest := [], watch := .none,
    deferred := [], merges := [], viewDecls := [], views := [], seen := [], status := .idle, frame := none, startLoad := none, part := 0 }

/-- A group slot at reset: EMPTY. -/
def GroupSlot.reset : GroupSlot :=
  { st := .empty, bytes := [], n := 0, k := 0, check := 0, fg := 0, fh := 0, fk := 0, inexact := false,
    stamp := 0, loader := none }

/-- The array at reset (09 R180). -/
def ArrayUnit.reset : ArrayUnit :=
  { claim := none, rs := false, mfpSel := false, weights := [], wscales := [], wtypes := [], active := false,
    pc := 0, pbank := 0, lbank := 0, filters := [], fscales := [], ftypes := [], slot := none, g := 0,
    acc := [], accState := [], dirty := false, repeat_ := none, queue := [], part := none }

/-- A core at reset: every bank a scratchpad of zeros (12 R244). -/
def Core.reset : Core :=
  { sram := [], fe := [], bankMode := [], bankRing := [], wiped := [], phased := [], l1 := [], l1clock := 0, rings := [], vregs := [],
    vlast := [], tiles := [], tlast := [], arr := .reset, groups := [], eq := [], stamp := 0, tlb := [],
    icache := [], selected := 0, woken := none, poison := [], emergency := none }

/-- A die at reset. -/
def Die.reset : Die :=
  { clock := [0, 0, 0, 0], inbox := [], order := [], own := [], tags := [], entries := [], nextEntry := 0, uses := 0, tlb := [] }

/-- A partition that is not formed. -/
def Part.reset : Part :=
  { formed := false, berths := 0, vf := 0, ptroot := 0, ptrootNext := 0, vbase := 0, vbsize := 0, savebase := 0, hvbase := 0,
    embase := 0, pbound := 200, stolen := 0, preState := 0, preFail := false, preForced := false, hvState := 0,
    preSince := 0, hvSince := 0, guestCmds := [], tqcfg := [], slack := 0x1000, misscnt := 0,
    compat := false, key := 0, engineFaults := 0, prefetchFaults := 0, tasks := [], gens := [], nextOrder := 0,
    turns := [], reserve := [], credit := 0, saved := [], saveWrites := [], hvSaved := [], zeroing := [], shoots := 0,
    routes := [], viewUse := [], backingUse := [], frameReq := 0, faultNo := 0, faults := [] }

/-- A stream of a port at reset (25 R398; switch point 28 R413). -/
def LinkStream.reset : LinkStream :=
  { seq := 0, last := 0, slots := [], cur := 0, counters := [], keys := [], switchPoint := 2 ^ 32, keylate := false,
    keyexh := false, table := [], retry := [], ackedAt := 0, nakOut := false, failures := [],
    assembling := [] }

/-- A port at reset: down. -/
def Port.reset : Port :=
  { st := 0, retrain := 0, tx := .reset, rx := .reset, epoch := 0, sent := 0, errors := 0, downs := 0,
    failedTrainings := 0, credits := [], owed := [], unreturned := [], owes := false,
    refused := [] }

/-- Extends a measurement register (28 R411): the most significant byte of a digest comes first. -/
def extended (m d : BitVec 256) : BitVec 256 := sha256 ((bytesOf m).reverse ++ (bytesOf d).reverse)

/-- The image that runs. -/
def imageOf (running : List Word) : List Word := if running.isEmpty then Config.factoryImage else running

/-- The digests of the boot firmware and of the link-die firmware of an image (28 R411). -/
def imageDigests (running : List Word) : List (BitVec 256) :=
  [sha256 ((Config.bootPart (imageOf running)).flatMap bytesOf), sha256 ((Config.linkPart (imageOf running)).flatMap bytesOf)]

/-- The digest of the repair record: HEALTH, the units it names as failed, the channels it has dropped and its counts of
SEV 3 (28 R411; 27 R407). -/
def repairDigest (health : Word) (hurt dropped : List (Nat × Bool)) (sev3 : List (Nat × Nat)) : BitVec 256 :=
  sha256 (bytesOf health ++ (hurt ++ dropped).flatMap (fun x => toBytes x.1 2) ++
    sev3.flatMap (fun x => toBytes x.1 2 ++ toBytes x.2 2))

/-- The registers that step 7 fills from the digests taken (28 R411): boot firmware, link-die firmware, repair record, far
ends by port. -/
def startMeasure (d : List (BitVec 256)) : List (BitVec 256) :=
  [extended 0 (d.getD 0 0), (d.drop 3).foldl extended (extended 0 (d.getD 1 0)), extended 0 (d.getD 2 0), 0]

/-- The digests of a start of the module as made, with no far end. -/
def firstDigests : List (BitVec 256) := imageDigests [] ++ [repairDigest 0 [] [] []] ++ List.replicate 13 0

/-- The module right after reset: step 8 of a cold start is done, no partition is formed and no context runs
(28 R408). -/
def State.reset : State :=
  { ctx := .reset, core := .reset, coreId := 0, ctxId := 0, ctxs := [], cores := [], dies := [], parts := [],
    mem := [], msClock := [], hostClock := [], poison := [], dropped := [], cyc := 0, cycFrac := 0, cycle := 0, ports := [], out := [], wire := [], health := 0,
    sev3 := [], hurt := [], cecnt := 0, uecnt := 0, cePosted := [], rating := 12, cap := 12, limit := 2000,
    startstat := BitVec.ofNat 64 ((Config.imageVersion Config.factoryImage).toNat * 2 ^ 8), rollback := Config.imageVersion Config.factoryImage, firmware := [], firmwareLen := 0, measure := startMeasure firstDigests, running := [],
    digests := firstDigests,
    recovery := false, power := true, epoch := 0, tick := 0, agenda := [], evt := .none, latch := none }

end Sys2Proof.Machine
end

