-- ==== Sys2Proof/Machine/Focus.lean ====
section
/-! DEFINITION. The focus: which context and core act, and how to reach the others. Contexts are numbered
4 × COREID + CTXID (01 R15). -/

namespace Sys2Proof.Machine

/-- The number of the context in focus. -/
def State.here (s : State) : Nat := 4 * s.coreId + s.ctxId

/-- A core, in focus or parked. -/
def State.getCore (s : State) (c : Nat) : Core :=
  if c = s.coreId then s.core else aget Core.reset s.cores c

/-- Replaces a core. -/
def State.setCore (s : State) (c : Nat) (v : Core) : State :=
  if c = s.coreId then { s with core := v } else { s with cores := aset Core.reset s.cores c v }

/-- A context, in focus or parked. -/
def State.getCtx (s : State) (k : Nat) : Ctx :=
  if k = s.here then s.ctx else aget Ctx.reset s.ctxs k

/-- Replaces a context. -/
def State.setCtx (s : State) (k : Nat) (v : Ctx) : State :=
  if k = s.here then { s with ctx := v } else { s with ctxs := aset Ctx.reset s.ctxs k v }

/-- A die. -/
def State.getDie (s : State) (d : Nat) : Die := aget Die.reset s.dies d
def State.setDie (s : State) (d : Nat) (v : Die) : State := { s with dies := aset Die.reset s.dies d v }

/-- A partition, by PARTID. -/
def State.getPart (s : State) (p : Nat) : Part := aget Part.reset s.parts p
def State.setPart (s : State) (p : Nat) (v : Part) : State :=
  { s with parts := aset Part.reset s.parts p v }

/-- A port. -/
def State.getPort (s : State) (p : Nat) : Port := aget Port.reset s.ports p
def State.setPort (s : State) (p : Nat) (v : Port) : State := { s with ports := aset Port.reset s.ports p v }

/-- Puts the focus on core `c`, context `x`. -/
def State.focus (s : State) (c x : Nat) : State :=
  if c = s.coreId && x = s.ctxId then s
  else
    let ctxs := aset Ctx.reset s.ctxs s.here s.ctx
    let ctx := aget Ctx.reset ctxs (4 * c + x)
    let cores := if c = s.coreId then s.cores else aset Core.reset s.cores s.coreId s.core
    let core := if c = s.coreId then s.core else aget Core.reset cores c
    { s with
      ctx := ctx, ctxs := adel ctxs (4 * c + x), core := core,
      cores := if c = s.coreId then cores else adel cores c, coreId := c, ctxId := x }

/-- Acts on context `k` and returns the focus. -/
def State.onCtx (s : State) (k : Nat) (f : State → State) : State :=
  let t := f (s.focus (k / 4) (k % 4))
  t.focus s.coreId s.ctxId

/-- The die of a core (01 R15). -/
def dieOf (c : Nat) : Nat := c / 16
/-- The crew of a core (01 R15). -/
def crewOf (c : Nat) : Nat := c / 4

/-- The formed partition that holds a berth; 16 when there is none (24 R384). -/
def State.partOf (s : State) (crew : Nat) : Nat :=
  ((s.parts.find? (fun p => p.2.formed && p.2.berths.testBit crew)).map Prod.fst).getD 16

/-- The partition of the core in focus. -/
def State.myPart (s : State) : Nat := s.partOf (crewOf s.coreId)

/-- Numbers of the contexts that are not at reset, the one in focus among them. -/
def State.ctxKeys (s : State) : List Nat := s.here :: s.ctxs.map Prod.fst
/-- Numbers of the cores that are not at reset, the one in focus among them. -/
def State.coreKeys (s : State) : List Nat := s.coreId :: s.cores.map Prod.fst

/-- A fresh open value. -/
def State.fresh (s : State) : Word × State :=
  (Config.freeValue s.tick, { s with tick := s.tick + 1 })

/-- Sends a message on a virtual channel of a port (25 R389, R390). -/
def State.post (s : State) (port vc kind : Nat) (body : List Word) : State :=
  { s with out := s.out ++ [⟨port, vc, kind, body, 0⟩] }
/-- A management message to the physical function (25 R391). -/
def State.send (s : State) (kind : Nat) (body : List Word) : State := s.post 0 32 kind body
/-- A message to a partition's virtual function, on its response channel (25 R389, R391). -/
def State.reply (s : State) (p kind : Nat) (body : List Word) : State := s.post 0 (2 * p + 1) kind body

end Sys2Proof.Machine
end

