-- ==== Sys2Proof/Machine/Memory.lean ====
section
/-! DEFINITION. Memory: the physical space and its owners (24 R375), the four dies' coherent views and module
writes (14 R286 to R288), the L2 tags (12 R251 to R257), the L1 (12 R248 to R250), the banks of local SRAM
(12 R242 to R245), translation (24 R376 to R380), watches (07 R126) and poison (27 R402). -/

namespace Sys2Proof.Machine

/-- Trap cause codes (06 R113). -/
def cILLB : BitVec 8 := 0x01#8
def cILLI : BitVec 8 := 0x02#8
def cPRIV : BitVec 8 := 0x03#8
def cALIGN : BitVec 8 := 0x04#8
def cINDEX : BitVec 8 := 0x05#8
def cPAGE : BitVec 8 := 0x06#8
def cPROT : BitVec 8 := 0x07#8
def cCRAB : BitVec 8 := 0x08#8
def cBUDGET : BitVec 8 := 0x09#8
def cOVERRUN : BitVec 8 := 0x0A#8
def cMALFORMED : BitVec 8 := 0x0B#8
def cGROUP : BitVec 8 := 0x0C#8
def cVWIN : BitVec 8 := 0x0D#8
def cDEFER : BitVec 8 := 0x0E#8
def cMERGE : BitVec 8 := 0x0F#8
def cHCW : BitVec 8 := 0x10#8
def cNMATTR : BitVec 8 := 0x11#8
def cTRAP : BitVec 8 := 0x13#8
def cQORDER : BitVec 8 := 0x16#8

/-- A trap with its record. -/
def trapR (c : BitVec 8) (rec : List Word) : Stop := .trap c rec .none
/-- A trap whose record is zero. -/
def trap (c : BitVec 8) : Stop := .trap c [] .none
/-- A trap whose record is the slot number (23 R361). -/
def trapSlot (c : BitVec 8) (slot : Nat) : Stop := .trap c [BitVec.ofNat 64 slot] .none

/-- Stops with `e` unless the condition holds. -/
def require (b : Bool) (e : Stop) : Except Stop Unit := if b then .ok () else .error e

/-! Physical memory and its owners (24 R375). -/

/-- A physical address is memory: the berth that owns it. -/
def State.berthOf (s : State) (pa : Nat) : Option Nat :=
  if pa < 0xC000000000 then
    let stack := pa / 2 ^ 36
    if aget false s.dropped (32 * stack + pa / 2 ^ 31 % 32) then none
    else some (4 * (stack / 3) + pa / 2 ^ 34 % 4)
  else if 0x10000000000 ≤ pa && pa < 0x20000000000 then
    some (4 * (pa / 2 ^ 38 % 4) + pa / 2 ^ 36 % 4)
  else none

/-- The tier of an address: 0 HBM4E, 1 LPDDR 6. -/
def tierOf (pa : Nat) : Nat := if pa < 0x10000000000 then 0 else 1

/-- The home die of an address (24 R375). -/
def homeDie (pa : Nat) : Nat := if pa < 0x10000000000 then pa / 2 ^ 36 / 3 else pa / 2 ^ 38 % 4

/-- A partition owns an address (24 R375). -/
def State.owns (s : State) (p pa : Nat) : Bool :=
  match s.berthOf pa with
  | some b => (s.getPart p).berths.testBit b
  | none => false

/-- The berths of a partition on a die. -/
def State.berthsOn (s : State) (d p : Nat) : List Nat :=
  (List.range 4).filter (fun j => (s.getPart p).berths.testBit (4 * d + j))

/-- The attributes of a page where nothing depends on them. -/
def PageAttr.none : PageAttr := ⟨false, false⟩

/-- The unit at home in an address: the near-memory unit of its berth, on the base die of its stack or at the LPDDR 6
controllers of its die (12 R261; 01 R14). A unit serves the addresses of its berth alone. -/
def memUnit (pa : Nat) : Nat :=
  if pa < 0x10000000000 then 4 * (pa / 2 ^ 36) + pa / 2 ^ 34 % 4 else 48 + 4 * (pa / 2 ^ 38 % 4) + pa / 2 ^ 36 % 4

/-! Watches (07 R126). -/

/-- The line of 128 bytes that a location lies in. -/
def Loc.line : Loc → Loc
  | .sram c o => .sram c (o / 128 * 128)
  | .phys a m d => .phys (a / 128 * 128) m d

/-- Where a write by `core` comes from, as a watcher sees it; none for a base die, the host or a peer. -/
def origin (watcher : Nat) : Option Nat → Nat
  | none => 3
  | some w =>
    if w = watcher then 0 else if crewOf w = crewOf watcher then 1
    else if dieOf w = dieOf watcher then 2 else 3

/-- A watch observes a write of its line. -/
def Watch.observe (w : Watch) (line : Loc) (orig : Nat) : Watch :=
  let here := match w.line, line with
    | .phys a _ _, .phys b _ _ => decide (a = b)
    | a, b => decide (a = b)
  if here && decide (w.st = .set ∨ (w.st = .seen ∧ w.waiting = false)) then
    { w with
      st := .seen, cnt := min 15 (w.cnt + 1), orig := if w.cnt = 0 then orig else w.orig }
  else w

/-- A watch on a cacheable line is lost when the line leaves the die's L2; one on a page with MS, or on local SRAM, is
not. -/
def Watch.lose (w : Watch) (line : Nat) : Watch :=
  match w.line with
  | .phys a false _ => if a = line && w.st = .set then { w with st := .dropped } else w
  | _ => w

/-- Applies a function to the watch of every context whose core satisfies `p`. -/
def State.mapWatches (s : State) (p : Nat → Bool) (f : Nat → Watch → Watch) : State :=
  let g := fun (k : Nat) (c : Ctx) => if p (k / 4) then { c with watch := f (k / 4) c.watch } else c
  { s with ctx := g s.here s.ctx, ctxs := s.ctxs.map (fun q => (q.1, g q.1 q.2)) }

/-- A write to a line is observed by the watches for which it is performed there: those of one die for a
cacheable line, every one for an MS line or a bank. -/
def State.notify (s : State) (loc : Loc) (die : Option Nat) (writer : Option Nat) : State :=
  s.mapWatches (fun c => match die with
      | some d => dieOf c = d
      | none => true)
    (fun c w => w.observe loc.line (origin c writer))

/-! Views of the task in focus (19 R333, R334). -/

/-- The view of the task in focus that holds a byte of a crew neighbour's SRAM: slot and index (19 R334). -/
def State.viewAt (s : State) (c off : Nat) : Option (Nat × Nat) :=
  if s.ctx.views.isEmpty || crewOf c ≠ crewOf s.coreId then none
  else
    let x := c % 4 * 0x100000 + off
    (s.ctx.views.find? (fun v => v.2.desc.range ≤ x && x < v.2.desc.range + v.2.desc.len)).map
      (fun v => (v.1, x - v.2.desc.range))

/-- The bytes of a unit that lie in views, as slot and index. -/
def State.viewHits (s : State) (c off n : Nat) : List (Nat × Nat) :=
  if s.ctx.views.isEmpty then [] else (List.range n).filterMap (fun i => s.viewAt c (off + i))

/-- The identity byte of a view's operator at an index (19 R333). -/
def ViewDesc.identity (d : ViewDesc) (i : Nat) : Byte :=
  let w := typeWidth d.type / 8
  let code := match typeClass d.type with
    | some (.int t) => match d.op with
      | 1 => 1
      | 2 => t.encode t.maxV
      | 3 => t.encode t.minV
      | 4 => 2 ^ t.width - 1
      | _ => 0
    | some (.float f) => match d.op with
      | 0 => f.signBit
      | 1 => f.bias * 2 ^ f.mbits
      | 2 => f.nanCode
      | 3 => f.nanCode
      | _ => 0
    | _ => 0
  BitVec.ofNat 8 (code / 256 ^ (i % w))

/-- The place in the view backing of an index of a spilled view (19 R335). -/
def backingPlace : List (Nat × Nat) → Nat → Option Nat
  | [], _ => none
  | (start, len) :: t, i => if i < len then some (start + i) else backingPlace t (i - len)

/-- A base register of 2 MiB units as a virtual address (23 R366; 24 R385). -/
def baseVA (w : Word) : Word := (w.truncate 57 : BitVec 57).signExtend 64

/-- The virtual address of a byte of a spilled view (19 R335; 24 R385). -/
def State.viewVA (s : State) (p : Nat) (v : View) (i : Nat) : Option Nat :=
  (v.backing.bind (fun b => backingPlace b i)).map (fun x => (baseVA (s.getPart p).vbase + BitVec.ofNat 64 x).toNat)

/-- Changes a view of the task in focus. -/
def State.modView (s : State) (v : Nat) (f : View → View) : State :=
  match afind s.ctx.views v with
  | some w => { s with ctx := { s.ctx with views := aput s.ctx.views v (f w) } }
  | none => s

/-! Poison of memory (27 R402). -/

/-- Words of local SRAM that `n` bytes touch, and those that they cover whole. -/
def wordsOver (o n : Nat) : List Nat := (List.range ((o + n + 3) / 4 - o / 4)).map (fun i => o / 4 + i)
def wordsWithin (o n : Nat) : List Nat := (List.range ((o + n) / 4 - (o + 3) / 4)).map (fun i => (o + 3) / 4 + i)

/-- The codewords of memory, of 32 bytes, that `n` bytes touch and that they cover whole: of a page with MS those
themselves; of any other page those of the L2 lines, whose POISON mark is one for the line (27 R402; 12 R252). -/
def marksOver (a n : Nat) (ms : Bool) : List Nat :=
  if ms then (List.range ((a + n + 31) / 32 - a / 32)).map (fun i => a / 32 + i)
  else (List.range (4 * ((a + n + 127) / 128 - a / 128))).map (fun i => 4 * (a / 128) + i)
def marksWithin (a n : Nat) (ms : Bool) : List Nat :=
  if ms then (List.range ((a + n) / 32 - (a + 31) / 32)).map (fun i => (a + 31) / 32 + i)
  else (List.range (4 * ((a + n) / 128 - (a + 127) / 128))).map (fun i => 4 * ((a + 127) / 128) + i)

/-- One of `n` bytes of memory lies under a POISON mark. -/
def State.memoryBad (s : State) (a n : Nat) (ms : Bool) : Bool :=
  !s.poison.isEmpty && (marksOver a n ms).any (aget false s.poison)

/-- Sets or clears POISON marks. -/
def State.setMarks (s : State) (ms : List Nat) (b : Bool) : State :=
  if !b && s.poison.isEmpty then s else { s with poison := ms.foldl (fun m i => aset false m i b) s.poison }

/-! The dies' views of memory (14 R286 to R288). The bytes of `mem` are what each address's home die holds;
a die's own table lists the bytes that it reads differently. -/

/-- A byte as a die reads it. -/
def State.dieByte (s : State) (d pa : Nat) : Byte :=
  match afind (s.getDie d).own pa with
  | some b => b
  | none => aget zeroByte s.mem pa

def State.dieBytes (s : State) (d pa : Nat) : Nat → List Byte
  | 0 => []
  | n + 1 => s.dieByte d pa :: s.dieBytes d (pa + 1) n

/-- A write of a line is sent to its home and to the dies whose L2 holds the line (14 R286). -/
def State.takes (s : State) (d pa : Nat) : Bool :=
  homeDie pa = d || (afind (s.getDie d).tags (pa / 128)).isSome

/-- Every die that a write of an address has still to reach goes on reading the byte it read before. -/
def State.freeze (s : State) (pa : Nat) (except : List Nat) : State :=
  [0, 1, 2, 3].foldl (fun s d =>
    if except.contains d || ((s.getDie d).inbox.isEmpty) then s
    else
      let die := s.getDie d
      if s.takes d pa && die.inbox.any (fun w => w.bytes.any (fun b => b.1 = pa)) then
        s.setDie d { die with own := aput die.own pa (s.dieByte d pa) }
      else s) s

/-- Drops the entries of a die that equal what it would read anyway. -/
def State.thaw (s : State) (d pa : Nat) : State :=
  let die := s.getDie d
  if afind die.own pa = some (aget zeroByte s.mem pa) then s.setDie d { die with own := adel die.own pa }
  else s

/-- Writes bytes at the home die. -/
def State.homeWrite (s : State) (home src : Nat) : List (Nat × Byte) → State
  | [] => s
  | (pa, b) :: t =>
    let s := s.freeze pa [home, src]
    let s := { s with mem := aset zeroByte s.mem pa b }
    let s := [0, 1, 2, 3].foldl (fun s d => s.thaw d pa) s
    s.homeWrite home src t

/-! Vector clocks (14 R286, R287). -/

/-- A component of a clock. -/
def clockAt (c : List Nat) (k : Nat) : Nat := c.getD k 0

/-- The greater of each component. -/
def clockJoin (a b : List Nat) : List Nat := (List.range 4).map (fun k => max (clockAt a k) (clockAt b k))

/-- A write and all that its stamp names. -/
def ModWrite.clock (w : ModWrite) : List Nat := w.stamp.set w.src w.num

/-- Two writes share a byte. -/
def ModWrite.meets (v w : ModWrite) : Bool := v.bytes.any (fun b => w.bytes.any (fun c => c.1 = b.1))

/-- A die has applied a write. -/
def State.hasApplied (s : State) (d : Nat) (w : ModWrite) : Bool := w.num ≤ clockAt (s.getDie d).clock w.src

/-- The module writes that are on their way. -/
def State.inFlight (s : State) : Nat := ([0, 1, 2, 3].map (fun d => (s.getDie d).inbox.length)).sum

/-- Every die has applied all that a clock names. -/
def State.everywhere (s : State) (v : List Nat) : Bool :=
  [0, 1, 2, 3].all (fun d => [0, 1, 2, 3].all (fun k => clockAt v k ≤ clockAt (s.getDie d).clock k))

/-! L2 tags (12 R251 to R257). A line's bytes are what the die reads; tags and entries say how it is held. -/

/-- Releases a reference to a data entry: the last tag left owns it (12 R252). -/
def Die.release (d : Die) (e line : Nat) : Die :=
  match afind d.entries e with
  | some x =>
    if x.rc ≤ 1 then { d with entries := adel d.entries e }
    else { d with
      entries := aput d.entries e { x with rc := x.rc - 1 },
      tags := if x.rc ≠ 2 then d.tags
        else d.tags.map (fun t => if t.1 ≠ line && t.2.kind = .share && t.2.entry = e then (t.1, { t.2 with kind := .own }) else t) }
  | none => d

/-- Drops the tag of a line; a watch on it is lost. -/
def State.evictLine (s : State) (d line : Nat) : State :=
  let die := s.getDie d
  match afind die.tags line with
  | none => s
  | some t =>
    let die := if t.kind = .zero then die else die.release t.entry line
    let s := s.setDie d { die with tags := adel die.tags line }
    s.mapWatches (fun c => dieOf c = d) (fun _ w => w.lose (line * 128))

/-- The slices of a partition on a die: four for each of its berths there (01 R16; 12 R251). -/
def State.slicesOn (s : State) (d p : Nat) : List Nat :=
  (s.berthsOn d p).flatMap (fun j => [4 * j, 4 * j + 1, 4 * j + 2, 4 * j + 3])

/-- The slice that holds a line, by the hash over the partition's slices on the die (12 R251; assumption log 17). -/
def State.sliceOf (s : State) (d p line : Nat) : Nat :=
  let k := s.slicesOn d p
  k.getD (Config.sliceHash k.length line % k.length) 0

/-- The least recently used of the tags that satisfy `q`. -/
def Die.lru (d : Die) (q : Nat → L2Tag → Bool) : Option Nat :=
  (d.tags.foldl (fun b t =>
    if q t.1 t.2 then match b with
      | some (_, u) => if t.2.used < u then some (t.1, t.2.used) else b
      | none => some (t.1, t.2.used)
    else b) none).map Prod.fst

/-- A tag takes a way of its set of its slice: 16 of 4,096 (12 R251, R256). The set of a line is its number modulo 4,096
(DESIGN CHOICE, log 17: R251 gives no set index). -/
def State.tagRoom (s : State) (d part slice line : Nat) : State :=
  let die := s.getDie d
  let inSet := fun l (t : L2Tag) => decide (t.part = part ∧ t.slice = slice ∧ l % 4096 = line % 4096)
  if die.tags.length < 16 || (die.tags.filter (fun t => inSet t.1 t.2)).length < 16 then s
  else match die.lru inSet with
    | some v => s.evictLine d v
    | none => s

/-- The latest use of a data entry, over all its tags (12 R256). -/
def Die.entryUse (d : Die) (e : Nat) : Nat :=
  d.tags.foldl (fun u t => if t.2.kind ≠ .zero && t.2.entry = e then max u t.2.used else u) 0

/-- The least recently used data entry of a slice but one. -/
def Die.lruEntry (d : Die) (part slice : Nat) (keep : Option Nat) : Option Nat :=
  (d.entries.foldl (fun b e =>
    if e.2.part = part && e.2.slice = slice && keep ≠ some e.1 then match b with
      | some (_, u) => if d.entryUse e.1 < u then some (e.1, d.entryUse e.1) else b
      | none => some (e.1, d.entryUse e.1)
    else b) (none : Option (Nat × Nat))).map Prod.fst

/-- A data entry is free in the slice, of 32,768: else the least recently used is evicted with all its tags, but never
the one being copied (12 R256). -/
def State.entryRoom (s : State) (d part slice : Nat) (keep : Option Nat) : State :=
  let die := s.getDie d
  if die.entries.length < 32768 ||
      (die.entries.filter (fun e => e.2.part = part && e.2.slice = slice)).length < 32768 then s
  else match die.lruEntry part slice keep with
    | some e => (die.tags.filter (fun t => t.2.entry = e && t.2.kind ≠ .zero)).foldl (fun s t => s.evictLine d t.1) s
    | none => s

/-- A line's tag points at a new entry of its own; a shared one is released (12 R255). -/
def State.ownEntry (s : State) (d line : Nat) (t : L2Tag) : State :=
  let s := s.entryRoom d t.part t.slice (if t.kind = .share then some t.entry else none)
  let die := s.getDie d
  let die := if t.kind = .share then die.release t.entry line else die
  let e := die.nextEntry
  s.setDie d { die with
    entries := aput die.entries e ⟨t.part, t.slice, 1, 0, false⟩, nextEntry := e + 1,
    tags := aput die.tags line { t with kind := .own, entry := e } }

/-- A probe of a held line (12 R254). -/
def State.probe (s : State) (d line : Nat) : State :=
  let die := s.getDie d
  match afind die.tags line with
  | none => s
  | some t =>
    if t.hot || !t.dd then s
    else
      let x := s.dieBytes d (line * 128) 128
      let drop := fun (die : Die) => if t.kind = .zero then die else die.release t.entry line
      if x.all (fun b => b = 0) then
        let die := drop die
        s.setDie d { die with tags := aput die.tags line { t with kind := .zero } }
      else
        let h := sipHash (s.getPart t.part).key x
        let heldHot := fun e => die.tags.any (fun q => q.2.hot && q.2.kind ≠ .zero && q.2.entry = e)
        let heldBad := fun e => die.tags.any (fun q => q.2.kind ≠ .zero && q.2.entry = e &&
          s.memoryBad (q.1 * 128) 128 false)
        let cand := (die.entries.filter (fun e => e.2.part = t.part && e.2.slice = t.slice && e.2.hv && e.2.hash = h &&
          e.2.rc < 63 && (t.kind = .zero || e.1 ≠ t.entry) && !(heldHot e.1) && !(heldBad e.1))).take 4
        let hit := cand.find? (fun e => die.tags.any (fun q => q.2.kind ≠ .zero && q.2.entry = e.1 &&
          s.dieBytes d (q.1 * 128) 128 = x) && !(s.memoryBad (line * 128) 128 false))
        match hit with
        | some e =>
          let die := drop die
          let y := (afind die.entries e.1).getD e.2
          let tags := (aput die.tags line { t with kind := .share, entry := e.1 }).map (fun q =>
            if q.2.kind ≠ .zero && q.2.entry = e.1 then (q.1, { q.2 with kind := .share }) else q)
          s.setDie d { die with entries := aput die.entries e.1 { y with rc := y.rc + 1 }, tags := tags }
        | none =>
          if t.kind = .own then
            s.setDie d { die with entries := aput die.entries t.entry ⟨t.part, t.slice, 1, h, true⟩ }
          else
            let s := s.ownEntry d line t
            let die := s.getDie d
            s.setDie d { die with entries := aput die.entries (die.nextEntry - 1) ⟨t.part, t.slice, 1, h, true⟩ }

/-- One more use of a die's tags: the stamp of a tag used now is the greatest so far (12 R256). -/
def State.countUse (s : State) (d : Nat) : State := s.setDie d { s.getDie d with uses := (s.getDie d).uses + 1 }

/-- A write of a held line, as its tag and entry see it (12 R255); `amo` also sets HOT. -/
def State.l2Touch (s : State) (d line : Nat) (amo : Bool) : State :=
  match afind (s.getDie d).tags line with
  | none => s
  | some t =>
    let s := s.countUse d
    let die := s.getDie d
    let t := { t with dirty := true, hot := t.hot || amo, used := die.uses, idle := s.cyc }
    if t.kind = .own then
      s.setDie d { die with
        tags := aput die.tags line t,
        entries := match afind die.entries t.entry with
          | some e => aput die.entries t.entry { e with hv := false }
          | none => die.entries }
    else s.ownEntry d line t

/-! Module writes (14 R286 to R288). -/

/-- Lists a write as performed at its home. -/
def State.noteOrder (s : State) (w : ModWrite) : State :=
  let h := s.getDie w.home
  s.setDie w.home { h with order := h.order ++ [w] }

/-- Forgets the oldest writes of a home as long as every die has applied them. -/
def State.trimOrder (s : State) (home : Nat) : State :=
  let h := s.getDie home
  s.setDie home { h with order := h.order.dropWhile (fun w => [0, 1, 2, 3].all (fun d => s.hasApplied d w)) }

/-- A die's write of bytes of one line becomes a module write (14 R286): performed at once at its home when the die is
the home, else on the way there, and sent to the other dies that hold the line. The inbox of a die lists it all the same:
one that it is not sent to only counts it, or no later stamp could be met there (DEDUCED, log 22: R287). -/
def State.dieWrite (s : State) (d : Nat) (pairs : List (Nat × Byte)) : State :=
  let home := homeDie ((pairs.head?.map Prod.fst).getD 0)
  let die := s.getDie d
  let w : ModWrite := ⟨d, clockAt die.clock d + 1, die.clock, home, pairs⟩
  let s := s.setDie d { die with clock := die.clock.set d (clockAt die.clock d + 1) }
  let s := [0, 1, 2, 3].foldl (fun s e =>
    if e = d then s else let x := s.getDie e; s.setDie e { x with inbox := x.inbox ++ [w] }) s
  if home = d then (s.homeWrite d d pairs).noteOrder w
  else
    let die := s.getDie d
    (s.setDie d { die with own := pairs.foldl (fun m p => aput m p.1 p.2) die.own })

/-- The writes that a home performed before one that shares a byte with them. -/
def State.earlier (s : State) (w : ModWrite) : List ModWrite :=
  ((s.getDie w.home).order.takeWhile (fun v => !(v.src = w.src && v.num = w.num))).filter (fun v => v.meets w)

/-- The line of a write is sent to a die. -/
def State.reaches (s : State) (d : Nat) (w : ModWrite) : Bool := (w.bytes.head?).any (fun b => s.takes d b.1)

/-- The writes that share a byte with one, that a die has applied, and that their home has still to perform. -/
def State.ahead (s : State) (d : Nat) (w : ModWrite) : List ModWrite :=
  (s.getDie w.home).inbox.filter (fun v => v.home = w.home && !(v.src = w.src && v.num = w.num) && v.meets w && s.hasApplied d v)

/-- A die may apply a write: it has applied all that the write's stamp names, and at another die than the home those to
the same bytes that the home performed before. It may go before the home, where it holds the line and has gone before it
with no other write to these bytes; a die that only counts the write follows the home (14 R287, R288). -/
def State.applicable (s : State) (d : Nat) (w : ModWrite) : Bool :=
  let c := (s.getDie d).clock
  (List.range 4).all (fun k => if k = w.src then clockAt c k + 1 = w.num
    else clockAt w.stamp k ≤ clockAt c k) &&
  (d = w.home || ((s.earlier w).all (s.hasApplied d) &&
    (s.hasApplied w.home w || (s.reaches d w && (s.ahead d w).isEmpty))))

/-- The writes that share a byte with one, that a die has applied, and that come after it in the order of their home, or have
still to come there: what the die reads of them stands (14 R288). -/
def State.later (s : State) (d : Nat) (w : ModWrite) : List ModWrite :=
  s.ahead d w ++ ((s.getDie w.home).order.dropWhile (fun v => !(v.src = w.src && v.num = w.num))).tail.filter (fun v =>
    v.meets w && s.hasApplied d v)

/-- The bytes of a write that a die comes to read when it applies it. -/
def State.takenBytes (s : State) (d : Nat) (w : ModWrite) : List (Nat × Byte) :=
  w.bytes.filter (fun b => !((s.later d w).any (fun v => v.bytes.any (fun q => q.1 = b.1))))

/-- Applies one module write at a die (14 R287): at the home it is performed there; at another die that it is sent to, its
bytes are read from here on, but for those of a later write that it has applied (14 R288). -/
def State.applyWrite (s : State) (d : Nat) (w : ModWrite) : State :=
  let die := s.getDie d
  let s := s.setDie d { die with
    inbox := die.inbox.filter (fun x => x ≠ w),
    clock := die.clock.set w.src w.num }
  let s := if d = w.home then (s.homeWrite d w.src w.bytes).noteOrder w
    else if s.reaches d w then
      let bs := s.takenBytes d w
      let x := s.getDie d
      let s := s.setDie d { x with own := bs.foldl (fun m p => aput m p.1 p.2) x.own }
      bs.foldl (fun s p => s.thaw d p.1) s
    else s
  let s := s.trimOrder w.home
  match w.bytes with
  | (pa, _) :: _ =>
    if s.takes d pa then
      (s.l2Touch d (pa / 128) false).notify (.phys pa false .none) (some d) (some (16 * w.src))
    else s
  | [] => s

/-- One round of spreading what a clock names to some dies: the homes of the writes concerned perform them first, with
what they in turn come after; each die applies one write. -/
def State.spreadStep (s : State) (v ats : List Nat) : State × List Nat × List Nat :=
  let wanted := ats.flatMap (fun d => (s.getDie d).inbox.filter (fun w => w.num ≤ clockAt v w.src))
  let ats := [0, 1, 2, 3].filter (fun h => ats.contains h || wanted.any (fun w => w.home = h && !(s.hasApplied h w)))
  let v := (wanted.flatMap s.earlier).foldl (fun v x => clockJoin v x.clock) v
  let s := ats.foldl (fun s d =>
    match (s.getDie d).inbox.find? (fun w => w.num ≤ clockAt v w.src && s.applicable d w) with
    | some w => s.applyWrite d w
    | none => s) s
  (s, v, ats)

def State.spreadN (s : State) (v ats : List Nat) : Nat → State
  | 0 => s
  | n + 1 =>
    let r := s.spreadStep v ats
    r.1.spreadN r.2.1 r.2.2 n

/-- Applies at some dies every module write that a clock names (14 R287). -/
def State.spread (s : State) (v ats : List Nat) : State :=
  if s.inFlight = 0 then s else s.spreadN v ats (2 * s.inFlight + 4)

/-- The newest write of every die. -/
def State.newest (s : State) : List Nat := [0, 1, 2, 3].map (fun k => clockAt (s.getDie k).clock k)

/-- Applies every module write everywhere. -/
def State.drainWrites (s : State) : State := s.spread s.newest [0, 1, 2, 3]

/-- Applies everywhere the module writes to some bytes, with all that they come after. -/
def State.drainBytes (s : State) (hit : Nat → Bool) : State :=
  let ws := ([0, 1, 2, 3].flatMap (fun d => (s.getDie d).inbox)).filter (fun w => w.bytes.any (fun b => hit b.1))
  s.spread (ws.foldl (fun v w => clockJoin v w.clock) []) [0, 1, 2, 3]

/-- The home dies perform every module write that a clock names: a host that reads there sees them (14 R291). -/
def State.settleClock (s : State) (v : List Nat) : State :=
  s.spread v ([0, 1, 2, 3].filter (fun h => (s.getDie h).inbox.any (fun w => w.home = h && w.num ≤ clockAt v w.src)))

/-- The same of what a die has made or applied. -/
def State.settleHomes (s : State) (d : Nat) : State := s.settleClock (s.getDie d).clock

/-- A request of a die reaches a home die behind the die's earlier module writes and all that the die had applied, whatever
their homes: what the request writes there comes after them (14 R286, R287). -/
def State.requestOrder (s : State) (d h : Nat) : State := s.spread (s.getDie d).clock [h]

/-- What the writes performed at a home to `n` bytes come after. -/
def State.seenAt (s : State) (h pa n : Nat) : List Nat :=
  ((s.getDie h).order.filter (fun w => w.bytes.any (fun b => pa ≤ b.1 && b.1 < pa + n))).foldl
    (fun v w => clockJoin v w.clock) []

/-- A line comes to a die from its home (14 R286; 12 R259): the die applies all that what it brings comes after. -/
def State.lineFrom (s : State) (d line : Nat) (page : PageAttr) : State :=
  let h := homeDie (line * 128)
  if h = d then s
  else
    let s := s.requestOrder d h
    let s := s.spread (s.seenAt h (line * 128) 128) [d]
    let hot := ((afind (s.getDie h).tags line).map L2Tag.hot).getD false
    let x := crossLine (!page.cmp || hot) (s.dieBytes h (line * 128) 128)
    let die := s.getDie d
    s.setDie d { die with
      own := ((List.range 128).zip x).foldl (fun m b =>
        if aget zeroByte s.mem (line * 128 + b.1) = b.2 then m else aput m (line * 128 + b.1) b.2)
        (die.own.filter (fun b => b.1 / 128 ≠ line)) }

/-! The L2's lines (12 R251, R254, R255). -/

/-- A line is held, and used: its tag follows the page's DD. -/
def State.l2Alloc (s : State) (d p line : Nat) (page : PageAttr) : State :=
  let s := s.countUse d
  let die := s.getDie d
  match afind die.tags line with
  | some t => s.setDie d { die with tags := aput die.tags line { t with used := die.uses, dd := page.dd } }
  | none =>
    let k := s.sliceOf d p line
    (s.tagRoom d p k line).ownEntry d line ⟨.own, 0, false, false, page.dd, p, k, die.uses, s.cyc⟩

/-- A die's L2 comes to hold a line: a fill, and a probe of what it brought. The line takes a data entry of its own before
the probe (DESIGN CHOICE, log 17: R254 says 'keep or allocate'), so that in a full slice another entry may leave first. -/
def State.l2Fill (s : State) (d p line : Nat) (page : PageAttr) : State :=
  if (afind (s.getDie d).tags line).isSome then s.l2Alloc d p line page
  else
    let s := (s.lineFrom d line page).l2Alloc d p line page
    if page.dd then s.probe d line else s

/-- A write of bytes of one line at a die's L2 (12 R255), and its module write; a whole line needs no fill. -/
def State.l2Store (s : State) (d p : Nat) (page : PageAttr) (amo : Bool) (pairs : List (Nat × Byte)) : State :=
  match pairs with
  | [] => s
  | (pa, _) :: _ =>
    let s := if pairs.length = 128 then s.l2Alloc d p (pa / 128) page else s.l2Fill d p (pa / 128) page
    (s.l2Touch d (pa / 128) amo).dieWrite d pairs

/-- Bytes from an address upward, by line; at most `n` lines. -/
def linePieces (pa : Nat) (bs : List Byte) : Nat → List (List (Nat × Byte))
  | 0 => []
  | n + 1 =>
    let m := min bs.length (128 - pa % 128)
    if bs.isEmpty then []
    else ((List.range m).zip bs).map (fun p => (pa + p.1, p.2)) :: linePieces (pa + m) (bs.drop m) n

/-- A write of bytes at a die's L2. -/
def State.l2Put (s : State) (d p : Nat) (page : PageAttr) (amo : Bool) (pa : Nat) (bs : List Byte) : State :=
  (linePieces pa bs bs.length).foldl (fun s ps => s.l2Store d p page amo ps) s

/-- ZEROM of a line (12 R255): ZERO and DIRTY on a page with DD, which takes no data entry, else zeros in an entry of its
own. -/
def State.l2Zero (s : State) (d p line : Nat) (page : PageAttr) : State :=
  if !page.dd then s.l2Put d p page false (line * 128) (List.replicate 128 0)
  else
    let s := s.countUse d
    let k := s.sliceOf d p line
    let s := match afind (s.getDie d).tags line with
      | some t => if t.kind = TagKind.zero then s else s.setDie d ((s.getDie d).release t.entry line)
      | none => s.tagRoom d p k line
    let die := s.getDie d
    let t : L2Tag := (afind die.tags line).getD ⟨.zero, 0, true, false, true, p, k, die.uses, s.cyc⟩
    (s.setDie d { die with
      tags := aput die.tags line { t with
        kind := TagKind.zero, dirty := true, dd := true, used := die.uses, idle := s.cyc } }).dieWrite d
        ((List.range 128).map (fun i => (line * 128 + i, 0)))

/-! The L1 (12 R248 to R250). -/

/-- The cache-way banks of a core. -/
def Core.ways (c : Core) : List Nat := (c.bankMode.filter (fun b => b.2 = .cache)).map Prod.fst

/-- The bytes of a line's dirty words, each with its address. -/
def L1Line.dirtyBytes (l : L1Line) (line : Nat) : List (Nat × Byte) :=
  (List.range 128).filterMap (fun i => if l.dirty.getLsbD (i / 4) then some (line * 128 + i, l.data.getD i 0) else none)

/-- The word of SRAM where a way holds word `w` of a line: 256 sets of 128 bytes to a bank (12 R248; its order is assumption
log 59's). Its poison code is the L1 word's (27 R401, R402). -/
def L1Line.wordAt (l : L1Line) (line w : Nat) : Nat := (l.way * 0x8000 + line % 256 * 128) / 4 + w
def State.l1Bad (s : State) (c line : Nat) (l : L1Line) (w : Nat) : Bool :=
  aget false (s.getCore c).poison (l.wordAt line w)

/-- Sets or clears the poison codes of words of a line in a core's L1. -/
def State.l1Mark (s : State) (c line : Nat) (l : L1Line) (ws : List Nat) (b : Bool) : State :=
  let co := s.getCore c
  if !b && co.poison.isEmpty then s
  else s.setCore c { co with poison := ws.foldl (fun m w => aset false m (l.wordAt line w) b) co.poison }

/-- Poison moves with a line that is written back: a poisoned word poisons the line below, and a whole line without poison
cleans it (27 R402). -/
def State.writebackMarks (s : State) (c line : Nat) (l : L1Line) : State :=
  if (List.range 32).any (fun w => l.dirty.getLsbD w && s.l1Bad c line l w) then s.setMarks (marksOver (line * 128) 128 false) true
  else if l.dirty = BitVec.allOnes 32 then s.setMarks (marksOver (line * 128) 128 false) false
  else s

/-- Writes the dirty words of a line back to the die's L2, as one write (12 R249; 14 R286). -/
def State.writeLine (s : State) (c line : Nat) (l : L1Line) : State :=
  if l.dirty = 0 then s
  else
    let d := dieOf c
    ((s.l2Store d (s.partOf (crewOf c)) l.page false (l.dirtyBytes line)).writebackMarks c line l).notify
      (.phys (line * 128) false .none) (some d) (some c)

/-- Evicts a line of a core's L1. -/
def State.l1Evict (s : State) (c line : Nat) : State :=
  match afind (s.getCore c).l1 line with
  | none => s
  | some l =>
    let s := s.writeLine c line l
    let co := s.getCore c
    s.setCore c { co with l1 := adel co.l1 line }

/-- Writes back every dirty word of a core's L1; lines stay valid (12 R250). -/
def State.l1Release (s : State) (c : Nat) : State :=
  ((s.getCore c).l1.filter (fun l => l.2.dirty ≠ 0)).foldl (fun s l =>
    let s := s.writeLine c l.1 l.2
    let co := s.getCore c
    s.setCore c { co with l1 := aput co.l1 l.1 { l.2 with dirty := 0 } }) s

/-- Makes every valid word that is not dirty invalid (12 R250). -/
def State.l1Acquire (s : State) (c : Nat) : State :=
  let co := s.getCore c
  if co.l1.isEmpty then s
  else s.setCore c { co with
    l1 := (co.l1.map (fun l => (l.1, { l.2 with valid := l.2.dirty }))).filter (fun l => l.2.valid ≠ 0) }

/-- An L1's empty line in a way. -/
def L1Line.empty (way : Nat) (page : PageAttr) : L1Line := ⟨way, List.replicate 128 0, 0, 0, page, 0⟩

/-- A line of an L1, allocated when absent (12 R249). -/
def State.l1Take (s : State) (c line : Nat) (page : PageAttr) : L1Line × State :=
  let co := s.getCore c
  match afind co.l1 line with
  | some l => ({ l with page := page }, s)
  | none =>
    let inSet := co.l1.filter (fun (x : Nat × L1Line) => x.1 % 256 = line % 256)
    let victim := inSet.foldl (fun (b : Option (Nat × Nat)) (x : Nat × L1Line) => match b with
      | some (_, u) => if x.2.used < u then some (x.1, x.2.used) else b
      | none => some (x.1, x.2.used)) none
    match co.ways.find? (fun w => !(inSet.any (fun x => x.2.way = w))), victim with
    | some w, _ => (.empty w page, s)
    | none, some v => (.empty (((afind co.l1 v.1).map L1Line.way).getD 0) page, s.l1Evict c v.1)
    | none, none => (.empty 0 page, s)

/-- The line of an L1, with every word valid after a merging fill (12 R249): it crosses from the die's L2, compressed
where its page allows it and it is not HOT (12 R259). -/
def State.l1Line (s : State) (c line : Nat) (page : PageAttr) (fill : Bool) : L1Line × State :=
  let r := s.l1Take c line page
  if fill && r.1.valid ≠ BitVec.allOnes 32 then
    let d := dieOf c
    let s := r.2.l2Fill d (s.partOf (crewOf c)) line page
    let hot := ((afind (s.getDie d).tags line).map L2Tag.hot).getD false
    let bs := crossLine (!page.cmp || hot) (s.dieBytes d (line * 128) 128)
    let data := (List.range 128).map (fun i =>
      if r.1.valid.getLsbD (i / 4) then r.1.data.getD i 0 else bs.getD i 0)
    -- poison comes with the words that are filled (27 R402)
    let new := (List.range 32).filter (fun w => !(r.1.valid.getLsbD w))
    ({ r.1 with data := data, valid := BitVec.allOnes 32 },
      s.l1Mark c line r.1 new (s.memoryBad (line * 128) 128 false))
  else r

/-- Puts a line back as the most recently used. -/
def State.l1Put (s : State) (c line : Nat) (l : L1Line) : State :=
  let co := s.getCore c
  s.setCore c { co with l1 := aput co.l1 line { l with used := co.l1clock }, l1clock := co.l1clock + 1 }

/-- A cacheable read of a unit by a core: through its L1, if it has ways, else at the die's L2. -/
def State.cachedRead (s : State) (c pa n : Nat) (page : PageAttr) : List Byte × State :=
  let line := pa / 128
  if (s.getCore c).ways.isEmpty then
    let s := s.l2Fill (dieOf c) (s.partOf (crewOf c)) line page
    (s.dieBytes (dieOf c) pa n, s)
  else
    let need := (List.range ((pa % 128 + n + 3) / 4 - pa % 128 / 4)).map (fun i => pa % 128 / 4 + i)
    let have_ := match afind (s.getCore c).l1 line with
      | some l => need.all (fun i => l.valid.getLsbD i)
      | none => false
    let r := s.l1Line c line page (!have_)
    ((r.1.data.drop (pa % 128)).take n, r.2.l1Put c line r.1)

/-- A cacheable write of a unit by a core. -/
def State.cachedWrite (s : State) (c pa : Nat) (bs : List Byte) (page : PageAttr) : State :=
  let line := pa / 128
  let d := dieOf c
  if (s.getCore c).ways.isEmpty then
    (s.l2Put d (s.partOf (crewOf c)) page false pa bs).notify (.phys pa false page) (some d) (some c)
  else
    let o := pa % 128
    let whole := bs.length % 4 = 0 && o % 4 = 0
    let hit := match afind (s.getCore c).l1 line with
      | some l => l.valid.getLsbD (o / 4)
      | none => false
    let r := s.l1Line c line page (!whole && !hit)
    let words := (List.range ((o + bs.length + 3) / 4 - o / 4)).foldl
      (fun (m : BitVec 32) i => m ||| (1#32 <<< (o / 4 + i))) 0#32
    (r.2.l1Put c line { r.1 with
      data := (List.range 128).map (fun i => if o ≤ i && i < o + bs.length then bs.getD (i - o) 0 else r.1.data.getD i 0),
      valid := r.1.valid ||| words, dirty := r.1.dirty ||| words }).l1Mark c line r.1 (wordsWithin o bs.length) false

/-- Whether a cacheable read by a core meets poison: in a word that its L1 holds, or in the line that fills it (27 R402). -/
def State.cachedBad (s : State) (c pa n : Nat) : Bool :=
  match afind (s.getCore c).l1 (pa / 128) with
  | none => s.memoryBad pa n false
  | some l => (wordsOver (pa % 128) n).any (fun w =>
      if l.valid.getLsbD w then s.l1Bad c (pa / 128) l w else s.memoryBad pa n false)

/-! Pages with MS: every access is performed at the home memory unit (12 R261). A write there carries what its die has
made or applied, so that an acquire after a read of it can wait for that (14 R278). -/

/-- Records what a write to a line of a page with MS comes after. -/
def State.msStamp (s : State) (pa : Nat) (v : List Nat) : State :=
  if s.inFlight = 0 then s
  else { s with
    msClock := aput (s.msClock.filter (fun x => !(s.everywhere x.2))) (pa / 128) (clockJoin (aget [] s.msClock (pa / 128)) v) }

/-- The context in focus has read such a line. -/
def State.msSeen (s : State) (pa : Nat) : State :=
  match afind s.msClock (pa / 128) with
  | some v => { s with ctx := { s.ctx with seen := clockJoin s.ctx.seen v } }
  | none => s

/-- Reads bytes of a page with MS, as the home memory unit holds them. Where a partition maps the page without MS too, which
values either mapping sees is open among those written (12 R262): here this one sees `mem`, and the other its L1's or its die's
bytes (DESIGN CHOICE, assumption log 82). -/
def State.msRead (s : State) (pa n : Nat) : List Byte × State := (agetN zeroByte s.mem pa n, s.msSeen pa)

/-- Writes bytes of a page with MS; the writer is a core, or none for the host. -/
def State.msWrite (s : State) (pa : Nat) (bs : List Byte) (writer : Option Nat) : State :=
  let v := match writer with
    | some c => (s.getDie (dieOf c)).clock
    | none => s.newest
  let l := Loc.phys pa true .none
  ((({ s with mem := asetN zeroByte s.mem pa bs }).msStamp pa v).setMarks (marksWithin pa bs.length true) false).notify l
    none writer

/-! Translation (24 R376 to R380). -/

/-- What an access needs of a leaf, and how the local window checks it. -/
inductive Acc where
  | load | store | amo | fullEmpty | ldff | object | drain | engineRead | engineWrite | fetch
  deriving DecidableEq, Repr

/-- The modes that admit an access (12 R243). -/
def BankMode.admits : BankMode → Acc → Bool
  | .scratch, _ => true
  | .cache, _ => false
  | .fifo, .load => true
  | .fifo, .ldff => true
  | .fifo, .drain => true
  | .fifo, .engineRead => true
  | .fifo, _ => false

/-- The permissions of a leaf allow an access (24 R377). -/
def leafAllows (e : Nat) : Acc → Bool
  | .load => e.testBit 2
  | .ldff => e.testBit 2
  | .engineRead => e.testBit 2
  | .store => e.testBit 3
  | .engineWrite => e.testBit 3
  | .drain => e.testBit 3
  | .fetch => e.testBit 4 && !e.testBit 5
  | _ => e.testBit 2 && e.testBit 3

/-- The levels of a walk: number, and the lowest address bit that indexes it. -/
def walkLevels : List (Nat × Nat) := [(4, 48), (3, 39), (2, 30), (1, 21), (0, 16)]

/-- A walk (24 R376, R377): a leaf's entry and the lowest page bit, or a cause. -/
def State.walk (s : State) (p va : Nat) (table : Nat) : List (Nat × Nat) → Except (BitVec 8) (Nat × Nat)
  | [] => .error cPAGE
  | (lv, sh) :: rest =>
    let i := va / 2 ^ sh % (if lv = 0 then 32 else 512)
    let e := ofBytes (agetN zeroByte s.mem (table + 8 * i) 8)
    let addr := e / 2 ^ 12 % 2 ^ 36 * 2 ^ 12
    if !e.testBit 0 then .error cPAGE
    else if e / 2 ^ 48 ≠ 0 || e / 2 ^ 9 % 8 ≠ 0 then .error cPROT
    else
      let leaf := e.testBit 1
      if (leaf && lv ≥ 3) || (!leaf && lv = 0) then .error cPROT
      else if leaf && addr % 2 ^ sh ≠ 0 then .error cPROT
      else if e / 2 ^ 8 % 2 ≠ tierOf addr then .error cPROT
      else if !(s.owns p addr) then .error cPROT
      else if leaf then
        if (s.getPart p).zeroing.any (fun z => z.1 < addr + 2 ^ sh && addr < z.1 + z.2) then .error cPAGE
        else .ok (e, sh)
      else s.walk p va addr rest

/-- A walk from the partition's root (24 R376, R385): a root outside its memory gives PROT (assumption log 78). -/
def State.walkRoot (s : State) (p va : Nat) : Except (BitVec 8) (Nat × Nat) :=
  let root := (s.getPart p).ptroot.toNat / 2 ^ 12 % 2 ^ 36 * 2 ^ 12
  if root = 0 then .error cPAGE
  else if !(s.owns p root) then .error cPROT
  else s.walk p va root walkLevels

/-- The key of a translation of page bits `sh` in a TLB. -/
def tlbKey (p va sh : Nat) : Nat := (va / 2 ^ sh * 64 + sh) * 32 + p

/-- Looks a translation up among the entries of a TLB. -/
def tlbFind (t : List (Nat × List Nat)) (p va : Nat) : Option (List Nat) :=
  match afind t (tlbKey p va 16) with
  | some x => some x
  | none => match afind t (tlbKey p va 21) with
    | some x => some x
    | none => afind t (tlbKey p va 30)

/-- Adds a translation, dropping one of the same partition when its part of the TLB is full. -/
def tlbAdd (cap : Nat) (t : List (Nat × List Nat)) (k : Nat) (x : List Nat) : List (Nat × List Nat) :=
  let t := aput t k x
  let mine := t.filter (fun e => e.1 % 32 = k % 32)
  if mine.length ≤ cap then t
  else match mine.find? (fun e => e.1 ≠ k) with
    | some e => adel t e.1
    | none => t

/-- A translation enters the core's own TLB, where the access uses it. -/
def State.coreTlb (s : State) (own : Bool) (p va e sh : Nat) : State :=
  { s with core := { s.core with tlb := if own then tlbAdd 256 s.core.tlb (tlbKey p va sh) [e, sh] else s.core.tlb } }

/-- A translation by the core in focus: the leaf's entry, the page bits, and the TLBs after it (24 R379, R380). `own` says
whether it goes through the core's own TLB: engines, riggers and stream readings use the die's alone. A fault enters no
TLB. -/
def State.lookup (s : State) (p va : Nat) (own : Bool) : Except (BitVec 8) ((Nat × Nat) × State) :=
  match if own then tlbFind s.core.tlb p va else none with
  | some [e, sh] => .ok ((e, sh), s)
  | _ =>
    let d := dieOf s.coreId
    match tlbFind (s.getDie d).tlb p va with
    | some [e, sh] =>
      .ok ((e, sh), s.coreTlb own p va e sh)
    | _ =>
      match s.walkRoot p va with
      | .error c => .error c
      | .ok (e, sh) =>
        let s := s.coreTlb own p va e sh
        let die := s.getDie d
        .ok ((e, sh), s.setDie d { die with tlb := tlbAdd (4096 * (s.berthsOn d p).length) die.tlb (tlbKey p va sh) [e, sh] })

/-- The local window (12 R242). -/
def lwin : Nat := 0xFFFFF00000000000

/-- Bits [63:57] equal bit [56] (07 R117, 24 R376). -/
def canonicalVA (va : Nat) : Bool := va / 2 ^ 56 = 0 || va / 2 ^ 56 = 0xFF

/-- A translated access: its physical address and the leaf's entry. -/
def State.translate (s : State) (p va : Nat) (acc : Acc) (own : Bool) : Except (BitVec 8) ((Nat × Nat) × State) :=
  if !(canonicalVA va) then .error cPROT
  else
    match s.lookup p va own with
    | .error c => .error c
    | .ok ((e, sh), s) =>
      if leafAllows e acc then
        .ok ((e / 2 ^ sh * 2 ^ sh % 2 ^ 48 + va % 2 ^ sh, e), s)
      else .error cPROT

/-! The bytes of views (19 R333, R335). -/

/-- Where a byte of a spilled view lies now: the physical address and its leaf; the views are reached by translation (19
R335). -/
def State.viewPlace (s : State) (p : Nat) (v : View) (i : Nat) (acc : Acc) : Option (Except (BitVec 8) ((Nat × Nat) × State)) :=
  (s.viewVA p v i).map (fun va => s.translate p va acc false)

/-- A byte of a view: its operator's identity until a byte is placed there, which a spilled view holds in the memory of
the partition (19 R335). -/
def State.viewByte (s : State) (p : Nat) (v : View) (i : Nat) : Byte :=
  match afind v.bytes i, s.viewPlace p v i .engineRead with
  | none, _ => v.desc.identity i
  | some _, some (.ok ((pa, e), _)) => if e.testBit 5 then aget zeroByte s.mem pa else s.dieByte (dieOf (4 * v.crew)) pa
  | some b, _ => b

/-- Places a byte of a view. -/
def State.viewPut (s : State) (p : Nat) (v : View) (i : Nat) (b : Byte) : State × View :=
  let w := { v with bytes := aput v.bytes i b }
  let d := dieOf (4 * v.crew)
  match s.viewPlace p v i .engineWrite with
  | some (.ok ((pa, e), s)) =>
    (if e.testBit 5 then s.msWrite pa [b] (some (4 * v.crew))
     else (s.l2Put d p ⟨e.testBit 7, e.testBit 6⟩ false pa [b]).notify (.phys pa false .none) (some d) (some (4 * v.crew)), w)
  | _ => (s, w)

/-! Poison of SRAM, and of units (27 R402). -/

/-- Where a byte of a spilled view lies that has been placed; none of a view in the pool. -/
def State.viewStore (s : State) (p : Nat) (v : View) (i : Nat) : Option (Nat × Bool) :=
  match afind v.bytes i, s.viewPlace p v i .engineRead with
  | some _, some (.ok ((pa, e), _)) => some (pa, e.testBit 5)
  | _, _ => none

/-- One of `n` bytes of a view is poisoned: by its own word, or in the memory behind it. -/
def State.viewBad (s : State) (p : Nat) (v : View) (i n : Nat) : Bool :=
  (wordsOver i n).any (fun w => aget false v.poison w) ||
    (!s.poison.isEmpty && (List.range n).any (fun k => (s.viewStore p v (i + k)).any (fun x => s.memoryBad x.1 1 x.2)))

/-- Marks `n` bytes of a view: in the memory behind it where it has spilled. -/
def State.viewTaint (s : State) (p : Nat) (v : View) (i n : Nat) : State × View :=
  match (List.range n).filterMap (fun k => s.viewStore p v (i + k)) with
  | [] => (s, { v with poison := (wordsOver i n).foldl (fun m w => aset false m w true) v.poison })
  | xs => (s.setMarks (xs.flatMap (fun x => marksOver x.1 1 x.2)) true, v)

/-- The marks of memory that single bytes together cover whole. -/
def coveredMarks (xs : List (Nat × Bool)) : List Nat :=
  (xs.filter (fun x =>
    let k := if x.2 then 32 else 128
    x.1 % k = 0 && (List.range k).all (fun i => xs.contains (x.1 + i, x.2)))).flatMap (fun x => marksOver x.1 1 x.2)

/-- A write of `n` bytes of a view clears what it covers whole. -/
def State.viewClean (s : State) (p : Nat) (v : View) (i n : Nat) : State × View :=
  let w := { v with poison := (wordsWithin i n).foldl (fun m k => aset false m k false) v.poison }
  if s.poison.isEmpty then (s, w)
  else (s.setMarks (coveredMarks ((List.range n).filterMap (fun k => s.viewStore p v (i + k)))) false, w)

/-- Places the identities of a blank view that has spilled, where its pages are mapped; a byte of another page is placed
when it is first written (19 R335; assumption log 80). -/
def State.viewBlank (s : State) (p : Nat) (v : View) : State × View :=
  if v.backing.isNone then (s, v)
  else
    let r := (List.range v.desc.len).foldl (fun r i => match r.1.viewPlace p r.2 i .engineWrite with
      | some (.ok _) => r.1.viewPut p r.2 i (v.desc.identity i)
      | _ => r) (s, v)
    r.1.viewClean p r.2 0 v.desc.len

/-- Words of a bank that carry a poison code, whatever views the task in focus holds. -/
def State.bankBad (s : State) (c o n : Nat) : Bool :=
  (wordsOver o n).any (fun w => aget false (s.getCore c).poison w)
def State.markBank (s : State) (c o n : Nat) : State :=
  let co := s.getCore c
  s.setCore c { co with poison := (wordsOver o n).foldl (fun m w => aset false m w true) co.poison }

/-- Words of a bank lose their poison codes. -/
def State.cleanBank (s : State) (c : Nat) (ws : List Nat) : State :=
  let co := s.getCore c
  if co.poison.isEmpty then s else s.setCore c { co with poison := ws.foldl (fun m w => aset false m w false) co.poison }
/-- The poison code of a word of a bank becomes b. -/
def State.setBank (s : State) (c w : Nat) (b : Bool) : State :=
  let co := s.getCore c
  s.setCore c { co with poison := aset false co.poison w b }

/-- The bytes of a unit that lie in no view (19 R334). -/
def State.bankParts (s : State) (c o n : Nat) : List Nat :=
  ((List.range n).map (fun i => o + i)).filter (fun x => (s.viewAt c x).isNone)

/-- One of `n` bytes of SRAM, or of the views of the task in focus that stand in its place, is poisoned. -/
def State.sramBad (s : State) (c o n : Nat) : Bool :=
  if s.ctx.views.isEmpty then s.bankBad c o n
  else (s.bankParts c o n).any (fun x => s.bankBad c x 1) ||
    (s.viewHits c o n).any (fun x => (afind s.ctx.views x.1).any (fun v => s.viewBad s.myPart v x.2 1))

/-- Whether one of `n` bytes lies in poisoned storage: SRAM, or memory as the dies hold it. -/
def State.poisoned (s : State) (l : Loc) (n : Nat) : Bool :=
  match l with
  | .sram c o => s.sramBad c o n
  | .phys a ms _ => s.memoryBad a n ms

/-- Whether a read of `n` bytes by core `c` meets poison: of cacheable memory, in its L1 or below it (12 R249). -/
def State.readBad (s : State) (c : Nat) (l : Loc) (n : Nat) : Bool :=
  match l with
  | .phys a false _ => s.cachedBad c a n
  | l => s.poisoned l n

/-- The first poisoned place of `n` bytes: a physical address, or the byte of SRAM counted through the cores (27 R404;
assumption log 59). -/
def State.poisonPlace (s : State) (l : Loc) (n : Nat) : Word :=
  match l with
  | .sram c o => BitVec.ofNat 64 (0x100000 * c + 4 * ((wordsOver o n).find? (fun w => s.sramBad c (4 * w) 4)).getD (o / 4))
  | .phys a ms _ => BitVec.ofNat 64 (32 * ((marksOver a n ms).find? (aget false s.poison)).getD (a / 32))

/-- Marks the storage of `n` bytes. -/
def State.setPoison (s : State) (l : Loc) (n : Nat) : State :=
  match l with
  | .phys a ms _ => s.setMarks (marksOver a n ms) true
  | .sram c o =>
    if s.ctx.views.isEmpty then s.markBank c o n
    else
      let s := (s.bankParts c o n).foldl (fun s x => s.markBank c x 1) s
      (s.viewHits c o n).foldl (fun s x => match afind s.ctx.views x.1 with
        | some v => let r := s.viewTaint s.myPart v x.2 1; r.1.modView x.1 (fun _ => r.2)
        | none => s) s

/-- A write clears the poison of the words, lines or codewords that it covers whole; a partial write keeps it. -/
def State.cleanPoison (s : State) (l : Loc) (n : Nat) : State :=
  match l with
  | .phys a ms _ => s.setMarks (marksWithin a n ms) false
  | .sram c o =>
    if s.ctx.views.isEmpty then s.cleanBank c (wordsWithin o n)
    else
      let s := s.cleanBank c ((wordsWithin o n).filter (fun w => (s.viewAt c (4 * w)).isNone))
      -- the indices of a view that the bytes cover run upward from the first
      ((s.viewHits c o n).map Prod.fst).eraseDups.foldl (fun s k =>
        let is := ((s.viewHits c o n).filter (fun x => x.1 = k)).map Prod.snd
        match afind s.ctx.views k with
        | some v => let r := s.viewClean s.myPart v (is.headD 0) is.length; r.1.modView k (fun _ => r.2)
        | none => s) s

/-! Local SRAM (12 R242 to R245). -/

/-- The mode of the bank that holds an offset. -/
def Core.modeAt (c : Core) (off : Nat) : BankMode := aget .scratch c.bankMode (off / 0x8000)

/-- A byte of SRAM as the task in focus reads it. -/
def State.sramByte (s : State) (c off : Nat) : Byte :=
  match s.viewAt c off with
  | some (v, i) => ((afind s.ctx.views v).map (fun w => s.viewByte s.myPart w i)).getD 0
  | none => aget zeroByte (s.getCore c).sram off

def State.sramBytes (s : State) (c off : Nat) : Nat → List Byte
  | 0 => []
  | n + 1 => s.sramByte c off :: s.sramBytes c (off + 1) n

/-- Writes a byte of SRAM; the full/empty bit of its word becomes full in a scratchpad bank (12 R245). -/
def State.sramPut (s : State) (c off : Nat) (b : Byte) : State :=
  match s.viewAt c off with
  | some (v, i) => match afind s.ctx.views v with
    | some w =>
      let r := s.viewPut s.myPart w i b
      r.1.modView v (fun _ => { r.2 with written := aput w.written (i / (typeWidth w.desc.type / 8)) true })
    | none => s
  | none =>
    let co := s.getCore c
    s.setCore c { co with
      sram := aset zeroByte co.sram off b,
      fe := if co.modeAt off = .scratch then aset false co.fe (off / 4) true else co.fe }

/-- Writes bytes of the banks themselves, whatever views the task in focus holds. -/
def State.bankWrite (s : State) (c off : Nat) (bs : List Byte) (writer : Option Nat) : State :=
  let co := s.getCore c
  let s := s.setCore c { co with
    sram := asetN zeroByte co.sram off bs,
    fe := if co.modeAt off = .scratch then
        (List.range ((off + bs.length + 3) / 4 - off / 4)).foldl (fun m i => aset false m (off / 4 + i) true) co.fe
      else co.fe,
    poison := (wordsWithin off bs.length).foldl (fun m w => aset false m w false) co.poison }
  s.notify (.sram c off) none writer

/-- Writes bytes of SRAM from an offset upward; what falls into views of the task in focus is seen by it alone (19
R334). -/
def State.sramWrite (s : State) (c off : Nat) (bs : List Byte) (writer : Option Nat) : State :=
  let s := ((List.range bs.length).zip bs).foldl (fun s p => s.sramPut c (off + p.1) p.2) s
  let s := s.cleanPoison (.sram c off) bs.length
  match (List.range bs.length).find? (fun i => (s.viewAt c (off + i)).isNone) with
  | some i => s.notify (.sram c (off + i)) none writer
  | none => s

/-! Units (12 R242). -/

/-- Reads a unit, as core `c`. -/
def State.readUnit (s : State) (c : Nat) (l : Loc) (n : Nat) : List Byte × State :=
  match l with
  | .sram k o => (s.sramBytes k o n, s)
  | .phys a true _ => s.msRead a n
  | .phys a false page => s.cachedRead c a n page

/-- Writes a unit, as core `c`. -/
def State.writeUnit (s : State) (c : Nat) (l : Loc) (bs : List Byte) : State :=
  match l with
  | .sram k o => s.sramWrite k o bs (some c)
  | .phys a true _ => s.msWrite a bs (some c)
  | .phys a false page => s.cachedWrite c a bs page

/-- A place in the local window: core and offset, or PROT (12 R242). The window is made of MiB: the first is the core's
own, the fifth to the eighth are its crew's. -/
def localPlace (core va : Nat) : Option (Nat × Nat) :=
  let m := va / 0x100000
  if 0xC0000 ≤ va % 0x100000 then none
  else if m = 0xFFFFF000000 then some (core, va % 0x100000)
  else if 0xFFFFF000004 ≤ m && m < 0xFFFFF000008 then some (crewOf core * 4 + m % 4, va % 0x100000)
  else none

/-- An access of a context, not of an engine, a rigger or a stream: it uses its core's TLB (24 R379). -/
def ownTlb (acc : Acc) (kind : FaultKind) : Bool := kind ≠ 4 && acc ≠ .engineRead && acc ≠ .engineWrite

/-- The bytes of spilled views are reached by translation (19 R335). -/
def State.reachViews (s : State) (acc : Acc) (kind : FaultKind) : List (Nat × Nat) → Except Stop State
  | [] => .ok s
  | (v, i) :: t =>
    match (afind s.ctx.views v).bind (fun w => s.viewVA s.myPart w i) with
    | none => s.reachViews acc kind t
    | some at_ =>
      match s.translate s.myPart at_ acc (ownTlb acc kind) with
      | .error c => .error (.host c (BitVec.ofNat 64 at_) kind none)
      | .ok (_, s) => s.reachViews acc kind t

/-- Where a unit of `n` bytes at a virtual address lies, for the core in focus (10 R193, 12 R242, R243).
`kind` is the host fault kind of a translation's fault. -/
def State.resolve (s : State) (va : Word) (n : Nat) (acc : Acc) (kind : FaultKind) :
    Except Stop (Loc × State) :=
  let a := va.toNat
  if lwin ≤ a then
    match localPlace s.coreId a with
    | none => .error (trap cPROT)
    | some (c, o) =>
      if o / 0x8000 ≠ (o + n - 1) / 0x8000 then .error (trapR cALIGN [va])
      else
        let hits := s.viewHits c o n
        -- what lies outside the views of the task answers to the bank's mode (19 R334)
        if hits.length < n && !(((s.getCore c).modeAt o).admits acc) then .error (trap cPROT)
        else if !hits.isEmpty && (acc = .fullEmpty || acc = .ldff || acc = .object) then .error (trap cPROT)
        else match s.reachViews acc kind hits with
          | .error e => .error e
          | .ok s => .ok (.sram c o, s)
  else
    match s.translate s.myPart a acc (ownTlb acc kind) with
    | .error c => .error (.host c va kind none)
    | .ok ((pa, e), s) => .ok (.phys pa (e.testBit 5) ⟨e.testBit 7, e.testBit 6⟩, s)

/-- A load of a FIFO bank finds its slots ready (13 R272). -/
def State.slotsReady (s : State) (l : Loc) (n : Nat) : Bool :=
  match l with
  | .phys _ _ _ => true
  | .sram c o =>
    let co := s.getCore c
    if co.modeAt o ≠ .fifo || (s.viewHits c o n).length = n then true
    else
      co.rings.all (fun r =>
        let lo := r.2.first * 0x8000
        (List.range r.2.slots.length).all (fun j =>
          let b := lo + j * r.2.slotBytes
          !(b < o + n && o < b + r.2.slotBytes) ||
            (match r.2.slots.getD j .free with
              | .full => true
              | .done => true
              | _ => false)))

end Sys2Proof.Machine
end

