-- ==== Sys2Proof/Machine/Operands.lean ====
section
/-! DEFINITION. Operand forms: scalar and address registers and the queue port (03 R57, R58), vector and tile
windows (03 R54, R55), the two modes' loop stacks and histories (03 R63, 07 R121), and the increments of
repeats (04 R70, R71). -/

namespace Sys2Proof.Machine

/-- The registers as the bundle in issue reads them (04 R72). -/
def State.rd (s : State) : Regs := (s.latch.map Prod.fst).getD s.ctx.r

/-- Updates the pending work of the context in focus. -/
def State.modPend (s : State) (f : Pending → Pending) : State :=
  { s with ctx := { s.ctx with pend := f s.ctx.pend } }

/-- Updates the registers of the context in focus. -/
def State.modRegs (s : State) (f : Regs → Regs) : State := { s with ctx := { s.ctx with r := f s.ctx.r } }

/-- Updates the control registers of the context in focus. -/
def State.modCtrl (s : State) (f : CtrlRegs → CtrlRegs) : State :=
  { s with ctx := { s.ctx with cr := f s.ctx.cr } }

/-- Pops a scalar entry of LDQ: an empty queue blocks, a vector entry raises QORDER (03 R57). -/
def State.popScalar (s : State) (slot : Nat) : Except Stop (Word × State) :=
  match s.ctx.pend.ldq with
  | [] => .error .block
  | .scalar v :: t => .ok (v, s.modPend (fun p => { p with ldq := t }))
  | .vector _ _ :: _ => .error (trapSlot cQORDER slot)

/-- Which kind of SDQ entry each pending store claims, oldest first: true for a vector entry (10 R195). -/
def StoreOp.claims (o : StoreOp) : List Bool :=
  match o.kind with
  | .queue n => List.replicate n false
  | .vector _ n => List.replicate n true
  | _ => []

def Pending.claims (p : Pending) : List Bool := (p.stq.map StoreOp.claims).flatten

/-- Pushes an SDQ entry: a full queue blocks, and a kind that its claimant does not take raises QORDER (10
R195). -/
def State.pushSdq (s : State) (slot : Nat) (e : SdqEntry) : Except Stop State :=
  let p := s.ctx.pend
  if p.sdq.length ≥ 64 then .error .block
  else match p.claims[p.sdq.length]? with
    | some k => if k = e.isVector then .ok (s.modPend (fun p => { p with sdq := p.sdq ++ [e] }))
        else .error (trapSlot cQORDER slot)
    | none => .ok (s.modPend (fun p => { p with sdq := p.sdq ++ [e] }))

/-- Reads a scalar register; s0 is 0 and s62 pops LDQ (03 R57). -/
def State.readS (s : State) (slot : Nat) (n : BitVec 6) : Except Stop (Word × State) :=
  if n = 0 then .ok (0, s)
  else if n = 62 then s.popScalar slot
  else .ok (aget 0 s.rd.s n.toNat, s)

/-- Writes a scalar register that is not the queue port. -/
def State.setS (s : State) (n : Nat) (v : Word) : State :=
  if n = 0 then s else s.modRegs (fun r => { r with s := aset 0 r.s n v })

/-- Writes a scalar register; s0 discards and s62 pushes SDQ (03 R57). -/
def State.writeS (s : State) (slot : Nat) (n : BitVec 6) (v : Word) : Except Stop State :=
  if n = 0 then .ok s
  else if n = 62 then s.pushSdq slot ⟨false, 0, some (.scalar v)⟩
  else .ok (s.setS n.toNat v)

/-- Reads an address register; in HANDLER mode a0 is the handler base (23 R358). -/
def State.readA (s : State) (n : BitVec 4) : Word :=
  if n = 0 && s.ctx.mode = .handler then s.rd.handlerBase else aget 0 s.rd.a n.toNat

/-- The field widths of VWIN and TWIN (03 R54). -/
def vwinBase (w : Word) : Nat := 32 * fld w.toNat 5 5
def vwinSize (w : Word) : Nat := 32 * fld w.toNat 0 5
def twinBase (w : Word) : Nat := fld w.toNat 5 5
def twinCount (w : Word) : Nat := fld w.toNat 0 5

/-- The physical register of a vector register code (03 R54, R55). -/
def State.vphys (s : State) (n : Nat) : Except Stop Nat :=
  if n < vwinSize s.ctx.cr.vwin then .ok (vwinBase s.ctx.cr.vwin + n)
  else .error (trapR cVWIN [BitVec.ofNat 64 n])

/-- The physical tile of a tile number (03 R54, R55). -/
def State.tphys (s : State) (n : Nat) : Except Stop Nat :=
  if n < twinCount s.ctx.cr.twin then .ok (twinBase s.ctx.cr.twin + n)
  else .error (trapR cVWIN [BitVec.ofNat 64 n])

/-- A physical vector register. -/
def State.getV (s : State) (n : Nat) : VReg := aget 0 s.core.vregs n
/-- Writes the masked bits of a physical vector register. -/
def State.putV (s : State) (n : Nat) (v m : VReg) : State :=
  { s with core := { s.core with vregs := aset 0 s.core.vregs n ((s.getV n &&& ~~~m) ||| (v &&& m)) } }

/-- The loop stack of the running mode (07 R121). -/
def Ctx.loopsNow (c : Ctx) : Loops := if c.mode = .handler then c.loopsHandler else c.loops
def Ctx.setLoops (c : Ctx) (l : Loops) : Ctx :=
  if c.mode = .handler then { c with loopsHandler := l } else { c with loops := l }
/-- A loop stack that has emptied keeps no record (07 R118). -/
def Loops.tidy (l : Loops) : Loops := if l.levels.isEmpty then ⟨[], []⟩ else l
/-- The slot history of the running mode (03 R63). -/
def Ctx.histNow (c : Ctx) : List (Nat × Instr) := if c.mode = .handler then c.histHandler else c.hist
def Ctx.setHist (c : Ctx) (h : List (Nat × Instr)) : Ctx :=
  if c.mode = .handler then { c with histHandler := h } else { c with hist := h }

/-- The control registers as the bundle in issue reads them (07 R140). -/
def State.crd (s : State) : CtrlRegs := (s.latch.map (fun l => l.2.1)).getD s.ctx.cr
/-- The loop levels as the bundle in issue reads them. -/
def State.levels (s : State) : List LoopLevel := (s.latch.map (fun l => l.2.2)).getD s.ctx.loopsNow.levels
/-- The loop indices i0 to i5 (07 R122). -/
def State.index (s : State) (k : Nat) : Word := ((s.levels[k]?).map LoopLevel.index).getD 0
def State.indices (s : State) : List Word := (List.range 6).map s.index

/-- The PC of the sequential bundle stands in npc; a transfer writes it (07 R115). -/
def State.jump (s : State) (t : Word) : State :=
  { s with ctx := { s.ctx with npc := t, xferFrom := s.ctx.pc } }

/-- The amount a two-bit increment code adds: 0, +1, +2, −1 (04 R70). -/
def codeInc (c : BitVec 2) : BitVec 7 :=
  match c.toNat with
  | 0 => 0
  | 1 => 1
  | 2 => 2
  | _ => -1

/-- Increment × access size, for the offset of an AQ form (04 R70). -/
def aqInc (off : BitVec 16) (inc : BitVec 4) (size : BitVec 3) : BitVec 16 :=
  off + (inc.signExtend 16 <<< size.toNat)

/-- The encoding that a repeat executes: increments added to their target fields (04 R70, R71). -/
def Instr.repeated : Instr → Instr
  | .ldq an inc size off => .ldq an inc size (aqInc off inc size)
  | .stq an inc size off => .stq an inc size (aqInc off inc size)
  | .marm an inc size off => .marm an inc size (aqInc off inc size)
  | .pref an inc size off => .pref an inc size (aqInc off inc size)
  | .ldfe an inc off => .ldfe an inc (aqInc off inc 2)
  | .ldff an inc off => .ldff an inc (aqInc off inc 2)
  | .stef an inc off => .stef an inc (aqInc off inc 2)
  | .vldq an ss ff off inc => .vldq an ss ff (off + inc.signExtend 9) inc
  | .vstq an ss off inc => .vstq an ss (off + inc.signExtend 9) inc
  | .vgathq an sb ff vi mode inc => .vgathq an sb ff (vi + inc.signExtend 9) mode inc
  | .vscatq an sb ff vi mode inc => .vscatq an sb ff (vi + inc.signExtend 9) mode inc
  | .mbeat p s a w tile row acc arow inc ainc =>
    .mbeat p s a w tile (row + inc.signExtend 7) acc (arow + codeInc ainc) inc ainc
  | .mdrain acc row sram t drow clr ls inc dinc =>
    .mdrain acc (row + inc.signExtend 7) sram t (drow + codeInc dinc) clr ls inc dinc
  | .mdrainOfold acc row sram t clr ls inc => .mdrainOfold acc (row + inc.signExtend 7) sram t clr ls inc
  | .ldt t an row blk size inc => .ldt t an (row + inc.signExtend 7) blk size inc
  | i => i

end Sys2Proof.Machine
end

