-- ==== Sys2Proof/Machine/Flags.lean ====
section
/-! DEFINITION. Flag computations: the sticky STAT flags (02 R47, 03 R60), the refusals of the format
registers (02 R24, R38; 03 R60; 07 R141), and the conditions of BC (06 R102). -/

namespace Sys2Proof.Machine

/-- ORs raised flags into STAT. -/
def Regs.raise (r : Regs) (f : Flags) : Regs := { r with stat := r.stat ||| f.zeroExtend 64 }

/-- ORs raised flags into the STAT of the context in focus. -/
def State.raise (s : State) (f : Flags) : State := if f = 0 then s else s.modRegs (fun r => r.raise f)

/-- A value that FMT accepts (02 R24, R38). -/
def fmtOk (v : Nat) : Bool :=
  fld v 13 13 = 0 && fld v 9 3 ≤ 4 && fld v 5 3 ≤ 5 &&
  (match elemTypeOf (fld v 0 5) with
    | none => false
    | some .i64 => false
    | some .b4 => false
    | some .b6 => false
    | some _ => true)

/-- An array format pair, A then B (02 R46). -/
def pairOk (a b : Nat) : Bool :=
  (a ≤ 1 && b ≤ 1) ||
  ((a = 8 || a = 9) && (b = 8 || b = 9 || b = 0x10)) ||
  (a = 0x10 && (b = 8 || b = 9 || b = 0x10)) ||
  (a = 0xA && b = 0xA) || (a = 0xB && b = 0xB)

/-- A value that MFP0 and MFP1 accept (03 R60, 07 R141). -/
def mfpOk (v : Nat) : Bool := v / 1024 = 0 && pairOk (fld v 0 5) (fld v 5 5)

/-- A value that TSHAPEn accepts (02 R24, 03 R60). -/
def tshapeOk (v : Nat) : Bool :=
  let rows := fld v 5 7 + 1
  let cols := fld v 12 8 + 1
  v / 2 ^ 20 = 0 && cols ≤ 128 &&
  (match elemTypeOf (fld v 0 5) with
    | none => false
    | some .i64 => false
    | some .b6 => false
    | some .dyn => false
    | some .b4 => rows * ((cols + 1) / 2) + rows * ((cols + 31) / 32) ≤ 16384
    | some _ => rows * cols * (typeWidth (fld v 0 5) / 8) ≤ 16384)

/-- A value that SETVL accepts (07 R142). -/
def vtypeOk (v : Nat) : Bool := fld v 11 3 ≤ 2 && fld v 8 3 ≤ 3 && fld v 0 5 = 0

/-- SEW in bits, LMUL in registers, and VLMAX (07 R142). -/
def sewBits (vtype : Word) : Nat := 8 * 2 ^ fld vtype.toNat 11 3
def lmulRegs (vtype : Word) : Nat := 2 ^ fld vtype.toNat 8 3
def vlmax (vtype : Word) : Nat := 4096 / sewBits vtype * lmulRegs vtype

/-- The conditions of BC (06 R102). -/
def bcTaken (cond : BitVec 4) (x : Word) : Bool :=
  match cond.toNat with
  | 0 => x = 0
  | 1 => x ≠ 0
  | 2 => x.slt 0
  | 3 => !(x.slt 0)
  | 4 => !(x.slt 0) && x ≠ 0
  | _ => x.slt 0 || x = 0

/-- The float column of DYN, and its integer columns (02 R25). -/
def dynFloat (vtype : Word) : Nat :=
  match fld vtype.toNat 11 3, vtype.getLsbD 5 with
  | 0, false => 0x08
  | 0, true => 0x09
  | 1, false => 0x0A
  | 1, true => 0x0B
  | _, _ => 0x0C
def dynInt (vtype : Word) (signed : Bool) : Nat :=
  2 * min 2 (fld vtype.toNat 11 3) + (if signed then 0 else 1)

end Sys2Proof.Machine
end

