-- ==== Sys2Proof/Machine/Tiles.lean ====
section
/-! DEFINITION. Tiles: shapes, byte images and the conversions between tiles and vector registers (09 R172,
R173, R178). -/

namespace Sys2Proof.Machine

/-- A tile's shape (03 R60). -/
structure Shape where
  rows : Nat
  cols : Nat
  type : Nat
  deriving DecidableEq, Repr

/-- A shape, from the value of a TSHAPE register. -/
def shapeOf (v : Word) : Shape :=
  { rows := fld v.toNat 5 7 + 1, cols := fld v.toNat 12 8 + 1, type := fld v.toNat 0 5 }

/-- The value of TSHAPEn. -/
def State.tshape (s : State) (n : Nat) : Word := (afind s.crd.tshape n).getD 0x7FFE0

/-- The shape of tile tn. -/
def State.shape (s : State) (n : Nat) : Shape := shapeOf (s.tshape n)

/-- The pitches of the code plane and of the scale plane (09 R172). -/
def Shape.pitch (h : Shape) : Nat := (h.cols * typeWidth h.type + 7) / 8
def Shape.scalePitch (h : Shape) : Nat := (h.cols + 31) / 32

/-- A byte of a tile's image, of all tiles of the core. -/
def tileByte (t : List (Nat × Byte)) (phys b : Nat) : Byte := aget zeroByte t (phys * 16384 + b)

/-- The code of element (i, c) of a tile image (09 R172). -/
def tileCode (t : List (Nat × Byte)) (phys : Nat) (h : Shape) (i c : Nat) : Nat :=
  let w := typeWidth h.type
  let b := i * h.pitch + c * w / 8
  if w = 4 then (tileByte t phys b).toNat / 16 ^ (c % 2) % 16
  else ofBytes ((List.range (w / 8)).map (fun k => tileByte t phys (b + k)))

/-- The scale byte of the block of column c in row i (09 R172). -/
def tileScale (t : List (Nat × Byte)) (phys : Nat) (h : Shape) (i c : Nat) : Nat :=
  (tileByte t phys (h.rows * h.pitch + i * h.scalePitch + c / 32)).toNat

/-- Bytes that a row of codes (and scales, for B4) writes, as bytes of the core's tile store. Of an odd number of B4
codes, the unused half of the last byte becomes 0 (DESIGN CHOICE, log 72: 09 R178 copies codes and scales only). -/
def rowBytes (t : List (Nat × Byte)) (phys : Nat) (h : Shape) (i : Nat) (codes scales : List Nat) :
    List (Nat × Byte) :=
  let w := typeWidth h.type
  let base := phys * 16384 + i * h.pitch
  let codeBytes :=
    if w = 4 then (List.range ((codes.length + 1) / 2)).map (fun k =>
      let hi := match codes[2 * k + 1]? with
        | some x => x
        | none => if h.type = 0x10 then 0 else (tileByte t phys (i * h.pitch + k)).toNat / 16
      (base + k, BitVec.ofNat 8 (codes.getD (2 * k) 0 % 16 + 16 * (hi % 16))))
    else
      ((List.range codes.length).map (fun c =>
        ((List.range (w / 8)).zip (toBytes (codes.getD c 0) (w / 8))).map (fun p =>
          (base + c * (w / 8) + p.1, p.2)))).flatten
  let sb := phys * 16384 + h.rows * h.pitch + i * h.scalePitch
  codeBytes ++ (if w = 4 then (List.range scales.length).map (fun j =>
    (sb + j, BitVec.ofNat 8 (scales.getD j 0))) else [])

/-- Element c of a register read at width w (08 R146). -/
def velem (v : VReg) (w c : Nat) : Nat := v.toNat / 2 ^ (w * c) % 2 ^ w

/-- A register from its elements of width w, lowest first. -/
def vofElems (w : Nat) (xs : List Nat) : VReg :=
  BitVec.ofNat 4096 (xs.foldr (fun x a => x % 2 ^ w + 2 ^ w * a) 0)

/-- The vector type of an X move: FMT.VET, DYN resolved for a tile type (09 R173). -/
def vetFor (fmt vtype : Word) (tile : Nat) : Nat :=
  let v := fld fmt.toNat 0 5
  if v = 0x1F then
    match typeClass tile with
    | some (.int t) => dynInt vtype t.signed
    | _ => dynFloat vtype
  else v

/-- FMT.RM and FMT.SAT. -/
def fmtRm (fmt : Word) : Nat := fld fmt.toNat 5 3
def fmtSat (fmt : Word) : Bool := fmt.getLsbD 8
/-- FMT.BT4. -/
def fmtBt4 (fmt : Word) : Nat := fld fmt.toNat 9 3

/-- The lane that holds element c of a register of width w (02 R37). -/
def laneOf (w c : Nat) : Nat := c * w / 32

/-- Conversion of one element from a tile's type to a scalar type (09 R173). -/
def fromTile (h : Shape) (code scale : Nat) (dst : TypeClass) (fmt : Word) (r : Rng) (lane : Nat) : Rounded :=
  match typeClass h.type with
  | some (.block b) => decodeBlockTo b dst (fmtRm fmt) (fmtSat fmt) scale code r lane
  | some src => convert src dst (fmtRm fmt) (fmtSat fmt) code r lane
  | none => (0, 0, r)

/-- Converts a list of elements in ascending order. -/
def convList (f : Nat → Rng → Rounded) : List Nat → Rng → List Nat × Flags × Rng
  | [], r => ([], 0, r)
  | x :: t, r =>
    let c := f x r
    let y := convList f t c.2.2
    (c.1 :: y.1, c.2.1 ||| y.2.1, y.2.2)

/-- Encodes a row of exact values, each with its lane, into a tile's type: codes, scales, flags (09 R173). -/
def toTileRow (h : Shape) (fmt : Word) (vals : List (FVal × Bool × Nat)) (r : Rng) :
    List Nat × List Nat × Flags × Rng :=
  match typeClass h.type with
  | some (.block _) =>
    (List.range ((vals.length + 31) / 32)).foldl (fun acc j =>
      let xs := (List.range 32).map (fun i => match vals[32 * j + i]? with
        | some (v, _, lane) => (some v, lane)
        | none => (none, 0))
      let b := encodeBlock 4 (fmtBt4 fmt) (fmtRm fmt) (fmtSat fmt) xs acc.2.2.2
      (acc.1 ++ b.2.1.take (min 32 (vals.length - 32 * j)), acc.2.1 ++ [b.1], acc.2.2.1 ||| b.2.2.1, b.2.2.2))
      ([], [], 0, r)
  | some dst =>
    let x := convList (fun c r => match vals[c]? with
      | some (v, isInt, lane) => convertTo dst isInt (fmtRm fmt) (fmtSat fmt) v r lane
      | none => (0, 0, r)) (List.range vals.length) r
    (x.1, [], x.2.1, x.2.2)
  | none => ([], [], 0, r)

/-- The class of a type is an integer. -/
def isIntType (t : Nat) : Bool :=
  match typeClass t with
  | some (.int _) => true
  | _ => false

/-- The generators of a context, as a value. -/
def State.rng (s : State) : Rng := ⟨s.ctx.genSeed, s.coreId, s.ctx.gens⟩
/-- Writes the generators back. -/
def State.setRng (s : State) (r : Rng) : State := { s with ctx := { s.ctx with gens := r.drawn } }

end Sys2Proof.Machine
end

