-- ==== Sys2Proof/Machine/VectorUnit.lean ====
section
/-! DEFINITION. The vector unit: what a horizontal control word means and what an executed entry computes
(04 R80 to R82, 06 R107 and R108, 08 R144 to R169), as pure functions of captured operands. -/

namespace Sys2Proof.Machine

/-- A field of an HCW. -/
def hf (e : BitVec 256) (lo n : Nat) : Nat := fld e.toNat lo n

/-- The fields of an HCW (04 R80). -/
structure Hcw where
  opa : Nat
  opb : Nat
  opc : Nat
  src : List Nat
  dst : Nat
  mreg : Nat
  men : Bool
  mpo : Bool
  tpo : Bool
  et : Nat
  rnd : Nat
  satb : Bool
  lge : Nat
  imm : Nat
  bsel : Bool
  csel : Bool
  deriving DecidableEq, Repr

/-- Reads the fields of an HCW. -/
def hcwOf (e : BitVec 256) : Hcw :=
  { opa := hf e 248 8, opb := hf e 240 8, opc := hf e 232 8,
    src := [hf e 223 9, hf e 214 9, hf e 205 9, hf e 196 9], dst := hf e 187 9, mreg := hf e 184 3,
    men := e.getLsbD 183, mpo := e.getLsbD 182, tpo := e.getLsbD 181, et := hf e 176 5, rnd := hf e 173 3,
    satb := e.getLsbD 172, lge := hf e 164 8, imm := hf e 148 16, bsel := e.getLsbD 147,
    csel := e.getLsbD 146 }

/-- Operands that a stage opcode takes; 0 when it is unassigned (06 R107). -/
def opArity (op : Nat) : Nat :=
  if op = 0x13 || op = 0x14 || op = 0x23 || op = 0x24 || op = 0x70 then 3
  else if op = 0 || op = 7 || op = 0x15 || op = 0x16 || op = 0x27 || op = 0x28 ||
    (0x2C ≤ op && op ≤ 0x31) || op = 0x33 || op = 0x40 || op = 0x41 || (0x55 ≤ op && op ≤ 0x57) ||
    op = 0x59 || (0x63 ≤ op && op ≤ 0x65) then 1
  else if (1 ≤ op && op ≤ 0x16) || (0x20 ≤ op && op ≤ 0x32) || op = 0x42 || (0x50 ≤ op && op ≤ 0x58) ||
    (0x60 ≤ op && op ≤ 0x62) then 2
  else 0

/-- The fields that are read: SA always, the others by what the stages take (04 R81). -/
def Hcw.reads (h : Hcw) : List Bool :=
  [true, opArity h.opa ≥ 2,
    opArity h.opa = 3 || (!h.bsel && opArity h.opb ≥ 2),
    (h.bsel && opArity h.opb ≥ 2) || (!h.csel && opArity h.opc ≥ 2)]

/-- An entry that a load does not mark bad (04 R82). -/
def hcwOk (e : BitVec 256) : Bool :=
  let h := hcwOf e
  hf e 0 146 = 0 && opArity h.opa ≠ 0 && opArity h.opb ≠ 0 && opArity h.opc ≠ 0 &&
  (h.src.zip h.reads).all (fun p => !p.2 || !(388 ≤ p.1 && p.1 ≤ 447)) &&
  (h.dst ≤ 384 || h.dst = 386) &&
  (match elemTypeOf h.et with
    | none => false
    | some .i64 => false
    | some _ => true) && h.rnd ≤ 5

/-- A stage of the float column of DYN (02 R25). -/
def isFloatStage (op : Nat) : Bool := 0x20 ≤ op && op ≤ 0x33
def isReduction (op : Nat) : Bool := 0x55 ≤ op && op ≤ 0x57
def isConversion (op : Nat) : Bool := 0x40 ≤ op && op ≤ 0x42

/-- DYN resolved for a stage (02 R25, 08 R153). -/
def resolveType (vtype : Word) (op et : Nat) : Nat :=
  if et = 0x1F then
    if isFloatStage op || isReduction op || isConversion op then dynFloat vtype
    else dynInt vtype !(op = 0x0E || op = 0x15 || op = 0x16)
  else et

/-- The three stages, and the place of the conversion stage. -/
def Hcw.ops (h : Hcw) : List Nat := [h.opa, h.opb, h.opc]
def Hcw.convAt (h : Hcw) : Option Nat := h.ops.findIdx? isConversion

/-- The working type of stage i: of its result, and of its operands (08 R153). -/
def Hcw.outType (h : Hcw) (vtype : Word) (i : Nat) : Nat :=
  match h.convAt with
  | none => resolveType vtype (h.ops.getD i 0) h.et
  | some j =>
    if i < j then (if h.ops.getD j 0 = 0x41 then 0x0C else h.imm % 32)
    else resolveType vtype (h.ops.getD i 0) h.et
def Hcw.inType (h : Hcw) (vtype : Word) (i : Nat) : Nat :=
  match h.convAt with
  | none => h.outType vtype i
  | some j => if i = j then (if h.ops.getD j 0 = 0x41 then 0x0C else h.imm % 32) else h.outType vtype i

/-- ET after DYN resolution, as lane groups see it: FP32 for CVTB (08 R146). -/
def Hcw.laneType (h : Hcw) (vtype : Word) : Nat :=
  if h.ops.contains 0x41 then 0x0C else if h.et = 0x1F then dynFloat vtype else h.et

/-- EMUL, in registers: 0 when it exceeds 8 (08 R145). -/
def emul (vtype : Word) (w : Nat) : Nat :=
  let m := max 1 (lmulRegs vtype * w / sewBits vtype)
  if m ≤ 8 then m else 0

/-- Width for EMUL: B6 counts as 8 (08 R145). -/
def emulWidth (ty : Nat) : Nat := if ty = 0x11 then 8 else typeWidth ty

/-- Where a stage's operands come from: the previous result, a source field, the immediate, or zero. -/
inductive StageSrc where
  | prev | field (i : Nat) | imm | zero
  deriving DecidableEq, Repr

/-- The operands of stage i, in order (04 R81, 06 R108). -/
def Hcw.stageSrcs (h : Hcw) (i : Nat) : List StageSrc :=
  let n := opArity (h.ops.getD i 0)
  if i = 0 then ([.field 0, .field 1, .field 2] : List StageSrc).take n
  else
    let second := if i = 1 then StageSrc.field (if h.bsel then 3 else 2)
      else if h.csel then StageSrc.imm else StageSrc.field 3
    ([.prev, second, .zero] : List StageSrc).take n

/-- Operand k of an opcode is read in bit form (08 R154). -/
def bitForm (op k : Nat) : Bool :=
  (0x60 ≤ op && op ≤ 0x65) || (op = 0x70 && k = 0) || (op = 0x58 && k = 1) || (op = 0x59 && k = 0)

/-- The stages and positions that read a field. -/
def Hcw.uses (h : Hcw) (f : Nat) : List (Nat × Nat) :=
  ([0, 1, 2].map (fun i => (((h.stageSrcs i).zipIdx).filter (fun p => decide (p.1 = .field f))).map
    (fun p => (i, p.2)))).flatten

/-- Registers of the group a field names: 1 in bit form and for scale registers; 0 when EMUL is illegal. -/
def Hcw.groupOf (h : Hcw) (vtype : Word) (f : Nat) : Nat :=
  (h.uses f).foldl (fun m u =>
    let op := h.ops.getD u.1 0
    let n := if bitForm op u.2 || (op = 0x42 && u.2 = 1) then 1 else emul vtype (emulWidth (h.inType vtype u.1))
    if m = 0 || n = 0 then 0 else max m n) 1

/-- A field that some stage reads as a group of elements. -/
def Hcw.elementRead (h : Hcw) (f : Nat) : Bool :=
  (h.uses f).any (fun u => !(bitForm (h.ops.getD u.1 0) u.2) && !(h.ops.getD u.1 0 = 0x42 && u.2 = 1))

/-- The last stage's result is a mask: the kind passes through PASS (08 R154). -/
def isMaskStage (op : Nat) : Bool :=
  (0x10 ≤ op && op ≤ 0x12) || (0x29 ≤ op && op ≤ 0x2B) || (0x60 ≤ op && op ≤ 0x64)
def Hcw.maskResult (h : Hcw) : Bool :=
  h.ops.foldl (fun k op => if op = 0 then k else isMaskStage op) false

/-- Registers of the DST group; the scale register of CVTB comes after it. -/
def Hcw.dstGroup (h : Hcw) (vtype : Word) : Nat :=
  if h.maskResult then 1 else emul vtype (emulWidth (h.outType vtype 2))

/-- The structure checks made at execution (08 R145, R153, R162 to R165). -/
def Hcw.structOk (h : Hcw) (vtype : Word) (codes : List Nat) (dst : Nat) : Bool :=
  let ops := h.ops
  let convs := ops.filter isConversion
  let srcTy := h.imm % 32
  let types := [0, 1, 2].all (fun i =>
    let op := ops.getD i 0
    let ty := h.outType vtype i
    if isConversion op then true
    else match typeClass ty with
      | some (.float _) => true
      | some (.int _) => !(isFloatStage op)
      | some (.block _) => op = 0 && ops.contains 0x41
      | none => false)
  let conv := match h.convAt with
    | none => h.et ≠ 0x10 && h.et ≠ 0x11
    | some j =>
      let op := ops.getD j 0
      if op = 0x41 then
        (h.et = 0x10 || h.et = 0x11) && (ops.drop (j + 1)).all (fun o => o = 0) && h.dst < 384
      else
        let et := resolveType vtype op h.et
        let scalar := match typeClass et with
          | some (.block _) => false
          | some _ => true
          | none => false
        h.imm / 32 = 0 && !h.csel &&
        (h.src.zip h.reads).all (fun p => !(p.2 && p.1 = 385)) && scalar &&
        (match elemTypeOf srcTy with
          | none => false
          | some .i64 => false
          | some .dyn => false
          | some .b4 => op = 0x42
          | some .b6 => op = 0x42
          | some _ => op = 0x40) &&
        (op ≠ 0x42 || (j = 0 && (h.src.take 2).all (fun c => c ≠ 385 && c < 448)))
  let groups := [0, 1, 2, 3].all (fun f =>
    !(h.reads.getD f false) ||
      (let n := h.groupOf vtype f
       n ≠ 0 && (!(codes.getD f 0 < 384) || !(h.elementRead f) || codes.getD f 0 % n = 0)))
  let n := h.dstGroup vtype
  convs.length ≤ 1 && types && conv && groups && n ≠ 0 && (!(dst < 384) || dst % n = 0)

/-! Operand values. -/

/-- A stage operand or result: elements, or a mask of 4,096 bits. -/
inductive Opnd where
  | elems (xs : List Nat)
  | mask (m : Nat)
  deriving DecidableEq, Repr

/-- The elements of a group at width w: the B4 and B6 layouts of 02 R30 included. -/
def groupElems (ty : Nat) (rs : List VReg) : List Nat :=
  if ty = 0x11 then
    (rs.map (fun r => (List.range 512).map (fun e =>
      r.toNat / 2 ^ (256 * (e / 32) + 6 * (e % 32)) % 64))).flatten
  else
    let w := typeWidth ty
    (rs.map (fun r => (List.range (4096 / w)).map (fun j => velem r w j))).flatten

/-- Registers that the positions of a type span. Above 8 no register holds them, and operands that name no register
still have them (08 R145, R154). -/
def spanRegs (vtype : Word) (w : Nat) : Nat := max 1 (lmulRegs vtype * w / sewBits vtype)

/-- Positions of a type: of its group where it has one (08 R144, R146). -/
def positions (vtype : Word) (ty : Nat) : Nat := spanRegs vtype (emulWidth ty) * (4096 / emulWidth ty)

/-- The element index as a pattern of a type: wrapped to its width, or converted under RNE with the entry's saturation
(08 R152; 02 R39). DESIGN CHOICE (log 72): R152 gives it for integer and float working types; as the codes of a CVTBX it
is wrapped to 4 or 6 bits. -/
def indexPattern (ty : Nat) (sat : Bool) (x : Nat) : Nat × Flags :=
  match typeClass ty with
  | some (.float f) => let y := f.round 0 sat (.ofInt x) .none 0; (y.1, y.2.1)
  | some c => (x % 2 ^ c.width, 0)
  | none => (0, 0)

/-- A count as a result of a type: an integer result (08 R155, 02 R26), or converted under RNE (08 R166, R168). -/
def countPattern (ty : Nat) (sat : Bool) (x : Nat) : Nat × Flags :=
  match typeClass ty with
  | some (.int t) => t.narrow sat x
  | _ => indexPattern ty sat x

/-- The HCW immediate in a type (02 R45). -/
def immPattern (ty imm rnd : Nat) (sat : Bool) : Nat × Flags :=
  match typeClass ty with
  | some (.int t) => (if t.signed then t.encode ((⟨16, true⟩ : IntFmt).decode imm) else imm % 2 ^ t.width, 0)
  | some (.float f) =>
    if f = fmtBF16 then (imm, 0)
    else if f = fmtFP32 then (imm * 65536, 0)
    else
      let y := f.round (if rnd = 5 then 0 else rnd) sat (fmtFP32.decode (imm * 65536)) .none 0
      (y.1, y.2.1)
  | _ => (0, 0)

/-- The environment of an execution. -/
structure VEnv where
  h : Hcw
  vtype : Word
  ops : List (Nat × Operand)
  act : Nat → Bool
  fmt : Word

/-- An operand of stage i: its value, and flags that its reading raises at active positions. DESIGN CHOICE (log 72): the
conversion of an immediate raises its flags where some position is active (R155), though R45 says at every execution; the
element index as the scales of a CVTBX gives byte b the value b mod 256 (R152 leaves it open). -/
def VEnv.operand (v : VEnv) (i k : Nat) (src : StageSrc) (prev : Opnd) : Opnd × Flags :=
  let ty := v.h.inType v.vtype i
  let n := positions v.vtype ty
  let anyAct := (List.range n).any v.act
  match src with
  | .prev => (prev, 0)
  | .zero => (.elems (List.replicate n 0), 0)
  | .imm =>
    let x := immPattern ty v.h.imm v.h.rnd v.h.satb
    (.elems (List.replicate n x.1), if anyAct then x.2 else 0)
  | .field f =>
    match afind v.ops f with
    | some (.group rs) =>
      let op := v.h.ops.getD i 0
      if bitForm op k then (.mask (rs.headD 0).toNat, 0)
      else if op = 0x42 && k = 1 then (.elems ((List.range 512).map (fun b => velem (rs.headD 0) 8 b)), 0)
      else (.elems (groupElems ty rs), 0)
    | some (.value x) => (.elems (List.replicate n (x.toNat % 2 ^ typeWidth ty)), 0)
    | none =>
      match v.h.src.getD f 0 with
      | 385 =>
        let x := immPattern ty v.h.imm v.h.rnd v.h.satb
        (.elems (List.replicate n x.1), if anyAct then x.2 else 0)
      | 387 =>
        if v.h.ops.getD i 0 = 0x42 && k = 1 then (.elems ((List.range 512).map (fun b => b % 256)), 0)
        else
        let xs := (List.range n).map (fun e => indexPattern ty v.h.satb e)
        (.elems (xs.map Prod.fst),
          ((List.range n).zip xs).foldl (fun f p => if v.act p.1 then f ||| p.2.2 else f) 0)
      | _ => (.elems (List.replicate n 0), 0)

/-- An operand as elements of width w: a mask gives truth elements (08 R154). -/
def Opnd.toElems (o : Opnd) (w n : Nat) : List Nat :=
  match o with
  | .elems xs => xs
  | .mask m => (List.range n).map (fun e => if m.testBit e then 2 ^ w - 1 else 0)

/-- An operand in bit form, for element e (08 R154). The element index counts as an element result: 1 where its pattern is not
zero (DESIGN CHOICE, assumption log 82: R154 does not name it). -/
def Opnd.bit (o : Opnd) (e : Nat) : Bool :=
  match o with
  | .elems xs => xs.getD e 0 ≠ 0
  | .mask m => m.testBit e

/-- A mask from a predicate on elements below n. -/
def maskOf (n : Nat) (p : Nat → Bool) : Nat :=
  (List.range n).foldr (fun e m => (if p e then 1 else 0) + 2 * m) 0

/-! Stages. -/

/-- The integer stages (08 R156, R157). ISAR fills with bit w − 1 in an N type too (DESIGN CHOICE, assumption log 82: an N type
has no sign). -/
def intStage (op : Nat) (t : IntFmt) (sat : Bool) (a b c : Nat) : Nat × Flags :=
  let w := t.width
  let x := t.decode a
  let y := t.decode b
  let m := 2 ^ w
  match op with
  | 0x01 => t.narrow sat (x + y)
  | 0x02 => t.narrow sat (x - y)
  | 0x03 => t.narrow sat (x * y)
  | 0x04 => (t.encode (x * y / (m : Nat)), 0)
  | 0x05 => (if x ≤ y then a % m else b % m, 0)
  | 0x06 => (if x ≤ y then b % m else a % m, 0)
  | 0x07 => t.narrow sat x.natAbs
  | 0x08 => t.narrow true (x + y)
  | 0x09 => t.narrow true (x - y)
  | 0x0A => (a % m &&& b % m, 0)
  | 0x0B => (a % m ||| b % m, 0)
  | 0x0C => (a % m ^^^ b % m, 0)
  | 0x0D => (a * 2 ^ (b % w) % m, 0)
  | 0x0E => (a % m / 2 ^ (b % w), 0)
  | 0x0F => (t.encode ((⟨w, true⟩ : IntFmt).decode a / (2 ^ (b % w) : Nat)), 0)
  | 0x13 =>
    let pos := b % w
    let len := min (c % m) w
    let f := a % m / 2 ^ pos % 2 ^ len
    (if len = 0 then 0 else if t.signed then t.encode ((⟨len, true⟩ : IntFmt).decode f) else f, 0)
  | 0x14 => ((a % m * m + b % m) / 2 ^ (c % w) % m, 0)
  | 0x15 => (((List.range w).filter (fun i => a.testBit i)).length, 0)
  | 0x16 => (w - bitLen (a % m), 0)
  | _ => (a % m, 0)

/-- The comparisons on integers and floats: result, and flags (08 R156, R159). -/
def compareStage (op : Nat) (c : TypeClass) (a b : Nat) : Bool × Flags :=
  match c with
  | .int t =>
    let x := t.decode a
    let y := t.decode b
    (match op with
      | 0x10 => x = y
      | 0x11 => x < y
      | _ => x ≤ y, 0)
  | .float f =>
    let x := f.decode a
    let y := f.decode b
    let nan := x.isNan || y.isNan
    let snan := x.isSnan || y.isSnan
    (match op with
      | 0x29 => !nan && !(FVal.lt x y) && !(FVal.lt y x)
      | 0x2A => !nan && FVal.lt x y
      | _ => !nan && !(FVal.lt y x), flagIf (if op = 0x29 then snan else nan) fNV)
  | .block _ => (false, 0)

/-- FSCALE's exponent (08 R158). -/
def scaleAmount : FVal → Int
  | .nan _ => 0
  | .inf neg => if neg then -1024 else 1023
  | .fin neg m e =>
    let q : Int := (m * 2 ^ e.toNat / 2 ^ (-e).toNat : Nat)
    max (-1024) (min 1023 (if neg then -q else q))

/-- The result of a function stage in FP32: its value, flags, and whether it is exact (08 R160). -/
def floatFn (op : Nat) (x : FVal) : FVal × Flags × Bool :=
  match x with
  | .nan sg => (.nan false, flagIf sg fNV, true)
  | .inf neg =>
    match op with
    | 0x2C => (.fin neg 0 0, 0, true)
    | 0x2D => if neg then (.nan false, fNV, true) else (.fin false 0 0, 0, true)
    | 0x2E => if neg then (.fin false 0 0, 0, true) else (.inf false, 0, true)
    | 0x2F => if neg then (.nan false, fNV, true) else (.inf false, 0, true)
    | 0x30 => (.fin neg 1 0, 0, true)
    | _ => if neg then (.fin false 0 0, 0, true) else (.fin false 1 0, 0, true)
  | .fin neg m e =>
    let pow2 := m ≠ 0 && m = 2 ^ (bitLen m - 1)
    let k : Int := e + (bitLen m : Nat) - 1
    match op with
    | 0x2C => if m = 0 then (.inf neg, fDZ, true)
        else if pow2 && -149 ≤ -k && -k ≤ 127 then (.fin neg 1 (-k), 0, true) else (functionResult op neg m e, 0, false)
    | 0x2D => if m = 0 then (.inf neg, fDZ, true) else if neg then (.nan false, fNV, true)
        else if pow2 && k % 2 = 0 then (.fin false 1 (-(k / 2)), 0, true) else (functionResult op neg m e, 0, false)
    | 0x2E =>
      let whole := (m * 2 ^ e.toNat) % 2 ^ (-e).toNat = 0
      let n : Int := (m * 2 ^ e.toNat / 2 ^ (-e).toNat : Nat)
      let n := if neg then -n else n
      if whole && -149 ≤ n && n ≤ 127 then (.fin false 1 n, 0, true) else (functionResult op neg m e, 0, false)
    | 0x2F => if m = 0 then (.inf true, fDZ, true) else if neg then (.nan false, fNV, true)
        else if pow2 then (.ofInt k, 0, true) else (functionResult op neg m e, 0, false)
    | 0x30 => if m = 0 then (x, 0, true) else (functionResult op neg m e, 0, false)
    | _ => if m = 0 then (.fin false 1 (-1), 0, true) else (functionResult op neg m e, 0, false)

/-- FCLASS (08 R161). -/
def fclass (f : FloatFmt) (a : Nat) : Nat :=
  match f.decode a with
  | .inf neg => if neg then 0 else 7
  | .nan sg => if sg then 8 else 9
  | .fin neg m _ =>
    if m = 0 then (if neg then 3 else 4)
    else if a / 2 ^ f.mbits % (f.emax + 1) = 0 then (if neg then 2 else 5)
    else (if neg then 1 else 6)

/-- The float arithmetic stages (08 R158 to R161). -/
def floatStage (op : Nat) (f : FloatFmt) (mode : Nat) (sat : Bool) (a b c : Nat) (r : Rng) (lane : Nat) :
    Rounded :=
  let x := f.decode a
  let y := f.decode b
  let z := f.decode c
  let sn := x.isSnan
  match op with
  | 0x20 => f.roundInv mode sat (FVal.add mode x y) r lane
  | 0x21 => f.roundInv mode sat (FVal.add mode x y.neg) r lane
  | 0x22 => f.roundInv mode sat (FVal.mul x y) r lane
  | 0x25 =>
    let v := f.round mode sat (FVal.minNum false x y) r lane
    (v.1, v.2.1 ||| flagIf (x.isSnan || y.isSnan) fNV, v.2.2)
  | 0x26 =>
    let v := f.round mode sat (FVal.minNum true x y) r lane
    (v.1, v.2.1 ||| flagIf (x.isSnan || y.isSnan) fNV, v.2.2)
  | 0x27 =>
    let v := match x with
      | .inf _ => FVal.inf false
      | .fin _ m e => .fin false m e
      | n => n
    f.round mode sat v r lane
  | 0x28 => f.round mode sat x.neg r lane
  | 0x32 =>
    let v := match x, y with
      | .nan _, _ => FVal.nan false
      | _, .nan _ => .nan false
      | .fin n m e, y => .fin n m (e + scaleAmount y)
      | v, _ => v
    let v := f.round mode sat v r lane
    (v.1, v.2.1 ||| flagIf (sn || y.isSnan) fNV, v.2.2)
  | 0x33 => (fclass f a, 0, r)
  | 0x23 =>
    let p := FVal.mul x y
    let q := FVal.add mode p.1 z
    f.roundInv mode sat (q.1, p.2 || q.2 || z.isSnan) r lane
  | 0x24 =>
    let p := FVal.mul x y
    let q := FVal.add mode p.1.neg z
    f.roundInv mode sat (q.1, p.2 || q.2 || z.isSnan) r lane
  | _ =>
    let v := floatFn op x
    -- an FP32 value is exact in FP32: nothing rounds or draws there, and only an infinity can saturate
    let out := f.round mode sat v.1 r lane
    (out.1, out.2.1 ||| v.2.1 ||| flagIf (!v.2.2) fNX, out.2.2)

/-- Applies an element function at every position; flags and draws count only at active ones. -/
def mapElems (act : Nat → Bool) (f : Nat → Bool → Nat → Nat → Nat → Rng → Rounded) :
    Nat → List Nat → List Nat → List Nat → Rng → List Nat × Flags × Rng
  | e, a :: as, bs, cs, r =>
    let on := act e
    let x := f e on a (bs.headD 0) (cs.headD 0) r
    let y := mapElems act f (e + 1) as bs.tail cs.tail (if on then x.2.2 else r)
    (x.1 :: y.1, (if on then x.2.1 else 0) ||| y.2.1, y.2.2)
  | _, [], _, _, r => ([], 0, r)

/-- The rounding mode of a position: stochastic rounding draws only where a position is active (R148). DESIGN CHOICE
(log 72): elsewhere it rounds as under RNE; a lane movement can carry that value to an active position. -/
def modeAt (rnd : Nat) (on : Bool) : Nat := if rnd = 5 && !on then 0 else rnd

/-- Elements of one segment, for the lane movement stages (08 R147, R166). -/
def segmentOp (op S : Nat) (act : Nat → Bool) (base : Nat) (a x : List Nat) (bit : Nat → Bool) : List Nat :=
  match op with
  | 0x50 => (List.range S).map (fun p => a.getD (p ^^^ (x.getD p 0 % S)) 0)
  | 0x51 => (List.range S).map (fun p => a.getD (x.getD p 0 % S) 0)
  | 0x52 => (List.range S).map (fun p => if p = 0 then x.getD 0 0 else a.getD (p - 1) 0)
  | 0x53 => (List.range S).map (fun p => if p + 1 < S then a.getD (p + 1) 0 else x.getD (S - 1) 0)
  | 0x54 => (List.range S).map (fun _ => a.getD (x.getD 0 0 % S) 0)
  | _ =>
    let kept := ((List.range S).filter (fun q => act (base + q) && bit (base + q))).map (fun q => a.getD q 0)
    kept ++ List.replicate (S - kept.length) 0

/-- Splits a list of positions into segments and applies a lane movement to each. -/
def laneStage (op S : Nat) (act : Nat → Bool) (bit : Nat → Bool) :
    Nat → Nat → List Nat → List Nat → List Nat
  | 0, _, _, _ => []
  | k + 1, base, a, x =>
    segmentOp op S act base (a.take S) (x.take S) bit ++
      laneStage op S act bit k (base + S) (a.drop S) (x.drop S)

/-- One level of a reduction tree; entries carry the position of their lowest operand (08 R167). -/
def reduceLevel (f : Nat → Nat → Nat → Rng → Rounded) :
    List (Option (Nat) × Nat) → Rng → List (Option Nat × Nat) × Flags × Rng
  | (x, p) :: (y, _) :: t, r =>
    let c : Option Nat × Flags × Rng := match x, y with
      | some a, some b => let z := f p a b r; (some z.1, z.2.1, z.2.2)
      | some a, none => (some a, 0, r)
      | none, y => (y, 0, r)
    let z := reduceLevel f t c.2.2
    ((c.1, p) :: z.1, c.2.1 ||| z.2.1, z.2.2)
  | l, r => (l, 0, r)

/-- The fixed tree of a reduction. -/
def reduceTree (f : Nat → Nat → Nat → Rng → Rounded) :
    Nat → List (Option Nat × Nat) → Rng → Option Nat × Flags × Rng
  | 0, l, r => (((l.head?).map Prod.fst).getD none, 0, r)
  | n + 1, l, r =>
    if l.length ≤ 1 then (((l.head?).map Prod.fst).getD none, 0, r)
    else
      let x := reduceLevel f l r
      let y := reduceTree f n x.1 x.2.2
      (y.1, x.2.1 ||| y.2.1, y.2.2)

/-- The empty value of a reduction (08 R167). -/
def emptyValue (op : Nat) (c : TypeClass) : Nat :=
  match c with
  | .float f =>
    let top := if f.ieee then f.infCode else f.maxCode
    if op = 0x55 then 0 else if op = 0x56 then top + f.signBit else top
  | .int t => if op = 0x55 then 0 else if op = 0x56 then t.encode t.minV else t.encode t.maxV
  | .block _ => 0

/-- The reductions (08 R167): one value for each of the eight lane groups. -/
def reduceStage (op : Nat) (c : TypeClass) (em : Nat) (h : Hcw) (act : Nat → Bool) (xs : List Nat) (r : Rng) :
    List Nat × Flags × Rng :=
  let w := c.width
  let S := 512 / w
  let P := 4096 / w
  let groups := (List.range 8).foldl (fun acc g =>
    let pos := ((List.range em).map (fun q => (List.range S).map (fun p => q * P + g * S + p))).flatten
    let ls := pos.map (fun e => (if act e then some (xs.getD e 0) else none, e))
    let res : Option Nat × Flags × Rng := match c with
      | .int t =>
        if op = 0x55 then
          let on := ls.filterMap (fun p => p.1)
          let sum := on.foldl (fun a x => a + t.decode x) (0 : Int)
          let n := t.narrow h.satb sum
          (if on.isEmpty then none else some n.1, if on.isEmpty then 0 else n.2, acc.2.2)
        else reduceTree (fun _ a b r => let x := intStage (if op = 0x56 then 6 else 5) t false a b 0; (x.1, x.2, r))
          16 ls acc.2.2
      | .float f =>
        let fop := if op = 0x55 then 0x20 else if op = 0x56 then 0x26 else 0x25
        reduceTree (fun p a b r => floatStage fop f h.rnd h.satb a b 0 r (laneOf w (p % P))) 16 ls acc.2.2
      | .block _ => (none, 0, acc.2.2)
    (acc.1 ++ [res.1.getD (emptyValue op c)], acc.2.1 ||| res.2.1, res.2.2)) ([], (0 : Flags), r)
  ((List.range (em * P)).map (fun e => groups.1.getD (e % P / S) 0), groups.2.1, groups.2.2)

/-- One stage: its result, flags and generators. A mask stage gives bits below VL (R168); DESIGN CHOICE (log 72): a later
stage reads the bits from VL up as 0. A stochastic draw comes from the generator of the lane that holds the element at the
stage's own width: before a conversion that of the working type, at CVT and CVTBX that of ET (DESIGN CHOICE, log 82: 02 R37 names
no width). -/
def VEnv.stage (v : VEnv) (i : Nat) (prev : Opnd) (r : Rng) (vl : Nat) : Opnd × Flags × Rng :=
  let op := v.h.ops.getD i 0
  let ty := v.h.inType v.vtype i
  let out := v.h.outType v.vtype i
  let w := typeWidth ty
  let n := positions v.vtype ty
  let srcs := v.h.stageSrcs i
  let opd := fun k => match srcs[k]? with
    | some s => v.operand i k s prev
    | none => (.elems [], 0)
  let o0 := opd 0
  let o1 := opd 1
  let o2 := opd 2
  let opf := o0.2 ||| o1.2 ||| o2.2
  let x := o0.1.toElems w n
  let y := o1.1.toElems w n
  let z := o2.1.toElems w n
  let act := v.act
  let intFmt : IntFmt := match typeClass ty with
    | some (.int t) => t
    | _ => ⟨w, true⟩
  let counted := fun (xs : List Nat) =>
    let ps := xs.map (fun c => countPattern out v.h.satb c)
    (Opnd.elems (ps.map Prod.fst), ((List.range n).zip ps).foldl
      (fun f p => if act p.1 then f ||| p.2.2 else f) (0 : Flags))
  if op = 0 then (o0.1, opf, r)
  else if op ≤ 0x0F || (0x13 ≤ op && op ≤ 0x16) then
    let m := mapElems act (fun _ _ a b c r => let q := intStage op intFmt v.h.satb a b c; (q.1, q.2, r)) 0 x y z r
    (.elems m.1, opf ||| m.2.1, r)
  else if (0x10 ≤ op && op ≤ 0x12) || (0x29 ≤ op && op ≤ 0x2B) then
    let c : TypeClass := if op ≤ 0x12 then .int intFmt else (typeClass ty).getD (.int intFmt)
    let qs := (x.zip y).map (fun p => compareStage op c p.1 p.2)
    let fl := ((List.range n).zip qs).foldl (fun f p => if act p.1 then f ||| p.2.2 else f) (0 : Flags)
    (.mask (qs.foldr (fun q m => (if q.1 then 1 else 0) + 2 * m) 0), opf ||| fl, r)
  else if 0x20 ≤ op && op ≤ 0x33 then
    match typeClass ty with
    | some (.float f) =>
      let m := mapElems act (fun e on a b c r =>
        floatStage op f (modeAt v.h.rnd on) v.h.satb a b c r (laneOf w (e % (4096 / w)))) 0 x y z r
      (.elems m.1, opf ||| m.2.1, m.2.2)
    | _ => (.elems x, 0, r)
  else if op = 0x40 then
    match typeClass ty, typeClass out with
    | some src, some dst =>
      let m := positions v.vtype out
      let ow := typeWidth out
      let q := mapElems act (fun e on a _ _ r =>
        convert src dst (modeAt v.h.rnd on) v.h.satb a r (laneOf ow (e % (4096 / ow)))) 0
        ((x ++ List.replicate (m - x.length) 0).take m) [] [] r
      (.elems q.1, opf ||| q.2.1, q.2.2)
    | _, _ => (.elems x, 0, r)
  else if op = 0x42 then
    match typeClass out with
    | some dst =>
      let m := positions v.vtype out
      let ow := typeWidth out
      let scales := y
      let q := mapElems act (fun e on a _ _ r =>
        decodeBlockTo (if ty = 0x10 then 4 else 6) dst (modeAt v.h.rnd on) v.h.satb (scales.getD (e / 32) 0) a r
          (laneOf ow (e % (4096 / ow)))) 0 ((x ++ List.replicate (m - x.length) 0).take m) [] [] r
      (.elems q.1, opf ||| q.2.1, q.2.2)
    | none => (.elems x, 0, r)
  else if op = 0x41 then (o0.1, opf, r)
  else if isReduction op then
    let c := (typeClass ty).getD (.int intFmt)
    let q := reduceStage op c (spanRegs v.vtype w) v.h act x r
    (.elems q.1, opf ||| q.2.1, q.2.2)
  else if op = 0x59 then
    let S := 512 / w
    let q := counted ((List.range n).map (fun e =>
      ((List.range (e % S)).filter (fun p => act (e - e % S + p) && o0.1.bit (e - e % S + p))).length))
    (q.1, opf ||| q.2, r)
  else if 0x50 ≤ op && op ≤ 0x58 then
    let S := 512 / w
    (.elems (laneStage op S act o1.1.bit (n / S) 0 x y), opf, r)
  else if op = 0x65 then
    let c := ((List.range vl).filter (fun e => act e && o0.1.bit e)).length
    let q := counted (List.replicate n c)
    (q.1, opf ||| q.2, r)
  else if op = 0x70 then
    (.elems ((List.range n).map (fun e => if o0.1.bit e then y.getD e 0 else z.getD e 0)), opf, r)
  else
    let first := (List.range vl).find? (fun e => act e && o0.1.bit e)
    (.mask (maskOf vl (fun e => match op with
      | 0x60 => o0.1.bit e && o1.1.bit e
      | 0x61 => o0.1.bit e || o1.1.bit e
      | 0x62 => o0.1.bit e != o1.1.bit e
      | 0x63 => !(o0.1.bit e)
      | _ => first = some e)), opf, r)

/-! Results. -/

/-- What a V slot writes: registers of the window with their masks, SDQ entries, flags, generators. -/
structure VOut where
  regs : List (Nat × VReg × VReg)
  sdq : List QEntry
  flags : Flags
  rng : Rng
  deriving DecidableEq, Repr

/-- The fate of an element of DST (08 R150): its new value, or unchanged. -/
def elemFate (on lgOn inVl ma ta : Bool) (ones : Nat) (x : Nat) : Option Nat :=
  if inVl then
    if !lgOn then none else if on then some x else if ma then some ones else none
  else if lgOn && ta then some ones else none

/-- A register and its mask from the fates of its elements of width w, lowest first. -/
def regOfFates (w : Nat) (fs : List (Option Nat)) : VReg × VReg :=
  (vofElems w (fs.map (fun f => f.getD 0)),
    vofElems w (fs.map (fun f => if f.isSome then 2 ^ w - 1 else 0)))

/-- Splits a list into registers of P elements. -/
def chunks {α : Type} (P : Nat) : Nat → List α → List (List α)
  | 0, _ => []
  | n + 1, xs => xs.take P :: chunks P n (xs.drop P)

/-- The writes of CVTB (08 R164). DESIGN CHOICE (log 72): a block of 32 FP32 elements spans the two lane groups that R146 gives
them, and is written where both are enabled. A block that is not written for that raises no flag and takes no draw, active
elements in its other group notwithstanding (DESIGN CHOICE, log 72: R164 is silent there). Bytes of the scale register beyond
the blocks of the code group are unchanged, under TA too (DESIGN CHOICE, log 82: R164 speaks of the bytes of blocks). -/
def cvtbOut (h : Hcw) (vtype : Word) (vl : Nat) (fmt : Word) (act lgOn : Nat → Bool) (ma ta : Bool)
    (xs : List Nat) (dst : Nat) (r : Rng) : VOut :=
  let bits := if h.et = 0x10 then 4 else 6
  let em := emul vtype (emulWidth h.et)
  let perReg := if bits = 4 then 32 else 16
  let blocks := em * perReg
  let used := (vl + 31) / 32
  let ty := if bits = 4 then fmtBt4 fmt else (if fmt.getLsbD 12 then 1 else 0)
  let step := fun (acc : List (Option (Nat × List Nat)) × Flags × Rng) (k : Nat) =>
    let es := (List.range 32).map (fun i => 32 * k + i)
    let on := lgOn (32 * k) && lgOn (32 * k + 31)
    if !on then (acc.1 ++ [none], acc.2.1, acc.2.2)
    else if k < used then
      if es.any act then
        let b := encodeBlock bits ty h.rnd h.satb (es.map (fun e =>
          (if act e then some (fmtFP32.decode (xs.getD e 0)) else none, e % 128))) acc.2.2
        (acc.1 ++ [some (b.1, b.2.1)], acc.2.1 ||| b.2.2.1, b.2.2.2)
      else (acc.1 ++ [if ma then some (0xFF, List.replicate 32 (2 ^ bits - 1)) else none], acc.2.1, acc.2.2)
    else (acc.1 ++ [if ta then some (0xFF, List.replicate 32 (2 ^ bits - 1)) else none], acc.2.1, acc.2.2)
  let q := (List.range blocks).foldl step ([], 0, r)
  let codeRegs := (chunks perReg em q.1).map (fun bs =>
    let fates := (bs.map (fun b => match b with
      | none => List.replicate (if bits = 4 then 16 else 32) none
      | some (_, cs) =>
        if bits = 4 then (List.range 16).map (fun i => some (cs.getD (2 * i) 0 + 16 * cs.getD (2 * i + 1) 0))
        else
          let v := cs.foldr (fun c a => c + 64 * a) 0
          (List.range 32).map (fun i => some (v / 256 ^ i % 256)))).flatten
    regOfFates 8 fates)
  let scaleFates := (q.1.take 512).map (fun b => b.map Prod.fst)
  let sc := regOfFates 8 scaleFates
  { regs := ((List.range em).zip codeRegs).map (fun p => (dst + p.1, p.2.1, p.2.2)) ++ [(dst + em, sc.1, sc.2)],
    sdq := [], flags := q.2.1, rng := q.2.2 }

/-- What an executed entry writes (08 R144). -/
def vcompute (f : VFlight) (core : Nat) : VOut :=
  let h := hcwOf f.entry
  let lw := typeWidth (h.laneType f.vtype)
  let lgOn := fun e => h.lge.testBit (e % (4096 / lw) * lw / 512)
  let act := fun e => lgOn e && decide (e < f.vl) && (!h.men || f.mask.getLsbD e)
  let env : VEnv := ⟨h, f.vtype, f.ops, act, f.fmt⟩
  let r0 : Rng := ⟨f.seed, core, f.gens⟩
  let a := env.stage 0 (.elems []) r0 f.vl
  let b := env.stage 1 a.1 a.2.2 f.vl
  let c := env.stage 2 b.1 b.2.2 f.vl
  let flags := a.2.1 ||| b.2.1 ||| c.2.1
  let ta := f.vtype.getLsbD 7 && !h.tpo
  let ma := f.vtype.getLsbD 6 && !h.mpo
  let dst := h.dst + 8 * f.roff
  if h.ops.contains 0x41 then
    let o := cvtbOut h f.vtype f.vl f.fmt act lgOn ma ta (c.1.toElems 32 (positions f.vtype 0x0C)) dst c.2.2
    { o with flags := flags ||| o.flags }
  else
    let ty := h.outType f.vtype 2
    let w := typeWidth ty
    let P := 4096 / w
    let em := emul f.vtype w
    if h.maskResult then
      let m := match c.1 with
        | .mask m => m
        | .elems _ => 0
      if h.dst = 384 then
        { regs := [], sdq := [.vector (BitVec.ofNat 4096 (maskOf f.vl (fun e => act e && m.testBit e)))
            (BitVec.allOnes 512)], flags := flags, rng := c.2.2 }
      else
        let fate := fun e => if e < f.vl then elemFate (act e) (lgOn e) true ma ta 1 (if m.testBit e then 1 else 0)
          else if ta then some 1 else none
        let v := BitVec.ofNat 4096 (maskOf 4096 (fun e => fate e = some 1))
        let k := BitVec.ofNat 4096 (maskOf 4096 (fun e => (fate e).isSome))
        { regs := if h.dst < 384 then [(dst, v, k)] else [], sdq := [], flags := flags, rng := c.2.2 }
    else
      let xs := (c.1.toElems w (em * P)).take (em * P)
      if h.dst = 384 then
        let n := (f.vl + P - 1) / P
        let parts := chunks P n xs
        { regs := [], flags := flags, rng := c.2.2,
          sdq := ((List.range n).zip parts).map (fun p =>
            let on := fun i => act (p.1 * P + i)
            .vector (vofElems w (((List.range P).zip p.2).map (fun q => if on q.1 then q.2 else 0)))
              (BitVec.ofNat 512 (maskOf 512 (fun b => on (b * 8 / w))))) }
      else
        let fates := ((List.range (em * P)).zip xs).map (fun p =>
          elemFate (act p.1) (lgOn p.1) (decide (p.1 < f.vl)) ma ta (2 ^ w - 1) p.2)
        { regs := if h.dst < 384 then ((List.range em).zip ((chunks P em fates).map (regOfFates w))).map
            (fun p => (dst + p.1, p.2.1, p.2.2)) else [],
          sdq := [], flags := flags, rng := c.2.2 }

/-- SDQ entries that an entry pushes (08 R151). -/
def Hcw.pushes (h : Hcw) (vtype : Word) (vl : Nat) : Nat :=
  if h.dst ≠ 384 then 0
  else if h.maskResult then 1
  else
    let P := 4096 / typeWidth (h.outType vtype 2)
    (vl + P - 1) / P

/-- LDQ entries that a field pops (08 R151, R152). The scale operand of a CVTBX pops one where VL > 0, as a read in bit form
does: its bytes lie in one register (DESIGN CHOICE, assumption log 82: R151 does not name it). -/
def Hcw.pops (h : Hcw) (vtype : Word) (vl f : Nat) : Nat :=
  if !(h.reads.getD f false) then 0
  else match h.src.getD f 0 with
    | 384 =>
      if !(h.elementRead f) then min 1 vl
      else
        let es := (h.uses f).filter (fun u => !(bitForm (h.ops.getD u.1 0) u.2))
        let w := es.foldl (fun w u => max w (emulWidth (h.inType vtype u.1))) 4
        (vl + 4096 / w - 1) / (4096 / w)
    | 510 => 1
    | _ => 0

end Sys2Proof.Machine
end

