-- ==== Sys2Proof/Machine/Access.lean ====
section
/-! DEFINITION. Pending accesses and how they are performed: loads in issue order, stores in issue order, a
store after every earlier load, a load after every earlier store that it overlaps (10 R194 to R204; 14 R281);
atomics at the place of their address (10 R201 to R203); releases and acquires (10 R206, 12 R250). -/

namespace Sys2Proof.Machine

/-- Two units share a byte. -/
def unitsMeet (a b : Option Loc × Nat) : Bool :=
  match a.1, b.1 with
  | some (.sram c o), some (.sram d q) => c = d && o < q + b.2 && q < o + a.2
  | some (.phys o _ _), some (.phys q _ _) => o < q + b.2 && q < o + a.2
  | _, _ => false

/-- Two accesses share a byte. -/
def accessesMeet (us ws : List (Option Loc × Nat)) : Bool := us.any (fun u => ws.any (unitsMeet u))

/-- LDQ entries that a load delivers. -/
def LoadOp.entries (o : LoadOp) : Nat :=
  match o.kind with
  | .queue => ((o.units.map Prod.snd).foldl (· + ·) 0 + 7) / 8
  | .vector _ n => n
  | .stream es => es.length
  | .ready es => es.length
  | _ => 0

/-- The next issue number of the context in focus. -/
def State.stamp (s : State) : Nat × State :=
  (s.ctx.pend.seq + 1, s.modPend (fun p => { p with seq := p.seq + 1 }))

/-- Reads units in order: their bytes, whether one was poisoned, and the state after. -/
def State.readUnits (s : State) : List (Option Loc × Nat) → List (List Byte) × Bool × State
  | [] => ([], false, s)
  | (none, n) :: t =>
    let r := s.readUnits t
    (List.replicate n 0 :: r.1, r.2.1, r.2.2)
  | (some l, n) :: t =>
    let bad := s.readBad s.coreId l n
    let x := s.readUnit s.coreId l n
    let r := x.2.readUnits t
    (x.1 :: r.1, bad || r.2.1, r.2.2)

/-- The entries of a stream instruction once its values are read, each zero-extended (18 R316). -/
def streamEntries : List (Option Word) → List (List Byte) → List QEntry
  | [], _ => []
  | some v :: t, bs => .scalar v :: streamEntries t bs
  | none :: t, bs => .scalar (wordOf 64 (bs.headD [])) :: streamEntries t bs.tail

/-- Gives data to the SDQ entries that an operation owns. -/
def fillSdq (seq : Nat) : List QEntry → List SdqEntry → List SdqEntry
  | d :: ds, e :: t =>
    if e.owner = seq && e.data.isNone then { e with data := some d } :: fillSdq seq ds t
    else e :: fillSdq seq (d :: ds) t
  | _, l => l

/-- Writes a scalar result that arrives after its issue: s62 gives data to its SDQ entry (03 R57). -/
def State.lateS (s : State) (seq sd : Nat) (v : Word) : State :=
  if sd = 62 then s.modPend (fun p => { p with sdq := fillSdq seq [.scalar v] p.sdq })
  else s.setS sd v

/-- The entries of a vector load: elements of width w, P to a register, absent elements 0 (10 R197). -/
def vectorEntries (w n : Nat) (xs : List Nat) : List QEntry :=
  (chunks (4096 / w) n xs).map (fun c => .vector (vofElems w c) (BitVec.allOnes 512))

/-- The new value of an atomic, on `w` bits (10 R201). -/
def amoValue (op w : Nat) (m x cmp : Nat) : Nat :=
  let t : IntFmt := ⟨w, true⟩
  let u := 2 ^ w
  match op with
  | 0 => (m + x) % u
  | 1 => m &&& x
  | 2 => m ||| x
  | 3 => m ^^^ x
  | 4 => if t.decode m ≤ t.decode x then m else x
  | 5 => if t.decode m ≤ t.decode x then x else m
  | 6 => min m x
  | 7 => max m x
  | 8 => x
  | 9 => if m = cmp then x else m
  | _ => (rne32 (FVal.add 0 (fmtFP32.decode m) (fmtFP32.decode x)).1).1

/-- The chunk and the counter after a CHUNK of a counter of 24 bytes (10 R203). -/
def chunkStep (bs : List Byte) : Nat × Nat :=
  let next := ofBytes (bs.take 8)
  let stop := ofBytes ((bs.drop 8).take 8)
  let least := ofBytes ((bs.drop 16).take 4)
  let div := ofBytes ((bs.drop 20).take 4)
  let r := if next < stop then stop - next else 0
  let d := if div = 0 then 1 else div
  let c := if r = 0 then 0 else min (min r (max least ((r + d - 1) / d))) (2 ^ 24 - 1)
  (next % 2 ^ 40 + c * 2 ^ 40, (next + c) % 2 ^ 64)

/-- The core in focus writes its copy of a line back and lets it go (12 R250). -/
def State.dropCopy (s : State) (line : Nat) : State :=
  match afind s.core.l1 line with
  | none => s
  | some x =>
    let s := s.writeLine s.coreId line x
    { s with core := { s.core with l1 := adel s.core.l1 line } }

/-- The context in focus knows of what a clock names, while writes are on their way. -/
def State.noteSeen (s : State) (v : List Nat) : State :=
  { s with ctx := { s.ctx with seen := if s.inFlight = 0 then s.ctx.seen else clockJoin s.ctx.seen v } }

/-- Reads and updates bytes at the one place of an address, as one action (10 R202): `f` gives the bytes
written from those read. -/
def State.atomicAt (s : State) (l : Loc) (n : Nat) (f : List Byte → List Byte) : List Byte × State :=
  match l with
  | .sram c o =>
    let bs := s.sramBytes c o n
    (bs, s.sramWrite c o (f bs) (some s.coreId))
  | .phys a true _ =>
    let r := s.msRead a n
    (r.1, r.2.msWrite a (f r.1) (some s.coreId))
  | .phys a false page =>
    -- the issuing core's copy of the line goes first (12 R250)
    let line := a / 128
    let s := s.dropCopy line
    -- the request follows the die's earlier writes to the home (14 R286)
    let h := homeDie a
    let d := dieOf s.coreId
    let s := s.requestOrder d h
    let bs := s.dieBytes h a n
    let before := s.seenAt h a n
    let s := (s.l2Put h s.myPart page true a (f bs)).notify l (some h) (some s.coreId)
    -- what the value read comes after is known to the context, whose own L2 also takes the write if it holds the line
    let s := s.noteSeen before
    let s := if h ≠ d && (afind (s.getDie d).tags line).isSome then s.spread (s.getDie h).clock [d] else s
    (bs, s.cleanPoison l n)

/-- The release action of a scope: at DIE scope and wider the dirty words of the core's L1 are written back (12 R250);
at SYSTEM scope the home dies have performed all that the release covers (14 R291). -/
def State.releaseL1 (s : State) (scope : Nat) : State :=
  let s := if scope ≥ 2 then s.l1Release s.coreId else s
  if scope ≥ 4 then s.settleHomes (dieOf s.coreId) else s

/-- The context in focus needs to wait for nothing it has seen. -/
def State.forgetSeen (s : State) : State := { s with ctx := { s.ctx with seen := [] } }

/-- The acquire action. At DIE scope and wider the clean words of the core's L1 become invalid. A MODULE acquire is a
DIE acquire (14 R287); what the context read at a home memory unit or by an AMO at another die may have been released
by another die, and its own die has applied what that release covers (14 R278). At SYSTEM scope the same holds of the
host's writes (14 R291; assumption log 22). -/
def State.acquire (s : State) (scope : Nat) : State :=
  let d := dieOf s.coreId
  let s := if scope ≥ 3 then (s.spread s.ctx.seen [d]).forgetSeen else s
  let s := if scope ≥ 4 then s.spread s.hostClock [d] else s
  if scope ≥ 2 then s.l1Acquire s.coreId else s

/-- The acquire side of a fence of a kind (10 R206): an sc fence at MODULE scope or wider completes when what its die
had applied, and what the context has seen, is applied at all four dies (14 R289); a full or sc one discards the core's instruction cache (14 R294). -/
def State.fenceDone (s : State) (kind scope : Nat) : State :=
  let s := if kind = 3 && scope ≥ 3 then
      s.spread (clockJoin (s.getDie (dieOf s.coreId)).clock s.ctx.seen) [0, 1, 2, 3] else s
  let s := s.acquire scope
  if 2 ≤ kind then { s with core := { s.core with icache := [] } } else s

/-- An atomic between the release and the acquire that its ordering names (10 R201; 14 R279). -/
def State.ordered (s : State) (ord scope : Nat) (f : State → List Byte × State) : List Byte × State :=
  let r := f (if 2 ≤ ord then s.releaseL1 scope else s)
  (r.1, if ord % 2 = 1 then r.2.acquire scope else r.2)

/-- Unlists a pending load, and a pending store with the SDQ entries that it takes: those behind the claims of the
stores issued before it (10 R195). -/
def Pending.dropLoad (p : Pending) (o : LoadOp) : Pending := { p with lq := p.lq.filter (fun x => x.seq ≠ o.seq) }
def Pending.claimed (p : Pending) (o : StoreOp) : Nat :=
  ((p.stq.filter (fun x => x.seq < o.seq)).map (fun x => x.claims.length)).sum
def Pending.storeData (p : Pending) (o : StoreOp) : List SdqEntry := (p.sdq.drop (p.claimed o)).take o.claims.length
def Pending.dropStore (p : Pending) (o : StoreOp) : Pending :=
  { p with
    stq := p.stq.filter (fun x => x.seq ≠ o.seq),
    sdq := p.sdq.take (p.claimed o) ++ p.sdq.drop (p.claimed o + o.claims.length) }

/-- Entries that a load has read enter LDQ in issue order: at once when the load is the oldest and LDQ has room, else
they wait in its place (10 R194). -/
def State.enterLdq (s : State) (o : LoadOp) (es : List QEntry) : State :=
  s.modPend (fun p =>
    if (p.lq.all (fun x => o.seq < x.seq)) && p.ldq.length + es.length ≤ 64 then { p with ldq := p.ldq ++ es }
    else { p with lq := p.lq.takeWhile (fun x => x.seq < o.seq) ++ [⟨o.seq, .ready es, []⟩] ++
      p.lq.dropWhile (fun x => x.seq < o.seq) })

/-- The first poisoned place that an access meets (27 R404). -/
def State.badPlace (s : State) (us : List (Option Loc × Nat)) : Word :=
  (us.findSome? (fun u => u.1.bind (fun l => if s.readBad s.coreId l u.2 then some (s.poisonPlace l u.2) else none))).getD 0

/-- Whether the place that an atomic updates is poisoned: of cacheable memory, once the core's copy of the line is written
back (12 R250; 27 R402). -/
def State.atomicBad (s : State) (ord scope : Nat) (l : Loc) (n : Nat) : Bool :=
  let t := if 2 ≤ ord then s.releaseL1 scope else s
  match l with
  | .phys a false _ => (t.dropCopy (a / 128)).poisoned l n
  | l => t.poisoned l n

/-- Performs a load whose turn it is, and unlists it; none when poison would reach the context (27 R403). -/
def State.performLoad (s : State) (o : LoadOp) : Option State :=
  let s := s.modPend (fun p => p.dropLoad o)
  match o.kind with
  | .ready es => some (s.enterLdq o es)
  | .fence kind scope => some (s.fenceDone kind scope)
  | .amo op sa cmp sd n ord scope =>
    match o.units with
    | (some l, _) :: _ =>
      let bad := s.atomicBad ord scope l n
      let w := 8 * n
      let r := s.ordered ord scope (fun s => s.atomicAt l n (fun bs =>
        toBytes (amoValue op w (ofBytes bs) (sa.toNat % 2 ^ w) (cmp.toNat % 2 ^ w)) n))
      if bad then some ((r.2.setPoison l n).lateS o.seq sd 0)
      else some (r.2.lateS o.seq sd (BitVec.ofNat 64 (ofBytes r.1)))
    | _ => some s
  | .chunk sd ord scope =>
    match o.units with
    | (some l, _) :: _ =>
      let bad := s.atomicBad ord scope l 24
      let r := s.ordered ord scope (fun s => s.atomicAt l 24 (fun bs => toBytes (chunkStep bs).2 8))
      if bad then some ((r.2.setPoison l 8).lateS o.seq sd 0)
      else some (r.2.lateS o.seq sd (BitVec.ofNat 64 (chunkStep r.1).1))
    | _ => some s
  | k =>
    let r := s.readUnits o.units
    if r.2.1 then none
    else
      let s := r.2.2
      match k with
      | .queue =>
        let es := (chunks 8 o.entries (r.1.flatten)).map (fun b => QEntry.scalar (wordOf 64 b))
        some (s.enterLdq o es)
      | .reg sd signed =>
        let bs := r.1.flatten
        let t : IntFmt := ⟨8 * bs.length, true⟩
        let v := if signed then BitVec.ofInt 64 (t.decode (ofBytes bs)) else wordOf 64 bs
        some (s.lateS o.seq sd v)
      | .vector w n =>
        some (s.enterLdq o (vectorEntries w n (r.1.map ofBytes)))
      | .stream es => some (s.enterLdq o (streamEntries es r.1))
      | .tile base =>
        some { s with core := { s.core with tiles := asetN zeroByte s.core.tiles base r.1.flatten } }
      | _ => some s

/-- The units of SRAM that a drain writes. -/
def ArrayOp.units : ArrayOp → List (Option Loc × Nat)
  | .sram us => us.map (fun u => (some u.1, u.2.length))
  | .foldSram ts _ _ => (ts.map (fun t => t.1.map (fun l => (some l, 4)))).flatten
  | _ => []

/-- An access to the core's own banks: these keep program order between a store and a later load (14 R282). -/
def ownBank (core : Nat) (us : List (Option Loc × Nat)) : Bool :=
  us.any (fun u => match u.1 with
    | some (.sram c _) => c = core
    | _ => false)

/-- A load that comes after every earlier store: an atomic, which is a store too, and a full fence. -/
def LoadKind.afterStores : LoadKind → Bool
  | .amo _ _ _ _ _ _ _ => true
  | .chunk _ _ _ => true
  | .fence kind _ => 2 ≤ kind
  | _ => false

/-- A plain access: no fence, and no atomic that is a release or an acquire. -/
def LoadKind.plain : LoadKind → Bool
  | .amo _ _ _ _ _ ord _ => ord = 0
  | .chunk _ ord _ => ord = 0
  | .fence _ _ => false
  | _ => true
def StoreKind.plain : StoreKind → Bool
  | .fence _ => false
  | _ => true

/-- An acquire that is still pending, and a release (14 R278, R279). -/
def LoadKind.acquires : LoadKind → Bool
  | .amo _ _ _ _ _ ord _ => ord % 2 = 1
  | .chunk _ ord _ => ord % 2 = 1
  | .fence _ _ => true
  | _ => false
def LoadKind.releases : LoadKind → Bool
  | .amo _ _ _ _ _ ord _ => 2 ≤ ord
  | .chunk _ ord _ => 2 ≤ ord
  | .fence kind _ => 2 ≤ kind
  | _ => false

/-- Two accesses to the banks of different destination cores: these are not ordered with each other (14 R284). -/
def apart (us ws : List (Option Loc × Nat)) : Bool :=
  let cores := fun (l : List (Option Loc × Nat)) => l.filterMap (fun u => match u.1 with
    | some (.sram c _) => some c
    | _ => none)
  let banks := fun (l : List (Option Loc × Nat)) => l.all (fun u => match u.1 with
    | some (.phys _ _ _) => false
    | _ => true)
  banks us && banks ws && !((cores us).isEmpty) && !((cores ws).isEmpty) && (cores us).all (fun c => !((cores ws).contains c))

/-- A load whose value is fixed: its entries wait for room in LDQ alone. -/
def LoadKind.performed : LoadKind → Bool
  | .ready _ => true
  | _ => false

/-- A plain load and a plain earlier store, or two such stores, to the banks of different destination cores: these are
not ordered with each other (14 R284). -/
def StoreOp.free (w : StoreOp) (plain : Bool) (us : List (Option Loc × Nat)) : Bool :=
  plain && w.kind.plain && w.late.isEmpty && apart w.units us

/-- A load, or an atomic, that need not wait for an earlier one to the banks of other destination cores: the earlier one is no
acquire, this one is no release, and where the earlier one is a release this one stores nothing (14 R278, R284). -/
def LoadOp.free (o e : LoadOp) : Bool :=
  apart e.units o.units && !e.kind.acquires && !o.kind.releases && !(e.kind.releases && o.kind.afterStores)

/-- The earlier loads of the context that a load of some units need not wait for are the only ones still to be performed (14
R281, R284). -/
def Pending.loadsPass (p : Pending) (us : List (Option Loc × Nat)) : Bool :=
  p.lq.all (fun e => e.kind.performed || (apart e.units us && !e.kind.acquires))

/-- A drain into local SRAM. -/
def drainsToSram : Instr → Bool
  | .mdrain _ _ sram _ _ _ _ _ _ => sram = 1
  | .mdrainOfold _ _ sram _ _ _ _ => sram = 1
  | _ => false

/-- An element of a store that is still to be translated reaches a place: where it may be stored to, or else read. -/
def State.lateMeets (s : State) (w : StoreOp) (us : List (Option Loc × Nat)) : Bool :=
  w.late.any (fun l =>
    let n := (w.units.map Prod.snd).getD l.1 1
    let hits := fun (x : Except Stop (Loc × State)) => match x with
      | .ok q => some (accessesMeet us [(some q.1, n)])
      | .error _ => none
    ((hits (s.resolve l.2 n .store 2)).orElse (fun _ => hits (s.resolve l.2 n .load 1))).getD false)

/-- A place may be read by the context in focus, as an access issued as number `seq`: the stores issued before it that
it must follow are performed, and so are drains issued before it that write there, and drains into local SRAM that are
still repeated; slots of a ring are full (09 R191; 13 R272; 14 R281, R282; assumption log 36). -/
def State.readable (s : State) (seq : Nat) (us : List (Option Loc × Nat)) : Bool :=
  !(s.ctx.pend.stq.any (fun w => w.seq < seq && (accessesMeet us w.units || s.lateMeets w us ||
    (ownBank s.coreId us && ownBank s.coreId w.units)))) &&
  !(s.core.arr.queue.any (fun d => d.1 = s.here && d.2.1 < seq && accessesMeet us d.2.2.units)) &&
  !(s.core.arr.repeat_.any (fun r => r.ctx = s.here && r.after < seq && drainsToSram r.i)) &&
  us.all (fun u => match u.1 with
    | some l => s.slotsReady l u.2
    | none => true)

/-- The pending loads that may go on now. Loads are performed in issue order, but for one that only accesses to the banks
of other destination cores precede; an atomic is a store too (14 R281, R284). What a performed load has read enters LDQ
in issue order, when there is room (10 R194). -/
def State.loadsReady (s : State) : List LoadOp :=
  let p := s.ctx.pend
  p.lq.filter (fun o =>
    let before := p.lq.filter (fun e => e.seq < o.seq)
    if o.kind.performed then before.isEmpty && p.ldq.length + o.entries ≤ 64
    else
      before.all (fun e => e.kind.performed || o.free e) &&
      !(o.kind.afterStores && p.stq.any (fun w => w.seq < o.seq && !(w.free (!o.kind.releases) o.units))) &&
      s.readable o.seq o.units)

/-- Runs of enabled bytes of an element: offset and bytes of each. -/
def enabledRuns : Nat → List (Byte × Bool) → List (Nat × List Byte)
  | _, [] => []
  | i, (b, on) :: t =>
    match on, enabledRuns (i + 1) t with
    | false, r => r
    | true, (j, bs) :: r => if j = i + 1 then (i, b :: bs) :: r else (i, [b]) :: (j, bs) :: r
    | true, [] => [(i, [b])]

/-- A location some bytes further on. -/
def Loc.plus (l : Loc) (n : Nat) : Loc :=
  match l with
  | .sram c o => .sram c (o + n)
  | .phys a m p => .phys (a + n) m p

/-- Writes units in order, each byte with its enable. -/
def State.writeUnits (s : State) : List (Option Loc × Nat) → List (Byte × Bool) → State
  | [], _ => s
  | (none, n) :: t, bs => s.writeUnits t (bs.drop n)
  | (some l, n) :: t, bs =>
    let s := (enabledRuns 0 (bs.take n)).foldl (fun s r => s.writeUnit s.coreId (l.plus r.1) r.2) s
    s.writeUnits t (bs.drop n)

/-- The bytes of SDQ entries, with their enables: scalars of eight bytes, or `n` bytes of a register. -/
def QEntry.store : QEntry → List (Byte × Bool)
  | .scalar v => (bytesOf v).map (fun b => (b, true))
  | .vector v en => ((List.range 512).zip (bytesOf v)).map (fun p => (p.2, en.getLsbD p.1))

/-- The pending stores that may be performed now: their data is there, and only accesses to the banks of other cores
precede them (14 R281, R284). -/
def State.storesReady (s : State) : List StoreOp :=
  let p := s.ctx.pend
  p.stq.filter (fun o =>
    (p.stq.filter (fun e => e.seq < o.seq)).all (fun e => e.late.isEmpty && o.free e.kind.plain e.units) &&
    (p.lq.filter (fun e => e.seq < o.seq)).all (fun e => e.kind.performed || o.free e.kind.plain e.units) &&
    (p.storeData o).length = o.claims.length && (p.storeData o).all (fun e => e.data.isSome))

/-- One of several, by an open choice (00 R13). -/
def State.oneOf {α : Type} (s : State) : List α → Option (α × State)
  | [] => none
  | [a] => some (a, s)
  | a :: t =>
    let r := s.fresh
    some ((a :: t).getD (r.1.toNat % (t.length + 1)) a, r.2)

/-- Performs a store whose turn it is, and unlists it with the SDQ entries it takes. -/
def State.performStore (s : State) (o : StoreOp) : State :=
  let es := (s.ctx.pend.storeData o).filterMap (fun e => e.data)
  let s := s.modPend (fun p => p.dropStore o)
  match o.kind with
  | .data bs => s.writeUnits o.units (bs.map (fun b => (b, true)))
  | .queue _ =>
    -- one scalar gives the low bytes, two give sixteen
    let all := (es.map QEntry.store).flatten
    s.writeUnits o.units (all.take ((o.units.map Prod.snd).foldl (· + ·) 0))
  | .vector _ _ => s.writeUnits o.units ((es.map QEntry.store).flatten)
  | .mark full => o.units.foldl (fun s u => match u.1 with
      | some (.sram c off) =>
        let co := s.getCore c
        s.setCore c { co with fe := aset false co.fe (off / 4) full }
      | _ => s) s
  | .fence scope => s.releaseL1 scope

/-- Translates what a store whose turn it is has still to translate: a unit with an enabled byte (10 R193). -/
def State.lateUnits (s : State) (o : StoreOp) : List (Nat × Word) → Except Stop (StoreOp × State)
  | [] => .ok ({ o with late := [] }, s)
  | (i, va) :: t =>
    let n := ((o.units.map Prod.snd).getD i 1)
    let at_ := ((o.units.map Prod.snd).take i).sum
    let bs := (((s.ctx.pend.storeData o).filterMap (fun e => e.data)).map QEntry.store).flatten
    if ((bs.drop at_).take n).any Prod.snd then
      match s.resolve va n .store 2 with
      | .error e => .error e
      | .ok (l, s) => s.lateUnits { o with units := o.units.set i (some l, n) } t
    else s.lateUnits o t

/-- Performs a store whose turn it is, or says why it cannot be reached. -/
def State.reachStore (s : State) (o : StoreOp) : Except Stop State :=
  match s.lateUnits o o.late with
  | .error e => .error e
  | .ok (o, s) => .ok (s.performStore o)

/-- Performs the next pending access of the context in focus that may be performed. -/
def State.performNext (s : State) : Option State :=
  match s.loadsReady.findSome? s.performLoad with
  | some t => some t
  | none => s.storesReady.findSome? (fun o => (s.reachStore o).toOption)

/-- Performs pending accesses while any may be performed, at most `n` of them. -/
def State.settleN (s : State) : Nat → State
  | 0 => s
  | n + 1 => match s.performNext with
    | some t => t.settleN n
    | none => s

/-- Performs every pending access of the context in focus that can complete: a load may take two turns. -/
def State.settle (s : State) : State := s.settleN (2 * s.ctx.pend.lq.length + s.ctx.pend.stq.length)

/-- Why the pending accesses go no further by themselves: a store whose turn it is cannot be reached (10 R193), or a load
meets poison (27 R403). -/
def State.stuck (s : State) : Option Stop :=
  (s.storesReady.findSome? (fun o => match s.reachStore o with
    | .error e => some e
    | .ok _ => none)).orElse (fun _ => (s.loadsReady.find? (fun o => (s.performLoad o).isNone)).map (fun o =>
      .poison (s.badPlace o.units)))

/-- What waits for pending accesses holds, unless one of these cannot go on: its fault is raised. -/
def State.waitSettled (s : State) (b : Bool) : Except Stop Unit := require b (s.stuck.getD .hold)

/-- An operation that the context performs at once, on a place: it is not performed before an acquire still pending,
nor, as a store, before what a release still pending covers (14 R278); it follows the context's earlier stores there
and, where the place lies in the core's own banks, its earlier stores to them (14 R281, R282), and its earlier loads
there. -/
def State.opTurn (s : State) (store : Bool) (us : List (Option Loc × Nat)) : Bool :=
  let p := s.ctx.pend
  !(p.lq.any (fun o => o.kind.acquires || accessesMeet o.units us || (store && o.kind.releases))) &&
  !(store && p.stq.any (fun o => !o.kind.plain)) && s.readable (p.seq + 1) us

/-- A load that an instruction performs at once: every earlier load is performed, but for those to the banks of other cores
(14 R281, R284). -/
def State.loadTurn (s : State) (us : List (Option Loc × Nat)) : Bool :=
  s.ctx.pend.loadsPass us && s.readable (s.ctx.pend.seq + 1) us

/-- Appends a pending load. -/
def State.pushLoad (s : State) (k : LoadKind) (units : List (Option Loc × Nat)) : State :=
  let (q, s) := s.stamp
  s.modPend (fun p => { p with lq := p.lq ++ [⟨q, k, units⟩] })

/-- Appends a pending store. -/
def State.pushStore (s : State) (k : StoreKind) (units : List (Option Loc × Nat)) : State :=
  let (q, s) := s.stamp
  s.modPend (fun p => { p with stq := p.stq ++ [⟨q, k, units, []⟩] })

/-- A release takes its place among the context's accesses: at once when none is pending, else behind them, so that no later
store comes before what it covers (14 R278). -/
def State.placeRelease (s : State) (scope : Nat) : State :=
  if s.ctx.pend.lq.all (fun o => o.kind.performed) && s.ctx.pend.stq.isEmpty then s.releaseL1 scope
  else s.pushStore (.fence scope) []

/-- Appends a pending vector store, some of whose units are still to be translated. -/
def State.pushVectorStore (s : State) (k : StoreKind) (units : List (Option Loc × Nat)) (late : List (Nat × Word)) : State :=
  let (q, s) := s.stamp
  s.modPend (fun p => { p with stq := p.stq ++ [⟨q, k, units, late⟩] })

/-- Reserves the destination of a scalar result that arrives later: a write of s62 takes its SDQ entry at
issue (03 R57, R58). The result's issue number is the next one. -/
def State.reserveS (s : State) (slot : Nat) (sd : BitVec 6) : Except Stop State :=
  if sd = 62 then s.pushSdq slot ⟨false, s.ctx.pend.seq + 1, none⟩ else .ok s

end Sys2Proof.Machine
end

