-- ==== Sys2Proof/Machine/Array.lean ====
section
/-! DEFINITION. The matrix array: format pairs, rows, accumulation, the loss-scale latch, the feather network
and the performing of drains (09 R180 to R191; 15 R296 to R302). -/

namespace Sys2Proof.Machine

/-- Updates the array of the core in focus. -/
def State.modArr (s : State) (f : ArrayUnit → ArrayUnit) : State :=
  { s with core := { s.core with arr := f s.core.arr } }

/-- A format pair in use (02 R46). -/
structure Pair where
  a : Nat
  b : Nat
  deriving DecidableEq, Repr

/-- The pair in a value of MFP0 or MFP1. -/
def pairIn (v : Word) : Pair := ⟨fld v.toNat 0 5, fld v.toNat 5 5⟩

/-- The pair in use, from the claimant's registers (09 R184). -/
def State.pair (s : State) : Pair := pairIn (if s.core.arr.mfpSel then s.crd.mfp1 else s.crd.mfp0)

/-- The sizes of R181. -/
def Pair.isInt (p : Pair) : Bool := p.a ≤ 1
def Pair.b16 (p : Pair) : Bool := p.a = 0x0A || p.a = 0x0B
def Pair.b4b4 (p : Pair) : Bool := p.a = 0x10 && p.b = 0x10
def Pair.cols (p : Pair) : Nat := if p.b16 then 64 else 128
def Pair.chunk (p : Pair) : Nat := if p.b16 then 16 else 128

/-- An array type of 02 R23: one that a filter bank may record. -/
def arrayType (t : Nat) : Bool := t ≤ 1 || (8 ≤ t && t ≤ 0x0B) || t = 0x10

/-- The value of a code of a type, with its block's scale (02 R31). -/
def codeValue (ty code scale : Nat) : FVal :=
  match typeClass ty with
  | some (.block b) => blockValue b scale code
  | some c => c.value code
  | none => .fin false 0 0

/-- Row i of a tile as 128 exact values: zero beyond the shape (09 R181). -/
def tileRow (t : List (Nat × Byte)) (phys : Nat) (h : Shape) (i : Nat) : List FVal :=
  (List.range 128).map (fun k =>
    if i < h.rows && k < h.cols then codeValue h.type (tileCode t phys h i k) (tileScale t phys h i k)
    else .fin false 0 0)

/-- The code and scale of a weight, seen as the pair's B type; a row pushed under another type holds open
values (assumption log 23). -/
def ArrayUnit.weight (u : ArrayUnit) (tick : Nat) (ty bank k n : Nat) : FVal :=
  match aget none u.wtypes (bank * 128 + k) with
  | none => .fin false 0 0
  | some t =>
    if t = ty then codeValue ty (aget 0 u.weights ((bank * 128 + k) * 128 + n)).toNat
      (aget 0 u.wscales ((bank * 128 + k) * 4 + n / 32)).toNat
    else
      let v := (Config.freeValue (tick + (bank * 128 + k) * 128 + n)).toNat
      codeValue ty (v % 2 ^ typeWidth ty) (v / 2 ^ 32 % 256)

/-- A filter bank's code and scale. -/
def ArrayUnit.filterCode (u : ArrayUnit) (bank k n : Nat) : Nat :=
  (aget 0 u.filters ((bank * 128 + k) * 128 + n)).toNat
def ArrayUnit.filterScale (u : ArrayUnit) (bank k n : Nat) : Nat :=
  (aget 0 u.fscales ((bank * 128 + k) * 4 + n / 32)).toNat

/-- Physical bank that is ACTIVE, and the shadow bank. -/
def ArrayUnit.activeBank (u : ArrayUnit) : Nat := if u.active then 1 else 0
def ArrayUnit.shadowBank (u : ArrayUnit) : Nat := if u.active then 0 else 1

/-- The exact sum of products, and whether it is invalid (02 R46, 09 R183). Infinities of both signs set NV where another
product of the chunk is a NaN too (DESIGN CHOICE, log 72). -/
def chunkSum (ps : List (FVal × Bool)) : FVal × Bool :=
  let v := match ps with
    | [] => FVal.fin false 0 0
    | p :: t => t.foldl (fun a q => (FVal.add 0 a q.1).1) p.1
  (v, ps.any Prod.snd || (ps.any (fun p => p.1 = .inf false) && ps.any (fun p => p.1 = .inf true)))

/-- rne32 of a value that may be invalid. -/
def rneInv (v : FVal × Bool) : Nat × Flags := let x := rne32 v.1; (x.1, x.2 ||| flagIf v.2 fNV)

/-- `accumulate` for a float pair (09 R183): the old pattern and the chunk sums. -/
def accumulateFloat (a : Bool) (old : Nat) (sums : List (FVal × Bool)) : Nat × Flags :=
  let rs := sums.map rneInv
  let start : Nat × Flags × List (Nat × Flags) :=
    if a then (old, 0, rs) else match rs with
      | r :: t => (r.1, r.2, t)
      | [] => (0, 0, [])
  start.2.2.foldl (fun acc r =>
    let x := rneInv (FVal.add 0 (fmtFP32.decode acc.1) (fmtFP32.decode r.1))
    (x.1, acc.2 ||| r.2 ||| x.2)) (start.1, start.2.1)

/-- The integer value of an exact value. -/
def FVal.toInt : FVal → Int
  | .fin neg m e =>
    let n : Int := (m * 2 ^ e.toNat / 2 ^ (-e).toNat : Nat)
    if neg then -n else n
  | _ => 0

/-- `accumulate` for an integer pair (09 R183). -/
def accumulateInt (a : Bool) (old : Nat) (ps : List (FVal × Bool)) : Nat × Flags :=
  let t : IntFmt := ⟨32, true⟩
  let exact := (if a then t.decode old else 0) + ps.foldl (fun z p => z + p.1.toInt) 0
  let w := t.encode exact
  (w, flagIf (t.decode w ≠ exact) fIOV)

/-- `accumulate` of one element from its products. -/
def accumulate (p : Pair) (a : Bool) (old : Nat) (ps : List (FVal × Bool)) : Nat × Flags :=
  if p.isInt then accumulateInt a old ps
  else accumulateFloat a old ((chunks p.chunk ((ps.length + p.chunk - 1) / p.chunk) ps).map chunkSum)

/-- An accumulator element's place. -/
def accKey (acc i j : Nat) : Nat := (acc * 128 + i) * 128 + j
def ArrayUnit.accAt (u : ArrayUnit) (acc i j : Nat) : Nat := (aget 0 u.acc (accKey acc i j)).toNat
def ArrayUnit.setAcc (u : ArrayUnit) (acc i j v : Nat) : ArrayUnit :=
  { u with acc := aset 0 u.acc (accKey acc i j) (BitVec.ofNat 32 v) }

/-- One element of a rescale by 2^d (09 R185). -/
def rescaleElem (d : Int) (v : Nat) : Nat × Flags :=
  match fmtFP32.decode v with
  | .fin neg m e =>
    if m = 0 then (v, 0)
    else
      let x := fmtFP32.round 0 false (.fin neg m (e + d)) .none 0
      if x.2.1 &&& fOF ≠ 0 then (fmtFP32.signed neg fmtFP32.maxCode, fSAT)
      else
        let small := FVal.lt (.fin false m (e + d)) (.fin false 1 (-126))
        (x.1, flagIf small fUF ||| (x.2.1 &&& fNX))
  | _ => (v, 0)

/-- A rescale of a whole accumulator tile. -/
def ArrayUnit.rescale (u : ArrayUnit) (acc : Nat) (d : Int) : ArrayUnit × Flags :=
  let mine := fun (k : Nat) => k / 16384 = acc
  let q := (u.acc.filter (fun p => mine p.1)).map (fun p => (p.1, rescaleElem d p.2.toNat))
  (q.foldl (fun u p => { u with acc := aset 0 u.acc p.1 (BitVec.ofNat 32 p.2.1) }) u,
    q.foldl (fun f p => f ||| p.2.2) 0)

/-- The latch before a beat writes an accumulator tile (09 R185). -/
def ArrayUnit.latch (u : ArrayUnit) (isInt : Bool) (acc : Nat) (ls : BitVec 8) : Except Stop (ArrayUnit × Flags) :=
  let set := fun (u : ArrayUnit) st => { u with accState := aset .empty u.accState acc st }
  match aget .empty u.accState acc with
  | .empty => .ok (set u (if isInt then .int else .flt ls), 0)
  | .int => if isInt then .ok (u, 0) else .error (trapSlot cILLI 4)
  | .flt l =>
    if isInt then .error (trapSlot cILLI 4)
    else if l = ls then .ok (u, 0)
    else
      let r := u.rescale acc (ls.toInt - l.toInt)
      .ok (set r.1 (.flt ls), r.2)

/-- Writes a row of elements into an accumulator tile. -/
def ArrayUnit.setRow (u : ArrayUnit) (acc i : Nat) (xs : List Nat) : ArrayUnit :=
  ((List.range xs.length).zip xs).foldl (fun u p => u.setAcc acc i p.1 p.2) u

/-- A streamed row against a weight bank: the new row and its flags (09 R182). -/
def ArrayUnit.stream (u : ArrayUnit) (tick : Nat) (p : Pair) (bank acc i : Nat) (a : Bool) (x : List FVal) :
    List Nat × Flags :=
  let cells := (List.range p.cols).map (fun n =>
    accumulate p a (u.accAt acc i n)
      (((List.range 128).zip x).map (fun q => FVal.mul q.2 (u.weight tick p.b bank q.1 n))))
  (cells.map Prod.fst, cells.foldl (fun f c => f ||| c.2) 0)

/-- A rank-1 update of a whole tile (09 R182): pairs of rows of A and B. -/
def ArrayUnit.rankOne (u : ArrayUnit) (p : Pair) (acc : Nat) (a : Bool) (xy : List (List FVal × List FVal)) :
    ArrayUnit × Flags :=
  (List.range 128).foldl (fun r i =>
    let cells := (List.range p.cols).map (fun j =>
      let ps := xy.map (fun q => FVal.mul (q.1.getD i (.fin false 0 0)) (q.2.getD j (.fin false 0 0)))
      if p.isInt then accumulateInt a (u.accAt acc i j) ps
      else accumulateFloat a (u.accAt acc i j) [chunkSum ps])
    (r.1.setRow acc i (cells.map Prod.fst), cells.foldl (fun f c => f ||| c.2) r.2)) (u, (0 : Flags))

/-! The group store (15 R296 to R301). -/

/-- A byte of a descriptor. -/
def GroupSlot.byte (g : GroupSlot) (i : Nat) : Nat := (g.bytes.getD i 0).toNat
/-- The action entry (g, k). -/
def GroupSlot.entry (s : GroupSlot) (g k : Nat) : Nat :=
  ofBytes ((s.bytes.drop (0x100 + (128 * g + k) * 8)).take 8)
/-- The Cayley entry (g, h). -/
def GroupSlot.cayley (s : GroupSlot) (n g h : Nat) : Nat :=
  let x := g * n + h
  s.byte (0x40 + x / 2) / 16 ^ (x % 2) % 16

/-- The fields of an action entry (15 R297). -/
def entryA (e : Nat) : Nat := fld e 57 7
def entryB (e : Nat) : Nat := fld e 50 7
def entryTwo (e : Nat) : Bool := e.testBit 49
def entryWA (e : Nat) : Nat := fld e 16 16
def entryWB (e : Nat) : Nat := fld e 0 16
/-- An exact entry (15 R298). -/
def entryExact (e : Nat) : Bool :=
  !(entryTwo e) && (entryWA e = 0x3F80 || entryWA e = 0xBF80) && entryWB e = 0

/-- GRPSTAT (15 R301). -/
def GroupSlot.stat (g : GroupSlot) : Word :=
  let st := match g.st with
    | .empty => 0
    | .validating => 1
    | .valid => 2
    | .failed => 3
  BitVec.ofNat 64 (st + (if g.inexact then 8 else 0) + g.check * 16 + g.fg * 2 ^ 8 + g.fh * 2 ^ 12 +
    g.fk * 2 ^ 16 + g.n * 2 ^ 24 + g.k * 2 ^ 29)

/-- The first case of a check that fails. -/
def firstBad (cases : List (Nat × Nat × Nat)) (ok : Nat → Nat → Nat → Bool) : Option (Nat × Nat × Nat) :=
  cases.find? (fun c => !(ok c.1 c.2.1 c.2.2))

/-- All cases with g slowest, then h, then k. -/
def casesOf (a b c : Nat) : List (Nat × Nat × Nat) :=
  ((List.range a).map (fun g => ((List.range b).map (fun h => (List.range c).map (fun k => (g, h, k)))).flatten)).flatten

/-- The cases (g, h, 0) of the Cayley table and (g, 0, k) of the actions, in the same order. -/
def crossCases (a b c : Nat) : List (Nat × Nat × Nat) :=
  ((List.range a).map (fun g => (List.range c).map (fun k => (g, 0, k)) ++
    (List.range (b - 1)).map (fun h => (g, h + 1, 0)))).flatten

/-- A BF16 pattern is finite. -/
def bfFinite (x : Nat) : Bool := x / 128 % 256 ≠ 255

/-- The checks V1 to V5 of a held descriptor (15 R300): the slot as it stands after them. -/
def GroupSlot.validate (s : GroupSlot) : GroupSlot :=
  let n := s.byte 0
  let K := s.byte 1
  let fail := fun (s : GroupSlot) (v : Nat) (c : Nat × Nat × Nat) =>
    { s with st := .failed, check := v, fg := c.1, fh := c.2.1, fk := c.2.2 }
  let s := { s with n := 0, k := 0, check := 0, fg := 0, fh := 0, fk := 0, inexact := false }
  let header := 1 ≤ n && n ≤ 16 && 1 ≤ K && K ≤ 128 &&
    (List.range 62).all (fun i => s.byte (2 + i) = 0) &&
    (List.range (384 - n * n)).all (fun i =>
      let x := n * n + i
      s.byte (0x40 + x / 2) / 16 ^ (x % 2) % 16 = 0)
  if !header then fail s 1 (0, 0, 0)
  else
    let s := { s with n := n, k := K }
    let cay := s.cayley n
    let e := s.entry
    let action := fun g k =>
      let x := e g k
      if k < K then entryA x < K && fld x 32 17 = 0 && bfFinite (entryWA x) &&
        (if entryTwo x then entryB x < K && bfFinite (entryWB x) else entryB x = 0 && entryWB x = 0)
      else decide (x = 0)
    match firstBad (crossCases n n 128) (fun g h k => (k ≠ 0 || cay g h < n) && (h ≠ 0 || action g k)) with
    | some c => fail s 1 c
    | none =>
    let exact := fun g => (List.range K).all (fun k => entryExact (e g k))
    let s := { s with inexact := !((List.range n).all exact) }
    match firstBad (crossCases 1 n K) (fun _ h k => (k ≠ 0 || (cay 0 h = h && cay h 0 = h)) &&
        (h ≠ 0 || (entryExact (e 0 k) && entryA (e 0 k) = k && entryWA (e 0 k) = 0x3F80))) with
    | some c => fail s 2 c
    | none =>
    match firstBad (casesOf n n 1) (fun g h _ =>
        !((List.range h).any (fun j => cay g j = cay g h)) && !((List.range g).any (fun j => cay j h = cay g h))) with
    | some c => fail s 3 c
    | none =>
    match firstBad (casesOf n n n) (fun g h j => cay (cay g h) j = cay g (cay h j)) with
    | some c => fail s 4 c
    | none =>
    let a := fun g k => entryA (e g k)
    let neg := fun g k => entryWA (e g k) = 0xBF80
    match firstBad (casesOf n 1 K) (fun g _ k => !(exact g) || !((List.range k).any (fun j => a g j = a g k))) with
    | some c => fail s 5 (c.1, c.1, c.2.2)
    | none =>
    match firstBad (casesOf n n K) (fun g h k =>
        !(exact g && exact h) ||
        (exact (cay g h) && a (cay g h) k = a h (a g k) &&
          neg (cay g h) k = (neg g k != neg h (a g k)))) with
    | some c => fail s 5 (c.1, c.2.1, if exact (cay c.1 c.2.1) then c.2.2 else 0)
    | none => { s with st := .valid }

/-! Pushes (09 R186). -/

/-- A filter row fitted to the B type: codes, four scales, flags. -/
def ArrayUnit.featherRow (u : ArrayUnit) (slot : Option GroupSlot) (p : Pair) (k : Nat) :
    List Nat × List Nat × Flags :=
  let F := u.pbank
  let plain := ((List.range 128).map (u.filterCode F k), (List.range 4).map (fun j => u.filterScale F k (32 * j)), (0 : Flags))
  match slot with
  | none => plain
  | some sl =>
    if k ≥ sl.k then plain
    else
      let e := sl.entry u.g k
      let wa := fmtBF16.decode (entryWA e)
      let wb := fmtBF16.decode (entryWB e)
      let val := fun r n => codeValue p.b (u.filterCode F r n) (u.filterScale F r n)
      let v := fun n =>
        let x := FVal.mul wa (val (entryA e) n)
        if entryTwo e then
          let y := FVal.mul wb (val (entryB e) n)
          let z := FVal.add 0 x.1 y.1
          (z.1, x.2 || y.2 || z.2)
        else x
      match typeClass p.b with
      | some (.float f) =>
        let q := (List.range p.cols).map (fun n => f.roundInv 0 false (v n) .none 0)
        (q.map (fun x => x.1), [0, 0, 0, 0], q.foldl (fun fl x => fl ||| x.2.1) 0)
      | some (.int t) =>
        let q := (List.range p.cols).map (fun n => t.ofFloat 0 true (v n).1 .none 0)
        (q.map (fun x => x.1), [0, 0, 0, 0], q.foldl (fun fl x => fl ||| x.2.1) 0)
      | _ =>
        if entryExact e then
          let q := (List.range 128).map (fun n =>
            let c := u.filterCode F (entryA e) n
            if entryWA e = 0x3F80 then (c, (0 : Flags))
            else if u.filterScale F (entryA e) n / 64 = 0 then
              (if c = 8 then (7, fSAT) else ((16 - c) % 16, 0))
            else (c ^^^ 8, 0))
          (q.map Prod.fst, (List.range 4).map (fun j => u.filterScale F (entryA e) (32 * j)),
            q.foldl (fun fl x => fl ||| x.2) 0)
        else
          let bs := (List.range 4).map (fun j =>
            encodeBlock 4 (u.filterScale F (entryA e) (32 * j) / 64) 0 true
              ((List.range 32).map (fun i => (some (v (32 * j + i)).1, 0))) .none)
          let inv := (List.range 128).any (fun n => (v n).2)
          ((bs.map (fun b => b.2.1)).flatten, bs.map (fun b => b.1),
            bs.foldl (fun fl b => fl ||| b.2.2.1) (flagIf inv fNV))

/-- A push into the shadow bank (09 R182, R186). -/
def ArrayUnit.push (u : ArrayUnit) (slot : Option GroupSlot) (p : Pair) : ArrayUnit × Flags :=
  let k := u.pc
  let r := u.featherRow slot p k
  let row := u.shadowBank * 128 + k
  let w := ((List.range 128).zip r.1).foldl
    (fun m q => aset 0 m (row * 128 + q.1) (BitVec.ofNat 16 q.2)) u.weights
  let sc := ((List.range 4).zip r.2.1).foldl (fun m q => aset 0 m (row * 4 + q.1) (BitVec.ofNat 8 q.2)) u.wscales
  let ty := match aget none u.ftypes u.pbank with
    | none => p.b
    | some t => t
  ({ u with weights := w, wscales := sc, wtypes := aput u.wtypes row (some ty), pc := (k + 1) % 128 }, r.2.2)

/-! Drains. -/

/-- The physical tile that a drain writes. -/
def ArrayOp.tile? : ArrayOp → Option Nat
  | .tile p _ => some p
  | .foldTile p _ _ _ _ => some p
  | _ => none

/-- One addition of a fold: rne32(D + exact(w × G)) (09 R190). -/
def foldAdd (d w g : Nat) (l : Int) : Nat × Flags :=
  let x := match fmtFP32.decode g with
    | .fin neg m e => FVal.fin neg m (e - l)
    | v => v
  let y := FVal.mul (fmtBF16.decode w) x
  let z := FVal.add 0 (fmtFP32.decode d) y.1
  rneInv (z.1, z.2 || y.2)

/-- Performs a drain's writes, for the context in focus. Each addition of a fold into SRAM reads and writes its word in
one step, so that a store that another context makes between the two is never lost (DESIGN CHOICE, log 72: R190 leaves it
open). -/
def State.performDrain (s : State) : ArrayOp → State
  | .tile _ bytes =>
    { s with core := { s.core with tiles := bytes.foldl (fun t (b : Nat × Byte) => aset zeroByte t b.1 b.2) s.core.tiles } }
  | .sram us => us.foldl (fun s u => s.writeUnit s.coreId u.1 u.2) s
  | .foldTile phys shape terms g l =>
    let h := shapeOf shape
    terms.foldl (fun s t =>
      let q := ((List.range h.cols).zip g).map (fun c =>
        foldAdd (tileCode s.core.tiles phys h t.1 c.1) t.2 c.2 l)
      let bytes := rowBytes s.core.tiles phys h t.1 (q.map Prod.fst) []
      ({ s with core := { s.core with tiles := bytes.foldl (fun m (b : Nat × Byte) => aset zeroByte m b.1 b.2) s.core.tiles } }).raise
        (q.foldl (fun (f : Flags) (x : Nat × Flags) => f ||| x.2) 0)) s
  | .foldSram terms g l =>
    terms.foldl (fun s t =>
      (t.1.zip g).foldl (fun s c =>
        let bad := s.poisoned c.1 4
        let d := s.readUnit s.coreId c.1 4
        let x := foldAdd (ofBytes d.1) t.2 c.2 l
        let s := (d.2.writeUnit s.coreId c.1 (toBytes x.1 4)).raise x.2
        -- a poisoned operand poisons what comes of it (27 R402)
        if bad then s.setPoison c.1 4 else s) s) s

/-- What the context in focus issued before a drain, and has still to perform, that shares a byte with it: the drain
comes after (14 R281). -/
def State.beforeDrain (s : State) (n : Nat) (us : List (Option Loc × Nat)) : Bool :=
  s.ctx.pend.lq.any (fun o => o.seq ≤ n && !(o.kind.performed) && accessesMeet o.units us) ||
    s.ctx.pend.stq.any (fun w => w.seq ≤ n && (accessesMeet w.units us || s.lateMeets w us))

/-- The oldest drain of the core in focus may be performed. -/
def State.drainTurn (s : State) : Bool :=
  match s.core.arr.queue with
  | [] => false
  | (k, n, op) :: _ => !((s.focus (k / 4) (k % 4)).beforeDrain n op.units)

/-- Performs the oldest drain of the core in focus, when its turn has come (09 R191): drains are performed in issue order, and
the SRAM writes of one in one step, at some point before the next MDRAINW (DESIGN CHOICE, assumption log 82: R191 leaves the
moment of each write open). -/
def State.performArray (s : State) : State :=
  match s.core.arr.queue with
  | [] => s
  | (k, _, op) :: t =>
    if s.drainTurn then (s.modArr (fun u => { u with queue := t })).onCtx k (fun s => s.performDrain op) else s

/-- Performs every drain of the core in focus. -/
def State.drainArray (s : State) : State :=
  (List.range s.core.arr.queue.length).foldl (fun s _ => s.performArray) s

end Sys2Proof.Machine
end

