-- ==== Sys2Proof/Machine/Beats.lean ====
section
/-! DEFINITION. What an M-slot encoding does when it issues: beats, drains and the control sub-operations (09
R182 to R191), and repeats (09 R188). -/

namespace Sys2Proof.Machine

/-- The group slot in use. -/
def State.slotInUse (s : State) : Option GroupSlot :=
  s.core.arr.slot.map (fun n => aget GroupSlot.reset s.core.groups n)

/-- GROUP, with the slot and its GRPSTAT (23 R361). -/
def groupTrap (n : Nat) (g : GroupSlot) : Stop := trapR cGROUP [BitVec.ofNat 64 n, g.stat]

/-- The check of a group slot that an instruction names: a slot still validating holds (15 R299). -/
def State.groupUsable (s : State) (n : Nat) : Except Stop GroupSlot :=
  let g := aget GroupSlot.reset s.core.groups n
  match g.st with
  | .validating => .error .hold
  | .valid => .ok g
  | _ => .error (groupTrap n g)

/-- The check that a push and an OFOLD drain make of the slot in use (09 R186). -/
def State.slotCheck (s : State) : Except Stop Unit :=
  match s.core.arr.slot with
  | none => .ok ()
  | some n => do
    let g ← s.groupUsable n
    require (s.core.arr.g < g.n) (groupTrap n g)

/-- ILLI of the M slot. -/
def illM : Stop := trapSlot cILLI 4

/-- MBEAT (09 R182 to R186), with the LSCALE captured at its first issue. -/
def State.beat (s : State) (p st a w : Bool) (tile row acc arow : Nat) (ainc : Nat) (ls : BitVec 8) :
    Except Stop State := do
  require (!(a && !st)) illM
  if !p && !st && !w then .ok s
  else
    let pr := s.pair
    let u := s.core.arr
    let t ← s.tphys tile
    require (!u.rs || (!p && !w && arow = 0 && ainc = 0)) illM
    let t2 ← if u.rs then s.tphys (tile + 1) else .ok t
    require ((s.shape tile).type = pr.a && (!u.rs || (s.shape (tile + 1)).type = pr.b)) illM
    if p then
      require (match aget none u.ftypes u.pbank with
        | none => true
        | some ty => ty = pr.b) illM
      s.slotCheck
    let rowsOf := fun (ph n : Nat) => (List.range (if pr.b4b4 then 2 else 1)).map (fun h =>
      tileRow s.core.tiles ph (s.shape n) ((row + h) % 128))
    let r1 ← if st then do
        let l ← u.latch pr.isInt acc ls
        if u.rs then
          let x := l.1.rankOne pr acc a ((rowsOf t tile).zip (rowsOf t2 (tile + 1)))
          .ok (x.1, l.2 ||| x.2)
        else
          .ok (((List.range 2).zip (rowsOf t tile)).foldl (fun (r : ArrayUnit × Flags) q =>
            let i := (arow + q.1) % 128
            let x := r.1.stream s.tick pr u.activeBank acc i a q.2
            (r.1.setRow acc i x.1, r.2 ||| x.2)) l)
      else .ok (u, (0 : Flags))
    let r2 := if p then
        let x := r1.1.push s.slotInUse pr
        (x.1, r1.2 ||| x.2)
      else r1
    let v := r2.1
    let v := if w then { v with active := !v.active } else v
    .ok (({ s with core := { s.core with arr := { v with dirty := true } }, tick := s.tick + 1 }).raise r2.2)

/-- An address of the local window (09 R189). -/
def State.localUnits (s : State) (a : Word) (w n : Nat) : Except Stop (List Loc) := do
  require (lwin ≤ a.toNat) (trap cPROT)
  require (a.toNat % w = 0) (trapR cALIGN [a])
  (List.range n).foldlM (fun us c => do
    let r ← s.resolve (a + BitVec.ofNat 64 (c * w)) w .drain 2
    .ok (us ++ [r.1])) []

/-- The number of the context's last access before the drain that it issues: one of a repeat belongs to the bundle that
began it. -/
def State.drainNumber (s : State) : Nat :=
  match s.core.arr.repeat_ with
  | some r => r.after
  | none => s.ctx.pend.seq

/-- Appends a drain. -/
def State.pushDrain (s : State) (op : ArrayOp) : State :=
  s.modArr (fun u => { u with queue := u.queue ++ [(s.here, s.drainNumber, op)], dirty := true })

/-- Clears a row of an accumulator tile. -/
def State.clearRow (s : State) (acc row : Nat) : State :=
  s.modArr (fun u => u.setRow acc row (List.replicate 128 0))

/-- MDRAIN without OFOLD (09 R189). -/
def State.drain (s : State) (acc row : Nat) (sram : Bool) (t drow : Nat) (clr ls : Bool) : Except Stop State := do
  let u := s.core.arr
  require (u.queue.length < 4) .hold
  let st := aget AccState.empty u.accState acc
  let isInt := decide (st = .int)
  require (!(ls && isInt)) illM
  let l : Int := match st with
    | .flt l => if ls then l.toInt else 0
    | _ => 0
  let vals := (List.range 128).map (fun c =>
    let x := u.accAt acc row c
    if isInt then (FVal.ofInt ((⟨32, true⟩ : IntFmt).decode x), true, c)
    else (match fmtFP32.decode x with
      | .fin neg m e => .fin neg m (e - l)
      | v => v, false, c))
  let fmt := s.rd.fmt
  -- an unscaled FP32 pattern that goes to FP32 keeps its bits (02 R29; 09 R173)
  let copies := fun (ty : Nat) => !isInt && decide (l = 0) && ty = 0x0C
  let codes := fun (n : Nat) => (List.range n).map (fun c => u.accAt acc row c)
  let r : State × Flags × Rng ←
    if !sram then do
      let ph ← s.tphys t
      let h := s.shape t
      require (drow < h.rows && !(isInt && h.type = 0x10)) illM
      let x := if copies h.type then (codes h.cols, [], 0, s.rng) else toTileRow h fmt (vals.take h.cols) s.rng
      .ok (s.pushDrain (.tile ph (rowBytes s.core.tiles ph h drow x.1 x.2.1)), x.2.2.1, x.2.2.2)
    else do
      let ty := vetFor fmt s.rd.vtype (if isInt then 0x04 else 0x0C)
      match typeClass ty with
      | some (.block _) => .error illM
      | none => .error illM
      | some c =>
        let w := c.width / 8
        let locs ← s.localUnits (s.readA (BitVec.ofNat 4 t) + BitVec.ofNat 64 (drow * 128 * w)) w 128
        let x := if copies ty then (codes 128, 0, s.rng) else convList (fun k r => match vals[k]? with
          | some (v, i, lane) => convertTo c i (fmtRm fmt) (fmtSat fmt) v r lane
          | none => (0, 0, r)) (List.range 128) s.rng
        .ok (s.pushDrain (.sram ((locs.zip x.1).map (fun q => (q.1, toBytes q.2 w)))), x.2.1, x.2.2)
  let t := (r.1.raise r.2.1).setRng r.2.2
  .ok (if clr then t.clearRow acc row else t)

/-- MDRAIN with OFOLD (09 R190). -/
def State.fold (s : State) (acc row : Nat) (sram : Bool) (t : Nat) (clr ls : Bool) : Except Stop State := do
  let u := s.core.arr
  require (u.queue.length < 4) .hold
  let st := aget AccState.empty u.accState acc
  require (decide (st ≠ .int)) illM
  s.slotCheck
  let l : Int := match st with
    | .flt l => if ls then l.toInt else 0
    | _ => 0
  let g := (List.range 128).map (fun c => u.accAt acc row c)
  let terms : List (Nat × Nat) := match s.slotInUse with
    | none => [(row, 0x3F80)]
    | some sl =>
      if row ≥ sl.k then [(row, 0x3F80)]
      else
        let e := sl.entry u.g row
        (entryA e, entryWA e) :: (if entryTwo e then [(entryB e, entryWB e)] else [])
  let r : State ←
    if !sram then do
      let ph ← s.tphys t
      let h := s.shape t
      require (h.type = 0x0C && terms.all (fun x => x.1 < h.rows)) illM
      .ok (s.pushDrain (.foldTile ph (s.tshape t) terms g l))
    else do
      let n := s.pair.cols
      let rows ← terms.foldlM (fun (rs : List (List Loc × Nat)) x => do
        let locs ← s.localUnits (s.readA (BitVec.ofNat 4 t) + BitVec.ofNat 64 (512 * x.1)) 4 n
        .ok (rs ++ [(locs, x.2)])) []
      .ok (s.pushDrain (.foldSram rows (g.take n) l))
  .ok (if clr then r.clearRow acc row else r)

/-- A filter bank's rows from codes and scales (09 R187, 10 R220): the other bank is kept. -/
def ArrayUnit.loadFilter (u : ArrayUnit) (bank ty : Nat) (code scale : Nat → Nat → Nat) : ArrayUnit :=
  let fill := fun (rows cols : Nat) (f : Nat → Nat → Nat) =>
    ((List.range rows).map (fun i => (List.range cols).filterMap (fun j =>
      if f i j = 0 then none else some ((bank * rows + i) * cols + j, f i j)))).flatten
  let cs := (fill 128 128 code).map (fun p => (p.1, BitVec.ofNat 16 p.2))
  let ss := (fill 128 4 scale).map (fun p => (p.1, BitVec.ofNat 8 p.2))
  let merge := fun {n : Nat} (old new : List (Nat × BitVec n)) (size : Nat) =>
    if bank = 0 then new ++ old.filter (fun p => size ≤ p.1) else old.filter (fun p => p.1 < size) ++ new
  { u with filters := merge u.filters cs 16384, fscales := merge u.fscales ss 512,
           ftypes := aput u.ftypes bank (some ty) }

/-- The control sub-operations (09 R187). -/
def State.mctl (s : State) : Instr → Except Stop State
  | .mgsel g =>
    match s.core.arr.slot with
    | none =>
      if g = 0 then .ok (s.modArr (fun u => { u with g := 0 })) else .error (trap cGROUP)
    | some n => do
      let sl ← s.groupUsable n
      require (g.toNat < sl.n) (groupTrap n sl)
      .ok (s.modArr (fun u => { u with g := g.toNat }))
  | .mmode rs => .ok (s.modArr (fun u => { u with rs := rs = 1 }))
  | .mfmt sel =>
    let now := s.pair
    let next := pairIn (if sel = 1 then s.crd.mfp1 else s.crd.mfp0)
    if s.core.arr.dirty && next ≠ now then .error illM
    else .ok (s.modArr (fun u => { u with mfpSel := sel = 1 }))
  | .mdrainw =>
    if s.core.arr.queue.isEmpty then .ok (s.modArr (fun u => { u with dirty := false })) else .error .hold
  | .mfload t bank => do
    let ph ← s.tphys t.toNat
    let h := s.shape t.toNat
    require (arrayType h.type) illM
    let n := if h.type = 0x0A || h.type = 0x0B then 64 else 128
    let code := fun i j => if i < h.rows && j < h.cols && j < n then tileCode s.core.tiles ph h i j else 0
    let scale := fun i j => if h.type = 0x10 && i < h.rows && j < h.scalePitch then
        tileScale s.core.tiles ph h i (32 * j) else 0
    .ok (s.modArr (fun u => { u.loadFilter bank.toNat h.type code scale with lbank := bank.toNat }))
  | .mzero acc =>
    .ok (s.modArr (fun u => { u with
      acc := u.acc.filter (fun p => p.1 / 16384 ≠ acc.toNat),
      accState := aset .empty u.accState acc.toNat .empty }))
  | .mguse slot => do
    let _ ← s.groupUsable slot.toNat
    .ok (s.modArr (fun u => { u with slot := some slot.toNat, g := 0 }))
  | .mrstp => .ok (s.modArr (fun u => { u with pc := 0, pbank := u.lbank }))
  | _ => .ok s

/-- A beat or a drain as formed, with the LSCALE captured at its first issue. -/
def State.mrun (s : State) (ls : BitVec 8) : Instr → Except Stop State
  | .mbeat p st a w tile row acc arow _ ainc =>
    s.beat (p = 1) (st = 1) (a = 1) (w = 1) tile.toNat row.toNat acc.toNat arow.toNat ainc.toNat ls
  | .mdrain acc row sram t drow clr l _ _ =>
    s.drain acc.toNat row.toNat (sram = 1) t.toNat drow.toNat (clr = 1) (l = 1)
  | .mdrainOfold acc row sram t clr l _ =>
    s.fold acc.toNat row.toNat (sram = 1) t.toNat (clr = 1) (l = 1)
  | i => s.mctl i

/-- The pending MREP count of the running mode (09 R188). -/
def Ctx.mrepNow (c : Ctx) : Option Nat := if c.mode = .handler then c.pend.mrepHandler else c.pend.mrep
def State.setMrep (s : State) (n : Option Nat) : State :=
  s.modPend (fun p => if s.ctx.mode = .handler then { p with mrepHandler := n } else { p with mrep := n })

/-- The M slot holds while a repeat is active, and needs the array claim (03 R49, 09 R188). -/
def State.mslot (s : State) : Except Stop Unit := do
  require (s.core.arr.claim = some s.ctxId) illM
  require s.core.arr.repeat_.isNone .hold

/-- Issues a beat or a drain, and starts the pending repeat (09 R188). -/
def State.missue (s : State) (i : Instr) : Except Stop State := do
  s.mslot
  let ls := (s.rd.lscale.truncate 8 : BitVec 8)
  let t ← s.mrun ls i
  match s.ctx.mrepNow with
  | none => .ok t
  | some n =>
    let t := t.setMrep none
    .ok (if n ≤ 1 then t
      else t.modArr (fun u => { u with repeat_ := some ⟨i, n - 1, s.here, ls, s.ctx.pc, s.ctx.mode, s.ctx.pend.seq⟩ }))

/-- Issues a control sub-operation: with a pending MREP it raises ILLI (09 R188). -/
def State.mcontrol (s : State) (i : Instr) : Except Stop State := do
  s.mslot
  require s.ctx.mrepNow.isNone (.trap cILLI [4] .mrep)
  s.mctl i

/-- One reissue of the active repeat of the core in focus, for its context (09 R188). The last one leaves the final form
in the slot history of the mode that began it (03 R63); a handler's history is gone once it has returned. A reissued MDRAIN
reads FMT, VTYPE and its a register as they stand at the reissue (DESIGN CHOICE, assumption log 82: R185 captures LSCALE alone at
the first issue). -/
def State.reissue (s : State) (r : Repeat) : Except Stop State :=
  let i := Instr.repeated r.i
  match s.mrun r.ls i with
  | .error e => .error e
  | .ok t =>
    let t := if t.ctx.mode = r.mode then { t with ctx := t.ctx.setHist (aput t.ctx.histNow 4 i) } else t
    .ok (t.modArr (fun u => { u with
      repeat_ := if r.left ≤ 1 then none else some { r with i := i, left := r.left - 1 } }))

end Sys2Proof.Machine
end

