-- ==== Sys2Proof/Machine/Moves.lean ====
section
/-! DEFINITION. The issue and the completion of V slots and X-slot moves (08 R144 to R152, R155; 09 R173 to
R179), and the shadows of exposed latency (03 R65). -/

namespace Sys2Proof.Machine

/-! V slots. -/

/-- Appends a result in flight under the next issue number. -/
def State.launch (s : State) (f : Flight) : State :=
  let (q, s) := s.stamp
  s.modPend (fun p => { p with flight := p.flight ++ [(q, f)] })

/-- Pops n vector entries of LDQ (08 R151): a scalar head raises QORDER even where none is popped (08
R144). The head is the one that the field meets, after the pops of the fields before it (DESIGN CHOICE, assumption log 82: 03 R57, R58;
R144's pseudocode tests it before the slot's pops). -/
def State.popVectors (s : State) (n : Nat) : Except Stop (List VReg × State) :=
  let es := s.ctx.pend.ldq.take n
  match s.ctx.pend.ldq with
    | .scalar _ :: _ => .error (trapSlot cQORDER 3)
    | _ =>
      if n = 0 then .ok ([], s)
      else if es.length < n then .error .block
      else
        match es.mapM (fun e => match e with
          | .vector v _ => some v
          | .scalar _ => none) with
        | some vs => .ok (vs, s.modPend (fun p => { p with ldq := p.ldq.drop n }))
        | none => .error (trapSlot cQORDER 3)

/-- The registers of a group in the window, or VWIN with the register code (03 R55). -/
def State.vgroup (s : State) (c n : Nat) : Except Stop (List VReg) :=
  (List.range n).mapM (fun k => do
    let ph ← s.vphys (c + k)
    .ok (s.getV ph))

/-- Captures the operand of field f (08 R144, R151, R152). -/
def State.vfield (s : State) (h : Hcw) (vtype : Word) (vl f c : Nat) : Except Stop (Option Operand × State) := do
  let n := h.groupOf vtype f
  if !(h.reads.getD f false) then .ok (none, s)
  else if c < 384 then
    let rs ← s.vgroup c n
    .ok (some (.group rs), s)
  else if c = 384 then
    let r ← s.popVectors (h.pops vtype vl f)
    .ok (some (.group ((r.1 ++ List.replicate n 0).take n)), r.2)
  else if 448 ≤ c then
    let r ← s.readS 3 (BitVec.ofNat 6 (c - 448))
    .ok (some (.value r.1), r.2)
  else .ok (none, s)

/-- Captures the operands of the four fields in order. -/
def State.vfields (s : State) (h : Hcw) (vtype : Word) (vl : Nat) :
    List (Nat × Nat) → Except Stop (List (Nat × Operand) × State)
  | [] => .ok ([], s)
  | (f, c) :: t => do
    let r ← s.vfield h vtype vl f c
    let q ← r.2.vfields h vtype vl t
    .ok ((match r.1 with
      | some o => (f, o) :: q.1
      | none => q.1), q.2)

/-- Reserves n SDQ entries for the next issue number. -/
def State.reserveSdq (s : State) (slot : Nat) (vec : Bool) : Nat → Except Stop State
  | 0 => .ok s
  | n + 1 => do
    let t ← s.pushSdq slot ⟨vec, s.ctx.pend.seq + 1, none⟩
    t.reserveSdq slot vec n

/-- Issues the V slot (08 R144). Of two registers outside the window the sources come first in the order of their fields, then
DST, then MREG (DESIGN CHOICE, assumption log 82: R144 and R55 order them not). -/
def State.vissue (s : State) (idx roff : Nat) : Except Stop State := do
  require (aget false s.ctx.hcwGood idx) (trapR cHCW [BitVec.ofNat 64 idx])
  let ent := aget 0 s.ctx.hcw idx
  let h := hcwOf ent
  let add := fun (c : Nat) => if c < 384 then c + 8 * roff else c
  let codes := h.src.map add
  let dst := add h.dst
  let beyond := ((((h.src.zip h.reads).filter (fun q => q.2)).map Prod.fst ++ [h.dst]).find? (fun c =>
    decide (c < 384 ∧ 384 ≤ add c)))
  match beyond with
  | some c => Except.error (trapR cVWIN [BitVec.ofNat 64 (add c)])
  | none => Except.ok ()
  let vtype := s.rd.vtype
  let vl := s.rd.vl.toNat
  require (h.structOk vtype codes dst) (trapSlot cILLI 3)
  let n := h.dstGroup vtype + (if h.ops.contains 0x41 then 1 else 0)
  -- every register operand is checked before anything is popped
  let _ ← ([0, 1, 2, 3].filter (fun f => h.reads.getD f false && codes.getD f 0 < 384)).mapM
    (fun f => s.vgroup (codes.getD f 0) (h.groupOf vtype f))
  let _ ← if dst < 384 then s.vgroup dst n else .ok []
  let mask ← if h.men then s.vgroup h.mreg 1 else .ok [0]
  let r ← s.vfields h vtype vl ((List.range 4).zip codes)
  let s := r.2
  let f : VFlight := {
    idx := idx, entry := ent, roff := roff, ops := r.1, mask := mask.headD 0, vl := vl, vtype := vtype, fmt := s.rd.fmt,
    gens := s.ctx.gens, seed := s.ctx.genSeed, base := vwinBase s.ctx.cr.vwin }
  let s ← s.reserveSdq 3 true (h.pushes vtype vl)
  let s := if h.rnd = 5 then s.setRng (vcompute f s.coreId).rng else s
  .ok (s.launch (.v f))

/-- A V slot completes (08 R155): the write of DST, the reserved SDQ entries, the flags. -/
def State.completeV (s : State) (seq : Nat) (f : VFlight) : State :=
  let o := vcompute f s.coreId
  let s := o.regs.foldl (fun s r => s.putV (f.base + r.1) r.2.1 r.2.2) s
  let s := s.modPend (fun p => { p with sdq := fillSdq seq o.sdq p.sdq })
  s.raise o.flags

/-! X-slot moves. -/

/-- The scalar class of the vector type of a move; none for a type that a move does not take. -/
def XFlight.vet (f : XFlight) (tile : Nat) : Nat := vetFor f.fmt f.vtype tile

/-- A code of a row image, and the scale of its block. -/
def rowCode (h : Shape) (src : List Byte) (c : Nat) : Nat :=
  let w := typeWidth h.type
  if w = 4 then (src.getD (c / 2) 0).toNat / 16 ^ (c % 2) % 16
  else ofBytes ((src.drop (c * (w / 8))).take (w / 8))
def rowScale (h : Shape) (src : List Byte) (c : Nat) : Nat := (src.getD (h.pitch + c / 32) 0).toNat

/-- The bytes of a tile row: its codes, and its scales for B4. -/
def rowImage (t : List (Nat × Byte)) (ph : Nat) (h : Shape) (i : Nat) : List Byte :=
  (List.range h.pitch).map (fun b => tileByte t ph (i * h.pitch + b)) ++
    (if h.type = 0x10 then (List.range h.scalePitch).map (fun j =>
      tileByte t ph (h.rows * h.pitch + i * h.scalePitch + j)) else [])

/-- One row of a conversion between tiles: codes, scales, flags, generators (09 R178). -/
def unpackRow (hs hd : Shape) (fmt : Word) (src : List Byte) (r : Rng) : List Nat × List Nat × Flags × Rng :=
  if hs.type = hd.type then
    ((List.range hs.cols).map (rowCode hs src), (List.range hs.scalePitch).map (fun j => rowScale hs src (32 * j)), 0, r)
  else match typeClass hd.type with
    | some (.block _) =>
      let isInt := isIntType hs.type
      toTileRow hd fmt ((List.range hs.cols).map (fun c =>
        (codeValue hs.type (rowCode hs src c) (rowScale hs src c), isInt, c))) r
    | some dst =>
      let x := convList (fun c r => fromTile hs (rowCode hs src c) (rowScale hs src c) dst fmt r c)
        (List.range hs.cols) r
      (x.1, [], x.2.1, x.2.2)
    | none => ([], [], 0, r)

/-- What a move writes, from what it captured (09 R173 to R178). -/
def XFlight.compute (f : XFlight) (core : Nat) : XWrite × Flags × Rng :=
  let r0 : Rng := ⟨f.seed, core, f.gens⟩
  let hd := shapeOf f.shapeD
  let hs := shapeOf f.shapeS
  let all : VReg := BitVec.allOnes 4096
  match f.i with
  | .twrow _ row _ =>
    let v := f.vet hd.type
    let w := typeWidth v
    let reg : VReg := wordOf 4096 f.src
    if v = hd.type then
      (.tile (rowBytes [] f.dst hd row.toNat ((List.range hd.cols).map (velem reg w)) []), 0, r0)
    else
      let x := toTileRow hd f.fmt ((List.range hd.cols).map (fun c =>
        (codeValue v (velem reg w c) 0, isIntType v, laneOf w c))) r0
      (.tile (rowBytes [] f.dst hd row.toNat x.1 x.2.1), x.2.2.1, x.2.2.2)
  | .trrow _ _ _ =>
    let v := f.vet hs.type
    let w := typeWidth v
    match typeClass v with
    | some c =>
      let x := if v = hs.type then ((List.range hs.cols).map (rowCode hs f.src), 0, r0)
        else convList (fun k r => fromTile hs (rowCode hs f.src k) (rowScale hs f.src k) c f.fmt r (laneOf w k))
          (List.range hs.cols) r0
      (.reg f.dst (vofElems w x.1) all, x.2.1, x.2.2)
    | none => (.reg f.dst 0 0, 0, r0)
  | .trcol _ _ _ =>
    let v := f.vet hs.type
    let w := typeWidth v
    let n := if hs.type = 0x10 then 2 else typeWidth hs.type / 8
    let code := fun i => let b := (f.src.drop (i * n)).take n
      if hs.type = 0x10 then (b.headD 0).toNat else ofBytes b
    let scale := fun i => (f.src.getD (i * n + 1) 0).toNat
    match typeClass v with
    | some c =>
      let x := if v = hs.type then ((List.range hs.rows).map code, 0, r0)
        else convList (fun k r => fromTile hs (code k) (scale k) c f.fmt r (laneOf w k)) (List.range hs.rows) r0
      (.reg f.dst (vofElems w x.1) all, x.2.1, x.2.2)
    | none => (.reg f.dst 0 0, 0, r0)
  | .tunpk _ _ =>
    let len := hs.pitch + (if hs.type = 0x10 then hs.scalePitch else 0)
    let q := (List.range hs.rows).foldl (fun (a : List (Nat × Byte) × Flags × Rng) i =>
      let x := unpackRow hs hd f.fmt ((f.src.drop (i * len)).take len) a.2.2
      (a.1 ++ rowBytes [] f.dst hd i x.1 x.2.1, a.2.1 ||| x.2.2.1, x.2.2.2)) ([], (0 : Flags), r0)
    (.tile q.1, q.2.1, q.2.2)
  | .movvs sd _ _ => (.scalar sd.toNat (wordOf 64 f.src), 0, r0)
  | .movsv _ _ lane =>
    let sh := 32 * lane.toNat
    let v := (f.ops.headD 0).toNat % 2 ^ 32
    (.reg f.dst (BitVec.ofNat 4096 (v * 2 ^ sh)) (BitVec.ofNat 4096 ((2 ^ 32 - 1) * 2 ^ sh)), 0, r0)
  | _ => (.tile [], 0, r0)

/-- Issues a captured move: its stochastic draws are taken at issue. -/
def State.moveIssue (s : State) (f : XFlight) : State :=
  let s := if fmtRm f.fmt = 5 then s.setRng (f.compute s.coreId).2.2 else s
  s.launch (.x f)

/-- A move with what it captures. -/
def State.captured (s : State) (i : Instr) (src : List Byte) (ops : List Word) (td ts : Nat) (dst : Nat) : XFlight :=
  { i := i, src := src, ops := ops, fmt := s.rd.fmt, vtype := s.rd.vtype, vl := s.rd.vl.toNat,
    shapeD := s.tshape td, shapeS := s.tshape ts, gens := s.ctx.gens, seed := s.ctx.genSeed, dst := dst }

/-- ILLI of the X slot. -/
def illX : Stop := trapSlot cILLI 5

/-- The vector type and the tile type of a move agree (09 R173). -/
def State.moveTypes (s : State) (tile : Nat) : Except Stop Unit :=
  let v := vetFor s.rd.fmt s.rd.vtype tile
  require (!(tile = 0x10 && isIntType v)) illX

/-- Issues an X-slot encoding other than LDT (09 R174 to R178). Of two operands outside their windows the first in the order
of the checks here is reported (DESIGN CHOICE, assumption log 82). -/
def State.xissue (s : State) (i : Instr) : Except Stop State := do
  let live := if s.ctx.mode = .user then 6 else 5
  match i with
  | .xcopy vd vs lgd lgs =>
    let d ← s.vphys vd.toNat
    let v ← s.vphys vs.toNat
    let data : BitVec 512 := (s.getV v).extractLsb' (512 * lgs.toNat) 512
    let (q, s) := s.stamp
    .ok (s.modPend (fun p => { p with shadows := p.shadows ++
      [⟨q, live, ((encode i).getD 0), .lanes d vd.toNat lgd.toNat data⟩] }))
  | .xbcast vd vs lgs =>
    let d ← s.vphys vd.toNat
    let v ← s.vphys vs.toNat
    let data : BitVec 512 := (s.getV v).extractLsb' (512 * lgs.toNat) 512
    let (q, s) := s.stamp
    .ok (s.modPend (fun p => { p with shadows := p.shadows ++
      [⟨q, live, ((encode i).getD 0), .lanes d vd.toNat 8 data⟩] }))
  | .twrow t row vs =>
    let v ← s.vphys vs.toNat
    let ph ← s.tphys t.toNat
    require (row.toNat < (s.shape t.toNat).rows) illX
    s.moveTypes (s.shape t.toNat).type
    .ok (s.moveIssue (s.captured i (bytesOf (s.getV v)) [] t.toNat t.toNat ph))
  | .trrow vd t row =>
    let d ← s.vphys vd.toNat
    let ph ← s.tphys t.toNat
    let h := s.shape t.toNat
    require (row.toNat < h.rows) illX
    s.moveTypes h.type
    .ok (s.moveIssue (s.captured i (rowImage s.core.tiles ph h row.toNat) [] t.toNat t.toNat d))
  | .trcol vd t col =>
    let d ← s.vphys vd.toNat
    let ph ← s.tphys t.toNat
    let h := s.shape t.toNat
    require (col.toNat < h.cols) illX
    s.moveTypes h.type
    let n := typeWidth h.type / 8
    let src := ((List.range h.rows).map (fun r =>
      let c := tileCode s.core.tiles ph h r col.toNat
      if h.type = 0x10 then [BitVec.ofNat 8 c, BitVec.ofNat 8 (tileScale s.core.tiles ph h r col.toNat)]
      else toBytes c n)).flatten
    .ok (s.moveIssue (s.captured i src [] t.toNat t.toNat d))
  | .tunpk td ts =>
    let d ← s.tphys td.toNat
    let ph ← s.tphys ts.toNat
    let hd := s.shape td.toNat
    let hs := s.shape ts.toNat
    require (hd.rows = hs.rows && hd.cols = hs.cols) illX
    require (!((hd.type = 0x10 && isIntType hs.type) || (hs.type = 0x10 && isIntType hd.type))) illX
    let src := ((List.range hs.rows).map (rowImage s.core.tiles ph hs)).flatten
    .ok (s.moveIssue (s.captured i src [] td.toNat ts.toNat d))
  | .movvs sd vs lane =>
    let v ← s.vphys vs.toNat
    let s ← s.reserveS 5 sd
    .ok (s.launch (.x (s.captured i (toBytes ((s.getV v).toNat / 2 ^ (32 * lane.toNat)) 4) [] 0 0 0)))
  | .movsv vd sa _ =>
    let d ← s.vphys vd.toNat
    let r ← s.readS 5 sa
    .ok (r.2.launch (.x (r.2.captured i [] [r.1] 0 0 d)))
  | _ => .ok s

/-- A move completes (09 R173, R179). -/
def State.completeX (s : State) (seq : Nat) (f : XFlight) : State :=
  let o := f.compute s.coreId
  let s := match o.1 with
    | .tile bytes => { s with core := { s.core with
        tiles := bytes.foldl (fun t (b : Nat × Byte) => aset zeroByte t b.1 b.2) s.core.tiles } }
    | .reg vd v m => s.putV vd v m
    | .scalar sd v => s.lateS seq sd v
  s.raise o.2.1

/-- A result in flight lands. -/
def State.complete (s : State) (seq : Nat) : Flight → State
  | .v f => s.completeV seq f
  | .x f => s.completeX seq f

/-- The first result in flight of a kind. -/
def firstFlight (isV : Bool) (l : List (Nat × Flight)) : Option (Nat × Flight) :=
  l.find? (fun q => match q.2 with
    | .v _ => isV
    | .x _ => !isV)

/-- Completes the first V slot, or the first move, in flight; a re-injected result does not come before its
cycle (23 R363). -/
def State.completeFirst (s : State) (isV : Bool) : State :=
  match firstFlight isV s.ctx.pend.flight with
  | some (q, f) =>
    (s.modPend (fun p => { p with flight := p.flight.filter (fun x => x.1 ≠ q) })).complete q f
  | none => s

/-- A shadow write lands (03 R65). -/
def State.land (s : State) (sh : Shadow) : State :=
  match sh.write with
  | .fmt v => s.modRegs (fun r => { r with fmt := v })
  | .lanes reg _ lg data =>
    (List.range 8).foldl (fun s k =>
      if lg = k || lg = 8 then
        s.putV reg (data.zeroExtend 4096 <<< (512 * k)) ((BitVec.allOnes 512).zeroExtend 4096 <<< (512 * k))
      else s) s

/-- The physical registers that a result in flight writes. -/
def Flight.regs : Flight → List Nat
  | .v f =>
    let h := hcwOf f.entry
    if h.dst < 384 then
      (List.range (h.dstGroup f.vtype + (if h.ops.contains 0x41 then 1 else 0))).map
        (fun k => f.base + h.dst + 8 * f.roff + k)
    else []
  | .x f => match f.i with
    | .trrow _ _ _ => [f.dst]
    | .trcol _ _ _ => [f.dst]
    | .movsv _ _ _ => [f.dst]
    | _ => []

/-- The physical tile that a result in flight writes. -/
def Flight.tile? : Flight → Option Nat
  | .x f => match f.i with
    | .twrow _ _ _ => some f.dst
    | .tunpk _ _ => some f.dst
    | _ => none
  | .v _ => none

/-- The scalar register that a result in flight writes. -/
def Flight.scalar? : Flight → Option Nat
  | .x f => match f.i with
    | .movvs sd _ _ => some sd.toNat
    | _ => none
  | .v _ => none

/-- A shadow may land: its count is spent, and no result of an earlier bundle is still to be written to its
register (03 R65). -/
def State.canLand (s : State) (sh : Shadow) : Bool :=
  sh.remain = 0 && match sh.write with
    | .fmt _ => true
    | .lanes reg _ _ _ => !(s.ctx.pend.flight.any (fun f => f.2.regs.contains reg)) &&
        !(s.ctx.pend.reinject.any (fun f => f.2.2.regs.contains reg))

/-- Two shadows write one register. -/
def ShadowWrite.meets : ShadowWrite → ShadowWrite → Bool
  | .fmt _, .fmt _ => true
  | .lanes a _ _ _, .lanes b _ _ _ => a = b
  | _, _ => false

/-- The shadows that may land: none before an earlier one of its register, whose count a handler may have edited (23
R363). -/
def landing (ok : Shadow → Bool) : List Shadow → List Shadow → List Shadow
  | _, [] => []
  | kept, sh :: t =>
    if ok sh && !(kept.any (fun k => k.write.meets sh.write)) then sh :: landing ok kept t else landing ok (sh :: kept) t

/-- Lands the shadows whose time has come, in the order of their bundles. -/
def State.landShadows (s : State) : State :=
  let go := landing s.canLand [] s.ctx.pend.shadows
  let s := s.modPend (fun p => { p with shadows := p.shadows.filter (fun x => !(go.contains x)) })
  go.foldl (fun s sh => s.land sh) s

/-- A write of FMT: it lands by its shadow (03 R65, 07 R123). The count of the writing bundle is included. -/
def State.setFmt (s : State) (v : Word) : State :=
  let (q, s) := s.stamp
  let live := if s.ctx.mode = .user then 5 else 4
  s.modPend (fun p => { p with shadows := p.shadows ++ [⟨q, live, 0, .fmt v⟩] })

end Sys2Proof.Machine
end

