-- ==== Sys2Proof/Machine/Settle.lean ====
section
/-! DEFINITION. Running what a context has issued to completion: the active repeat, accesses with the results that their data
comes from, and drains (09 R188; 11 R236; 23 R358 step 2). -/

namespace Sys2Proof.Machine

/-- Runs the active repeat of the context in focus to its end; a trap at a reissue ends it, and a fault for the host
leaves it where it stands (09 R188; 23 R365). -/
def State.runRepeat (s : State) : Nat → State × Option (Stop × Word)
  | 0 => (s, none)
  | n + 1 =>
    match s.core.arr.repeat_ with
    | none => (s, none)
    | some r =>
      if r.ctx ≠ s.here then (s, none)
      else match s.reissue r with
        | .ok t => t.runRepeat n
        | .error .hold =>
          if s.core.arr.queue.isEmpty then (s, none) else s.performArray.runRepeat n
        | .error (.trap c rec x) => (s.modArr (fun u => { u with repeat_ := none }), some (.trap c rec x, r.pc))
        | .error e => (s, some (e, r.pc))

/-- The result to come that gives an SDQ entry which an issued store has claimed. -/
def Pending.feeder (p : Pending) : Option (Nat × Flight) :=
  (p.sdq.take p.claims.length).findSome? (fun e =>
    if e.data.isSome then none
    else ((p.reinject.map (fun r => (r.2.1, r.2.2))) ++ p.flight).find? (fun q => q.1 = e.owner))

/-- Performs every access that can complete: the results that claimed SDQ entries wait for are written first, since an
access runs to completion (23 R358 step 2). -/
def State.settleFed (s : State) : Nat → State
  | 0 => s.settle
  | n + 1 =>
    let s := s.settle
    match s.ctx.pend.feeder with
    | none => s
    | some q => (((s.modPend (fun p => { p with
        flight := p.flight.filter (fun x => x.1 ≠ q.1),
        reinject := p.reinject.filter (fun x => x.2.1 ≠ q.1) })).complete q.1 q.2)).settleFed n

/-- Performs what the context has issued, with the results that its stores wait for. -/
def State.settleAll (s : State) : State := s.settleFed (s.ctx.pend.flight.length + s.ctx.pend.reinject.length)

/-- Performs every access that the context has issued, drains among them: a drain may wait for an access, and an access for a
drain. -/
def State.finishIssued (s : State) : State :=
  ((List.range s.core.arr.queue.length).foldl (fun s _ => s.settleAll.drainArray) s).settleAll

/-- A release by which a task ends: everything it has issued is performed (14 R279; 22 R350). -/
def State.lastRelease (s : State) (scope : Nat) : State := s.finishIssued.releaseL1 scope

/-- Everything that earlier bundles issued runs to completion as far as it can: accesses, the active repeat and drains (23
R358 step 2). -/
def State.quiesce (s : State) : State × Option (Stop × Word) :=
  let r := s.runRepeat 0x6000
  (r.1.finishIssued, r.2)

end Sys2Proof.Machine
end

