-- ==== Sys2Proof/Machine/Barriers.lean ====
section
/-! DEFINITION. Barrier objects, signal objects and continuation records (11 R223 to R239), and the task
entries that continuations wake (22 R348, R349). -/

namespace Sys2Proof.Machine

/-! Task entries. A table of tasks lists each live task under the index of its entry, below 0x4000; a task
that has ended and still takes part in a family stands under its TASKID, which is at least 0x4000. -/

/-- Where a task is listed. -/
def Part.taskKey (q : Part) (id : Nat) : Option Nat :=
  match afind q.tasks (id % 0x4000) with
  | some t => if t.id = id then some (id % 0x4000) else if (afind q.tasks id).isSome then some id else none
  | none => if (afind q.tasks id).isSome then some id else none

/-- A task by its TASKID. -/
def Part.task? (q : Part) (id : Nat) : Option Task := (q.taskKey id).bind (afind q.tasks)

/-- Changes a task. -/
def Part.modTask (q : Part) (id : Nat) (f : Task → Task) : Part :=
  match q.taskKey id with
  | some k => match afind q.tasks k with
    | some t => { q with tasks := aput q.tasks k (f t) }
    | none => q
  | none => q

/-- Changes a partition. -/
def State.modPart (s : State) (p : Nat) (f : Part → Part) : State := s.setPart p (f (s.getPart p))

/-- The bin of a task in a privileged queue (22 R355). -/
def Task.bin (t : Task) : Nat :=
  let f := t.job.firstop.toNat
  fld f 16 4 ^^^ fld f 20 4 ^^^ fld f 24 4 ^^^ fld f 28 4

/-- Inserts a task before the first that it precedes. -/
def insertTask (lt : Task → Task → Bool) (t : Task) : List Task → List Task
  | [] => [t]
  | x :: r => if lt t x then t :: x :: r else x :: insertTask lt t r

/-- The ready tasks of a partition, ordered. -/
def Part.readyBy (q : Part) (lt : Task → Task → Bool) : List Task :=
  ((q.tasks.map Prod.snd).filter (fun t => t.st = .ready)).foldl (fun l t => insertTask lt t l) []

/-- A queue drains by locality bins (22 R349). -/
def Part.isPriv (q : Part) (n : Nat) : Bool := (aget 1 q.tqcfg n).testBit 1

/-- The turn of a privileged queue: the one in progress while a task of it waits, else the next (22 R355). -/
def Part.nextTurn (q : Part) (n : Nat) : Part :=
  let ready := (q.readyBy (fun a b => a.order < b.order)).filter (fun t => t.queue = n)
  let left := match afind q.turns n with
    | some t => t.2.filter (fun id => ready.any (fun x => x.id = id))
    | none => []
  if !(left.isEmpty) then { q with turns := aput q.turns n ((aget (0, []) q.turns n).1, left) }
  else
    let start := match afind q.turns n with
      | some t => t.1 + 1
      | none => 0
    match ((List.range 16).map (fun i => (start + i) % 16)).find? (fun b => ready.any (fun t => t.bin = b)) with
    | some b => { q with turns := aput q.turns n (b, (ready.filter (fun t => t.bin = b)).map Task.id) }
    | none => { q with turns := match afind q.turns n with
        | some t => aput q.turns n (t.1, [])
        | none => q.turns }

/-- A ready task admits a crew (19 R331; 22 R353). -/
def Task.admits (t : Task) (crew : Nat) : Bool := t.crews.testBit crew && (t.views.isEmpty || t.crew = crew)

/-- The order of the candidates: by deadline, then by readiness. -/
def Task.precedes (a b : Task) : Bool := a.deadline.ult b.deadline || (a.deadline = b.deadline && a.order < b.order)

/-- The task that a privileged queue puts forward for a purpose: the first of its current turn that is ready and serves it
(22 R355). -/
def Part.forward (q : Part) (n : Nat) (serves : Task → Bool) : Option Nat :=
  (aget (0, []) q.turns n).2.find? (fun id => (q.task? id).any (fun t => t.st = .ready && serves t))

/-- The ready tasks that serve a purpose, ranked by deadline: a privileged queue sends one (22 R353, R355). -/
def Part.ranked (q : Part) (serves : Task → Bool) : List Task :=
  (q.readyBy Task.precedes).filter (fun t => serves t && (!(q.isPriv t.queue) || q.forward t.queue serves = some t.id))

/-- The top-ranked ready task that admits a crew (22 R357). -/
def Part.foremost (q : Part) (crew : Nat) : Option Task := (q.ranked (fun t => t.admits crew)).head?

/-- The turns of every privileged queue go on; the window of a crew restarts when another task has become its foremost
(22 R355, R357). -/
def Part.turnOver (q : Part) : Part :=
  let q := (List.range 16).foldl (fun q n => if q.isPriv n then q.nextTurn n else q) q
  { q with reserve := q.reserve.filter (fun r => (q.foremost r.1).any (fun h => h.id = r.2.1)) }

/-- Makes a task ready, last among those of its time (22 R353, R355); its start waits for the module writes that `v`
names, which were released before (14 R279; 22 R354). -/
def State.makeReady (s : State) (p id : Nat) (v : List Nat) : State :=
  s.modPart p (fun q =>
    let r := { q.modTask id (fun t => { t with
        st := .ready, order := q.nextOrder, overtake := 0, seen := clockJoin t.seen v }) with
      nextOrder := q.nextOrder + 1 }
    r.turnOver)

/-! Barrier objects (11 R224). -/

/-- The fields of a barrier object. -/
structure Barrier where
  ph : Nat
  ovr : Bool
  flt : Bool
  prm : Bool
  arr : Nat
  pend : Nat
  ptx : Nat
  prom : Nat
  wait : Nat
  deriving DecidableEq, Repr

/-- Reads the fields from sixteen bytes. -/
def barrierOf (n : Nat) : Barrier :=
  { ph := fld n 124 4, ovr := n.testBit 123, flt := n.testBit 122, prm := n.testBit 121, arr := fld n 108 12,
    pend := fld n 96 12, ptx := fld n 64 32, prom := fld n 32 32, wait := fld n 0 32 }

/-- The sixteen bytes of an object; every update writes 0 to the reserved bit. -/
def Barrier.bits (b : Barrier) : Nat :=
  b.ph * 2 ^ 124 + (if b.ovr then 2 ^ 123 else 0) + (if b.flt then 2 ^ 122 else 0) +
    (if b.prm then 2 ^ 121 else 0) + b.arr * 2 ^ 108 + b.pend * 2 ^ 96 + b.ptx * 2 ^ 64 + b.prom * 2 ^ 32 + b.wait

/-- A place in SRAM from a crew and a crew-window offset (12 R242). -/
def crewPlace (crew off : Nat) : Nat × Nat := (4 * crew + off / 0x100000 % 4, off % 0x100000)

/-- A crew-window offset names SRAM of the crew (12 R242). -/
def inCrew (off : Nat) : Bool := off / 0x100000 < 4 && off % 0x100000 < 0xC0000

/-- The crew-window offset of a place. -/
def crewOffset (b : Nat × Nat) : Nat := b.1 % 4 * 0x100000 + b.2

/-- A bank of SRAM that exists and is in scratchpad mode. -/
def State.scratchAt (s : State) (b : Nat × Nat) : Bool :=
  b.2 < 0xC0000 && (s.getCore b.1).modeAt b.2 = .scratch

/-- A barrier object. -/
def State.getBar (s : State) (b : Nat × Nat) : Barrier :=
  barrierOf (ofBytes (agetN zeroByte (s.getCore b.1).sram b.2 16))

/-- Writes a barrier object; a watch sees a write by the core in focus. -/
def State.newBar (s : State) (b : Nat × Nat) (x : Barrier) : State :=
  s.bankWrite b.1 b.2 (toBytes x.bits 16) (some s.coreId)

/-- Updates a barrier object: what comes of poisoned words stays poisoned (27 R402). -/
def State.putBar (s : State) (b : Nat × Nat) (x : Barrier) : State :=
  if s.bankBad b.1 b.2 16 then (s.newBar b x).markBank b.1 b.2 16 else s.newBar b x

/-- Reads `n` bytes of a bank as a number. -/
def State.bankNat (s : State) (b : Nat × Nat) (n : Nat) : Nat :=
  ofBytes (agetN zeroByte (s.getCore b.1).sram b.2 n)

/-- The registers that a record's LIVE names, in ascending order (11 R238). -/
def liveRegs (live : Nat) : List Nat := (List.range 64).filter (fun n => live.testBit n)

/-- Enqueues the continuation of a record with a status; a record that names no suspended task of the
partition enqueues nothing (11 R238; assumption log 24). -/
def State.enqueueRecord (s : State) (crew off status : Nat) : State :=
  let b := crewPlace crew off
  let p := s.partOf crew
  let word := s.bankNat (b.1, b.2 + 0x18) 8
  let id := fld word 0 32
  let s := s.bankWrite b.1 (b.2 + 0x1C) [BitVec.ofNat 8 status] (some s.coreId)
  match (s.getPart p).task? id with
  | some t =>
    if t.st = .suspended then
      let live := s.bankNat (b.1, b.2 + 8) 8
      let n := (liveRegs live).length
      let saved := (List.range n).map (fun i => BitVec.ofNat 64 (s.bankNat (b.1, b.2 + 0x28 + 8 * i) 8))
      let c : Cont := {
        record := BitVec.ofNat 64 (lwin + 0x400000 + off), entry := BitVec.ofNat 64 (s.bankNat b 8),
        live := BitVec.ofNat 64 live, saved := saved, status := status,
        -- its registers come from these words of the record (27 R403)
        bad := if s.bankBad b.1 b.2 (0x28 + 8 * n) then some (s.poisonPlace (.sram b.1 b.2) (0x28 + 8 * n)) else none }
      let s := s.modPart p (fun q => q.modTask id (fun t => { t with
        cont := some c, deadline := BitVec.ofNat 64 (s.bankNat (b.1, b.2 + 0x20) 8),
        job := { t.job with vwin := fld word 40 5, tiles := fld word 45 5,
                            flags := t.job.flags / 2 * 2 + fld word 50 1 } }))
      s.makeReady p id (s.getDie (dieOf (4 * crew))).clock
    else s
  | none => s

/-- Enqueues the records of a waiter list, following their links; at most `n` of them. -/
def State.wakeList (s : State) (crew off : Nat) : Nat → State
  | 0 => s
  | n + 1 =>
    if off = 0 then s
    else
      let b := crewPlace crew off
      let next := s.bankNat (b.1, b.2 + 0x14) 4
      (s.enqueueRecord crew off 0).wakeList crew next n

/-- A phase completes at an object whose bank was zeroed before: those who wait on it since then see that (12 R247). -/
def State.notePhase (s : State) (b : Nat × Nat) : State :=
  let co := s.getCore b.1
  if (afind co.wiped (b.2 / 0x8000)).isSome then s.setCore b.1 { co with phased := aset false co.phased b.2 true } else s

/-- The completion check that ends every operation on a barrier (11 R225). -/
def State.finishBar (s : State) (b : Nat × Nat) (x : Barrier) : State :=
  if x.pend = 0 && x.ptx = 0 then
    let s := s.putBar b { x with ph := (x.ph + 1) % 16, pend := x.arr, prm := false, wait := 0 }
    s.notePhase b |>.wakeList (crewOf b.1) x.wait 0x4000
  else s.putBar b x

/-- The completion check of an operation that changes nothing else: a wait or a test (11 R223, R225). -/
def State.checkBar (s : State) (b : Nat × Nat) : State :=
  let x := s.getBar b
  if x.pend = 0 && x.ptx = 0 then s.finishBar b x else s

/-- A rejected operation sets OVR and nothing else (00 R9). -/
def State.rejectBar (s : State) (b : Nat × Nat) : State := s.putBar b { s.getBar b with ovr := true }

/-- An arrival of count c; none when it exceeds PEND (11 R228). -/
def State.arrive (s : State) (b : Nat × Nat) (c : Nat) : Option State :=
  let x := s.getBar b
  if x.pend < c then none else some (s.finishBar b { x with pend := x.pend - c })

/-- An addition to PTX with its completion check; none when the sum leaves its range (11 R229). -/
def State.expect (s : State) (b : Nat × Nat) (v : Int) : Option State :=
  let x := s.getBar b
  let t : Int := x.ptx + v
  if t < 0 || t ≥ 2 ^ 32 then none else some (s.finishBar b { x with ptx := t.toNat })

/-- A subtraction that the hardware makes by itself: below 0, PTX becomes 0 and OVR is set (10 R208). -/
def State.deliver (s : State) (b : Nat × Nat) (n : Nat) : State :=
  let x := s.getBar b
  s.finishBar b (if x.ptx < n then { x with ptx := 0, ovr := true } else { x with ptx := x.ptx - n })

/-- The deferred records of all contexts that name an object. -/
def State.namesBar (s : State) (b : Nat × Nat) : Bool :=
  s.ctxKeys.any (fun k => (s.getCtx k).deferred.any (fun d => d.bar = b))

/-- FLT is cleared when no deferred record names the object any more (11 R232). -/
def State.clearFlt (s : State) (b : Nat × Nat) : State :=
  if s.namesBar b || !((s.getBar b).flt) then s else s.putBar b { s.getBar b with flt := false }

/-- A signal object (11 R239): one signal; none when COUNT is full. -/
def State.signal (s : State) (b : Nat × Nat) : Option State :=
  let count := s.bankNat (b.1, b.2 + 12) 4
  let wait := s.bankNat b 4
  let put := fun (s : State) (c w : Nat) =>
    s.bankWrite b.1 b.2 (toBytes (w + c * 2 ^ 96) 16) (some s.coreId)
  if wait ≠ 0 then
    let r := crewPlace (crewOf b.1) wait
    let link := s.bankNat (r.1, r.2 + 0x14) 4
    some ((put s count link).enqueueRecord (crewOf b.1) wait 0)
  else if count = 0xFFFFFFFF then none
  else some (put s (count + 1) 0)

end Sys2Proof.Machine
end

