-- ==== Sys2Proof/Machine/Tasks.lean ====
section
/-! DEFINITION. Tasks: views and their operators (19 R332 to R335), families, folds and joins (19 R329 to R342),
the end of a task (11 R236, R237; 22 R350, R351), containment (27 R405, R406), and host fault records (23
R365). -/

namespace Sys2Proof.Machine

/-! Messages. A message's body is listed field by field (assumption log 25). -/

/-- Posts a host fault record, and notes who waits for its reply (23 R365). -/
def State.postFault (s : State) (p core ctx : Nat) (task : Word) (cause : BitVec 8) (va : Word) (kind : Nat)
    (who : Option Waiter) (more : List Word := []) : State :=
  let n := (s.getPart p).faultNo
  let s := s.modPart p (fun q => { q with
    faultNo := n + 1,
    faults := match who with
      | some w => q.faults ++ [(n, cause, w)]
      | none => q.faults })
  s.reply p 0x03 ([BitVec.ofNat 64 p, BitVec.ofNat 64 core, BitVec.ofNat 64 ctx, task, cause.zeroExtend 64, va,
    BitVec.ofNat 64 kind, BitVec.ofNat 64 n] ++ more)

/-- Posts an error record to the physical function, and to the partition's virtual function unless the record names
the module, 0xFF (27 R404; 25 R391). -/
def State.postError (s : State) (p sev unit : Nat) (loc : Word) : State :=
  let body := [BitVec.ofNat 64 (p + sev * 2 ^ 8 + unit * 2 ^ 16), loc, BitVec.ofNat 64 s.cyc]
  let s := s.send 0x13 body
  if p < 16 then s.reply p 0x13 body else s

/-- Sends a completion message (22 R350). -/
def State.sendCompletion (s : State) (p : Nat) (tag : Word) (id status : Nat) (flags : BitVec 8) : State :=
  s.reply p 0x02 [tag, BitVec.ofNat 64 id, BitVec.ofNat 64 status, flags.zeroExtend 64, BitVec.ofNat 64 s.cyc]

/-! Views. -/

/-- Elements of a view, and their width in bytes. -/
def ViewDesc.width (d : ViewDesc) : Nat := typeWidth d.type / 8
def ViewDesc.count (d : ViewDesc) : Nat := d.len / d.width

/-- x ⊕ y of a view's operator (19 R333): the pattern and flags. FIRST is not among them. -/
def ViewDesc.combine (d : ViewDesc) (x y : Nat) : Nat × Flags :=
  match typeClass d.type with
  | some (.int t) =>
    match d.op with
    | 0 => t.narrow false (t.decode x + t.decode y)
    | 1 => t.narrow false (t.decode x * t.decode y)
    | 2 => (if t.decode x ≤ t.decode y then x else y, 0)
    | 3 => (if t.decode x ≤ t.decode y then y else x, 0)
    | 4 => (x &&& y, 0)
    | 5 => (x ||| y, 0)
    | _ => (x ^^^ y, 0)
  | some (.float f) =>
    let a := f.decode x
    let b := f.decode y
    let r : Rounded := match d.op with
      | 0 => f.roundInv 0 false (FVal.add 0 a b) .none 0
      | 1 => f.roundInv 0 false (FVal.mul a b) .none 0
      | op => f.roundInv 0 false (FVal.minNum (op = 3) a b, a.isSnan || b.isSnan) .none 0
    (r.1, r.2.1)
  | _ => (x, 0)

/-- `n` bytes of a view of a partition as a number, and the same written. -/
def State.viewNat (s : State) (p : Nat) (v : View) (i n : Nat) : Nat :=
  ofBytes ((List.range n).map (fun k => s.viewByte p v (i + k)))
def State.setViewNat (s : State) (p : Nat) (v : View) (i n x : Nat) : State × View :=
  ((List.range n).zip (toBytes x n)).foldl (fun r b => r.1.viewPut p r.2 (i + b.1) b.2) (s, v)

/-- An element of a view. -/
def State.elem (s : State) (p : Nat) (v : View) (e : Nat) : Nat := s.viewNat p v (e * v.desc.width) v.desc.width

/-- An element has been written (FIRST). -/
def View.isWritten (v : View) (e : Nat) : Bool := aget false v.written e

/-- A blank view. -/
def View.blank (d : ViewDesc) (crew : Nat) (backing : Option (List (Nat × Nat))) : View := ⟨d, crew, backing, [], [], []⟩

/-- An element of a view is poisoned. -/
def State.elemBad (s : State) (p : Nat) (v : View) (e : Nat) : Bool := s.viewBad p v (e * v.desc.width) v.desc.width

/-- Writes an element of a view: a poisoned operand poisons it, and it cleans what it covers whole else (27 R402). -/
def State.putElem (s : State) (p : Nat) (v : View) (i w x : Nat) (bad : Bool) : State × View :=
  let r := s.setViewNat p v i w x
  if bad then r.1.viewTaint p r.2 i w else r.1.viewClean p r.2 i w

/-- A FIRST view that takes part in a fold or join gives nothing for an element (19 R333). -/
def View.gives (v : View) (e : Nat) : Bool := v.desc.op ≠ 7 || v.isWritten e

/-- One element of acc ⊕ view; a poisoned operand poisons it (27 R402). -/
def State.foldElem (s : State) (p : Nat) (acc v : View) (e : Nat) : State × View × Flags :=
  let w := acc.desc.width
  if acc.desc.op = 7 then
    if acc.isWritten e || !(v.isWritten e) then (s, acc, 0)
    else
      let r := s.putElem p acc (e * w) w (s.elem p v e) (s.elemBad p v e)
      (r.1, { r.2 with written := aput acc.written e true }, 0)
  else
    let x := acc.desc.combine (s.elem p acc e) (s.elem p v e)
    let r := s.putElem p acc (e * w) w x.1 (s.elemBad p acc e || s.elemBad p v e)
    (r.1, r.2, x.2)

/-- Elements from e on, n of them. -/
def State.foldFrom (s : State) (p : Nat) (acc v : View) (e : Nat) : Nat → State × View × Flags
  | 0 => (s, acc, 0)
  | n + 1 =>
    let x := s.foldElem p acc v e
    let y := x.1.foldFrom p x.2.1 v (e + 1) n
    (y.1, y.2.1, x.2.2 ||| y.2.2)

/-- The fault that a spilled view's byte gives, as a translated access of the partition (19 R335, R340). -/
def State.viewFault (s : State) (p : Nat) (v : View) (i : Nat) (acc : Acc) : Option (BitVec 8 × Word) :=
  match s.viewVA p v i with
  | none => none
  | some va => match s.translate p va acc false with
    | .error c => some (c, BitVec.ofNat 64 va)
    | .ok _ => none

/-- The fault of one element of a fold: it reads the view, and reads and writes the one that carries the fold; a FIRST view
writes alone, and only what it takes (19 R333, R340). -/
def State.foldFault (s : State) (p : Nat) (acc v : View) (e : Nat) : Option (BitVec 8 × Word) :=
  let i := e * acc.desc.width
  if acc.desc.op = 7 && (acc.isWritten e || !(v.isWritten e)) then none
  else (s.viewFault p v i .engineRead).orElse (fun _ =>
    s.viewFault p acc i (if acc.desc.op = 7 then .engineWrite else .amo))

/-- The parts of the view backing that are not in use, from a place up to its size. -/
def backingGaps (size : Nat) : Nat → List (Nat × Nat) → List (Nat × Nat)
  | at_, [] => if at_ < size then [(at_, size - at_)] else []
  | at_, (start, len) :: t =>
    (if at_ < start then [(at_, start - at_)] else []) ++ backingGaps size (max at_ (start + len)) t

/-- Takes `n` bytes from parts; none when they hold less. -/
def takeParts : Nat → List (Nat × Nat) → Option (List (Nat × Nat))
  | 0, _ => some []
  | _ + 1, [] => none
  | n + 1, (start, len) :: t =>
    if n + 1 ≤ len then some [(start, n + 1)] else (takeParts (n + 1 - len) t).map (fun r => (start, len) :: r)

/-- Space for a view of a crew: in the pool where it fits, else in the backing, in as many parts as it takes (19 R335). -/
def Part.reserveView (q : Part) (crew : Nat) (d : ViewDesc) : Option (Part × View) :=
  let use := aget 0 q.viewUse crew
  if use + d.len ≤ 0x40000 then
    some ({ q with viewUse := aset 0 q.viewUse crew (use + d.len) }, View.blank d crew none)
  else
    (takeParts d.len (backingGaps (fld q.vbsize.toNat 0 16 * 0x200000) 0 q.backingUse)).map (fun ps =>
      ({ q with backingUse := ps.foldl (fun m x => aput m x.1 x.2) q.backingUse }, View.blank d crew (some ps)))

/-- The views of a new child, each with its identities placed where it has spilled (19 R333, R335). -/
def State.blankViews (s : State) (p : Nat) (vs : List (Nat × View)) : State × List (Nat × View) :=
  vs.foldl (fun r v =>
    let x := r.1.viewBlank p v.2
    (x.1, r.2 ++ [(v.1, x.2)])) (s, [])

/-- Space for one view of each declared slot. -/
def Part.reserveViews (q : Part) (crew : Nat) : List (Nat × ViewDesc) → Option (Part × List (Nat × View))
  | [] => some (q, [])
  | (k, d) :: t =>
    match q.reserveView crew d with
    | none => none
    | some (q, v) => match q.reserveViews crew t with
      | none => none
      | some (q, vs) => some (q, (k, v) :: vs)

/-- Frees a view's space, where it was reserved. -/
def Part.freeView (q : Part) (v : View) : Part :=
  match v.backing with
  | none => { q with viewUse := aset 0 q.viewUse v.crew (aget 0 q.viewUse v.crew - v.desc.len) }
  | some ps => { q with backingUse := ps.foldl (fun m x => adel m x.1) q.backingUse }

/-- Frees views. -/
def Part.freeViews (q : Part) (vs : List (Nat × View)) : Part := vs.foldl (fun q v => q.freeView v.2) q

/-! Families. -/

/-- A family opened by its first child. -/
def Family.opened (join vtab crew : Nat) : Family :=
  { members := [], closed := false, join := join, vtab := vtab, crew := crew, folded := 0, steps := [],
    bad := [], acc := [], firstDescs := [], abandoned := [], disc := [], flags := [],
    badCount := 0, badStatus := 0, badTask := 0 }

/-- Closes the last family if it is open (19 R329). -/
def closeLast : List Family → List Family
  | [] => []
  | [f] => [{ f with closed := true }]
  | f :: t => f :: closeLast t

/-- Appends a child, to the open family or to a new one. -/
def appendChild (id join vtab crew : Nat) (close : Bool) : List Family → List Family
  | [] => [{ Family.opened join vtab crew with members := [id], closed := close }]
  | [f] =>
    if f.closed then [f, { Family.opened join vtab crew with members := [id], closed := close }]
    else [{ f with members := f.members ++ [id], closed := close }]
  | f :: t => f :: appendChild id join vtab crew close t

/-- The context where a task runs. -/
def State.taskCtx (s : State) (p id : Nat) : Option Ctx :=
  match (s.getPart p).task? id with
  | some t => match t.st with
    | .running k =>
      let c := s.getCtx k
      if c.cr.taskid.toNat = id && c.status ≠ .idle then some c else none
    | _ => none
  | none => none

/-- Changes the context where a task runs. -/
def State.modTaskCtx (s : State) (p id : Nat) (f : Ctx → Ctx) : State :=
  match (s.getPart p).task? id with
  | some t => match t.st with
    | .running k =>
      let c := s.getCtx k
      if c.cr.taskid.toNat = id && c.status ≠ .idle then s.setCtx k (f c) else s
    | _ => s
  | none => s

/-- The views that a task holds. -/
def State.taskViews (s : State) (p id : Nat) : List (Nat × View) :=
  match s.taskCtx p id with
  | some c => c.views
  | none => (((s.getPart p).task? id).map Task.views).getD []

/-- Replaces a view that a task holds. -/
def State.setTaskView (s : State) (p id slot : Nat) (v : View) : State :=
  match s.taskCtx p id with
  | some _ => s.modTaskCtx p id (fun c => { c with views := aput c.views slot v })
  | none => s.modPart p (fun q => q.modTask id (fun t => { t with views := aput t.views slot v }))

/-- A task of a partition has engine commands that are not complete; a TASKID names a task of its partition alone (22
R348). -/
def State.hasCommands (s : State) (p id : Nat) : Bool :=
  (s.coreKeys.filter (fun c => s.partOf (crewOf c) = p)).any (fun c =>
    (s.getCore c).eq.any (fun q => q.2.any (fun x => x.task = id)) ||
      (s.getCore c).rings.any (fun r => r.2.cmd.any (fun x => x.task = id)))

/-- A child has ended, its own families have joined and its engine commands have completed (19 R336). -/
def State.childDone (s : State) (p id : Nat) : Option Task :=
  match (s.getPart p).task? id with
  | some t => match t.st with
    | .finished _ _ => if t.families.isEmpty && !(s.hasCommands p id) then some t else none
    | _ => none
  | none => none

/-- Changes the family of a task that opened first, or any by its place. -/
def modNth {α : Type} (f : α → α) : Nat → List α → List α
  | _, [] => []
  | 0, x :: t => f x :: t
  | n + 1, x :: t => x :: modNth f n t

/-- Slots of a family that still take part in its fold and join, with their steps. -/
def Family.live (f : Family) : List (Nat × SlotFold) := f.steps.filter (fun k => (afind f.abandoned k.1).isNone)

/-- Changes the step of a slot. -/
def Family.step (f : Family) (k : Nat) (x : SlotFold) : Family := { f with steps := aput f.steps k x }

/-- A slot is abandoned at the ordinal of a child (19 R341). -/
def Family.abandon (f : Family) (k ordinal : Nat) : Family := { f with abandoned := aput f.abandoned k ordinal }

/-- Flags that a slot's merges raise (19 R339). -/
def Family.raise (f : Family) (k : Nat) (x : Flags) : Family := { f with flags := aput f.flags k (aget 0 f.flags k ||| x) }

/-- What a member's end adds to the family's status word (22 R352). -/
def Family.count (f : Family) (t : Task) : Family :=
  let status := match t.st with
    | .finished st _ => st
    | _ => 0
  let f := { f with folded := f.folded + 1 }
  if status = 0 then f
  else if f.badCount = 0 then { f with badCount := 1, badStatus := status, badTask := t.id }
  else { f with badCount := f.badCount + 1 }

/-- A task ended without TEND (19 R342). -/
def Task.isDiscarded (t : Task) : Bool :=
  match t.st with
  | .finished _ d => d
  | _ => false

/-- A view as it takes part in its family's fold: that of a discarded child is dropped, once the child's own families
have joined into it, and a blank one stands in its place (19 R342). -/
def Task.foldView (t : Task) (v : View) : View := if t.isDiscarded then View.blank v.desc v.crew none else v

/-- A fault met in a merge: the cause, the address, the slot and the progress index (19 R340). -/
structure MergeFault where
  cause : BitVec 8
  va : Word
  slot : Nat
  elem : Nat
  deriving DecidableEq, Repr

/-- Posts the fault of a merge, with the family, named by its first member, the slot and the progress index. -/
def State.postMergeFault (s : State) (p parent : Nat) (f : Family) (x : MergeFault) : State :=
  let first := f.members.headD 0
  s.postFault p (4 * f.crew) 0 (BitVec.ofNat 64 parent) x.cause x.va 5 (some (.merge parent first x.slot))
    [BitVec.ofNat 64 first, BitVec.ofNat 64 x.slot, BitVec.ofNat 64 x.elem]

/-- Where a fold first faults, of n elements from e on. -/
def State.rangeFault (s : State) (p : Nat) (acc v : View) (e n : Nat) : Option (Nat × BitVec 8 × Word) :=
  if acc.backing.isNone && v.backing.isNone then none
  else ((List.range n).map (fun i => e + i)).findSome? (fun x => (s.foldFault p acc v x).map (fun f => (x, f.1, f.2)))

/-- Takes a view out of a task's entry and frees its space. -/
def Part.dropView (q : Part) (id k : Nat) : Part :=
  match (q.task? id).bind (fun t => afind t.views k) with
  | some v => (q.modTask id (fun t => { t with views := adel t.views k })).freeView v
  | none => q

/-- A slot of the next child folds into it, from its progress index on, up to a fault (19 R336, R340). -/
def State.foldSlot (s : State) (p : Nat) (f : Family) (t : Task) (k : Nat) (x : SlotFold) :
    State × Family × Option MergeFault :=
  match afind f.acc k, afind t.views k with
  | some acc, some v =>
    if some v.desc ≠ afind f.firstDescs k then (s, f.abandon k (x.members + 1), none)
    else
      let v := t.foldView v
      let n := acc.desc.count
      let stop := s.rangeFault p acc v x.elem (n - x.elem)
      let m := (stop.map Prod.fst).getD n
      let y := s.foldFrom p acc v x.elem (m - x.elem)
      let s := y.1
      let f := ({ f with
        acc := aput f.acc k y.2.1, disc := if t.isDiscarded then aput f.disc k true else f.disc }).raise k y.2.2
      match stop with
      | some q => (s, f.step k { x with elem := q.1, paused := true }, some ⟨q.2.1, q.2.2, k, q.1⟩)
      | none => (s.modPart p (fun q => q.dropView t.id k), f.step k { x with members := x.members + 1, elem := 0 }, none)
  | _, _ => (s, f.abandon k (x.members + 1), none)

/-- What a child's end released has reached the die of its family's crew, where the join arrives (14 R279, R287). -/
def State.meetChild (s : State) (f : Family) (t : Task) : State := s.spread t.seen [dieOf (4 * f.crew)]

/-- The first child's views carry the fold (19 R336); a discarded one's keep their space, blank (19 R342). -/
def State.foldFirst (s : State) (p : Nat) (f : Family) (t : Task) : State × Family :=
  let r := if t.isDiscarded then s.blankViews p (t.views.map (fun v => (v.1, View.blank v.2.desc v.2.crew v.2.backing)))
    else (s, t.views)
  ((r.1.meetChild f t).modPart p (fun q => match q.taskKey t.id with
    | some k => { q with tasks := adel q.tasks k }
    | none => q),
   Family.count { f with
      acc := r.2, firstDescs := t.views.map (fun v => (v.1, v.2.desc)),
      steps := t.views.map (fun v => (v.1, ⟨1, 0, false, false⟩)),
      disc := if t.isDiscarded then t.views.map (fun v => (v.1, true)) else f.disc } t)

/-- A child that every slot is done with leaves; a slot that it holds and the first child did not is abandoned (19
R341). -/
def State.foldDone (s : State) (p : Nat) (f : Family) (t : Task) : State × Family :=
  let extra := t.views.filter (fun v => (afind f.firstDescs v.1).isNone && (afind f.abandoned v.1).isNone)
  ((s.meetChild f t).modPart p (fun q => match q.taskKey t.id with
    | some k => ({ q with tasks := adel q.tasks k }).freeViews t.views
    | none => q),
   Family.count { f with
      abandoned := extra.foldl (fun m v => aput m v.1 (f.folded + 1)) f.abandoned,
      disc := if t.isDiscarded then t.views.foldl (fun m v => aput m v.1 true) f.disc else f.disc } t)

/-- One element of a slot's join (19 R336): into the parent's view that holds it, or the bank. -/
def State.joinElem (s : State) (p parent : Nat) (f : Family) (k e : Nat) (acc : View) :
    State × Family × Option MergeFault :=
  let d := acc.desc
  let w := d.width
  let off := d.range + e * w
  let skip := !(acc.gives e)
  let apply := fun (old : Nat) => if d.op = 7 then (s.elem p acc e, (0 : Flags)) else d.combine old (s.elem p acc e)
  match if skip then none else s.viewFault p acc (e * w) .engineRead with
  | some x => (s, f, some ⟨x.1, x.2, k, e⟩)
  | none =>
    match (s.taskViews p parent).find? (fun v => v.2.desc.range ≤ off && off < v.2.desc.range + v.2.desc.len) with
    | some (slot, v) =>
      let i := off - v.desc.range
      match if skip then none else s.viewFault p v i (if d.op = 7 then .engineWrite else .amo) with
      | some x => (s, f, some ⟨x.1, x.2, k, e⟩)
      | none =>
        if skip then (s, f, none)
        else
          let x := apply (s.viewNat p v i w)
          let r := s.putElem p v i w x.1 (s.elemBad p acc e || (d.op ≠ 7 && s.viewBad p v i w))
          let v := { r.2 with
            written := (List.range w).foldl (fun m b => aput m ((i + b) / v.desc.width) true) r.2.written }
          (r.1.setTaskView p parent slot v, f.raise k x.2, none)
    | none =>
      let b := crewPlace f.crew off
      if !(s.scratchAt b) then (s, { f with bad := aput f.bad k true }, none)
      else if skip then (s, f, none)
      else
        let bad := s.elemBad p acc e || (d.op ≠ 7 && s.bankBad b.1 b.2 w)
        let x := apply (s.bankNat b w)
        let s := s.bankWrite b.1 b.2 (toBytes x.1 w) none
        (if bad then s.markBank b.1 b.2 w else s, f.raise k x.2, none)

/-- An element of a slot's join and the slot's step after it; a slot that has joined gives up its space (19 R335). -/
def State.joinSlot (s : State) (p parent : Nat) (f : Family) (k : Nat) (x : SlotFold) : State × Family × Option MergeFault :=
  match afind f.acc k with
  | none => (s, f.step k { x with joined := true }, none)
  | some acc =>
    let r := s.joinElem p parent f k x.elem acc
    match r.2.2 with
    | some y => (r.1, r.2.1.step k { x with paused := true }, some y)
    | none =>
      if x.elem + 1 < acc.desc.count then (r.1, r.2.1.step k { x with elem := x.elem + 1 }, none)
      else (r.1.modPart p (fun q => q.freeView acc),
        Family.step { r.2.1 with acc := adel r.2.1.acc k } k { x with joined := true }, none)

/-- Writes one word of the crew window if its bank is in scratchpad mode. -/
def State.crewWrite (s : State) (crew off : Nat) (bs : List Byte) : State :=
  let b := crewPlace crew off
  if inCrew off && s.scratchAt b then s.bankWrite b.1 b.2 bs none else s

/-- A word of the view table (19 R337). -/
def Family.tableWord (f : Family) (k : Nat) : Nat :=
  let st := if (afind f.abandoned k).isSome then 2
    else if (afind f.firstDescs k).isNone then 0
    else if aget false f.bad k then 3 else 1
  st + (if aget false f.disc k then 256 else 0) + (aget 0 f.flags k).toNat * 65536

/-- The end of a join (19 R336, R337, R339, R341; 22 R352): flags, view table, status word, MERGE records and
the arrival, a release at MODULE scope. -/
def State.finishJoin (s : State) (p parent : Nat) (f : Family) : State :=
  let flags := f.flags.foldl (fun a x => a ||| x.2) (0 : Flags)
  let recs := f.abandoned.map (fun a => (a.1, a.2, f.crew * 2 ^ 32 + f.join))
  let s := match s.taskCtx p parent with
    | some _ => s.modTaskCtx p parent (fun c => { c with r := c.r.raise flags, merges := c.merges ++ recs })
    | none => s.modPart p (fun q => q.modTask parent (fun t =>
        { t with stat := t.stat ||| flags, merges := t.merges ++ recs }))
  let s := s.modPart p (fun q => q.freeViews f.acc)
  let s := if f.vtab = 0 then s
    else (List.range 8).foldl (fun s k => s.crewWrite f.crew (f.vtab + 4 * k) (toBytes (f.tableWord k) 4)) s
  let miss := fun (s : State) (n : Nat) => s.modPart p (fun q => { q with engineFaults := q.engineFaults + n })
  let s :=
    if f.join = 0xFFFFFFFF then miss s f.badCount
    else
      let b := crewPlace f.crew f.join
      let there := inCrew f.join && s.scratchAt b
      let s :=
        if there && inCrew (f.join + 16) && s.scratchAt (b.1, b.2 + 16) then
          s.bankWrite b.1 (b.2 + 16)
            (toBytes (f.badTask + min f.badCount 0xFFFF * 2 ^ 32 + f.badStatus * 2 ^ 48) 8) none
        else miss s f.badCount
      if there then (s.arrive b 1).getD (s.rejectBar b) else miss s 1
  -- the family is done; a parent that has ended leaves with its last family
  s.modPart p (fun q =>
    let q := q.modTask parent (fun t => { t with families := t.families.tail })
    match q.task? parent with
    | some t => match t.st with
      | .finished _ _ => if t.families.isEmpty && t.parent.isNone then { q with tasks := adel q.tasks parent } else q
      | _ => q
    | none => q)

/-- What a family can do next. -/
inductive FoldMove where
  | first (t : Task)
  | slot (t : Task) (k : Nat) (x : SlotFold)
  | done (t : Task)
  | join (k : Nat) (x : SlotFold)
  | finish
  deriving DecidableEq, Repr

/-- The moves open to a family (19 R336): each slot folds and joins by itself, none while it waits for the host (19
R340); `first` says that no earlier family of the parent is still to join (19 R330). -/
def State.foldMoves (s : State) (p : Nat) (first : Bool) (f : Family) : List FoldMove :=
  let member := fun (n : Nat) => (f.members[n]?).bind (s.childDone p)
  if f.folded = 0 && !f.members.isEmpty then (member 0).toList.map FoldMove.first
  else
    let going := f.live.filter (fun k => !k.2.paused && !k.2.joined)
    let folds := going.filterMap (fun k => (member k.2.members).map (fun t => FoldMove.slot t k.1 k.2))
    let done := if f.live.all (fun k => f.folded < k.2.members) then (member f.folded).toList.map FoldMove.done else []
    let joins := if !(first && f.closed) then []
      else (going.filter (fun k => k.2.members = f.members.length)).map (fun k => FoldMove.join k.1 k.2)
    let finish := if first && f.closed && f.folded = f.members.length && f.live.all (fun k => k.2.joined)
      then [FoldMove.finish] else []
    folds ++ done ++ joins ++ finish

/-- One step of the families of a task: none when nothing can be done (19 R336); which of several is open. -/
def State.foldStep (s : State) (p parent : Nat) : Option State :=
  match (s.getPart p).task? parent with
  | none => none
  | some t =>
    let moves := ((List.range t.families.length).zip t.families).flatMap (fun q =>
      (s.foldMoves p (q.1 = 0) q.2).map (fun m => (q.1, q.2, m)))
    (s.oneOf moves).map (fun r =>
      let i := r.1.1
      let f := r.1.2.1
      let s := r.2
      let put := fun (s : State) (g : Family) =>
        s.modPart p (fun q => q.modTask parent (fun t => { t with families := modNth (fun _ => g) i t.families }))
      let post := fun (r : State × Family × Option MergeFault) =>
        let s := put r.1 r.2.1
        match r.2.2 with
        | some x => s.postMergeFault p parent f x
        | none => s
      match r.1.2.2 with
      | .first t => let x := s.foldFirst p f t; put x.1 x.2
      | .slot t k x => post (s.foldSlot p f t k x)
      | .done t => let x := s.foldDone p f t; put x.1 x.2
      | .join k x => post (s.joinSlot p parent f k x)
      | .finish => s.finishJoin p parent f)

/-! The end of a task. -/

/-- A task ends with a status; `discarded` says that it ends without TEND (19 R342). -/
def State.finishTask (s : State) (p id status : Nat) (discarded : Bool) : State :=
  match (s.getPart p).task? id, (s.getPart p).taskKey id with
  | some t, some k =>
    let t' : Task := { t with st := .finished status discarded, families := closeLast t.families }
    let s := s.modPart p (fun q => { q with
      misscnt := if t.deadline.toNat < s.cyc then q.misscnt + 1 else q.misscnt,
      tasks := let m := adel q.tasks k
        if t.parent.isSome || !(t'.families.isEmpty) then aput m id t' else m })
    match t.parent, t.tag with
    | none, some tag => s.sendCompletion p tag id status t.stat
    | _, _ => s
  | _, _ => s

/-- Frees the context in focus (11 R236): what the context gives up and what its cores keep. -/
def State.freeCtx (s : State) : State :=
  let c := s.ctx
  let recs := c.deferred
  let s := { s with ctx := { Ctx.reset with
    hcw := c.hcw, hcwGood := c.hcwGood, hcwFrom := c.hcwFrom, part := c.part } }
  let s := s.modPart c.part (fun q => { q with
    engineFaults := q.engineFaults + recs.length, saved := adel q.saved s.here, hvSaved := q.hvSaved.erase s.here,
    saveWrites := q.saveWrites.filter (fun w => w.1 ≠ s.here) })
  let s := if s.core.emergency = some s.ctxId then { s with core := { s.core with emergency := none } } else s
  let s : State := recs.foldl (fun s d => s.clearFlt d.bar) s
  if s.core.arr.claim = some s.ctxId then s.modArr (fun u => { u with claim := none, repeat_ := none }) else s

/-- Writes back to the task entry what a task's context holds for it, and what its release covers (14 R279). -/
def State.saveTask (s : State) : State :=
  let c := s.ctx
  s.modPart c.part (fun q => q.modTask c.cr.taskid.toNat (fun t => { t with
    seen := (s.getDie (dieOf s.coreId)).clock,
    views := c.views, decls := c.viewDecls, merges := c.merges, stat := c.r.stat.truncate 8 }))

/-- The running task ends (11 R236, R237; 22 R351): a release at MODULE scope, and of a root at SYSTEM scope, since its
completion message tells the host (14 R291; 22 R350). -/
def State.endTask (s : State) (status : Nat) (discarded : Bool) : State :=
  let p := s.ctx.part
  let id := s.ctx.cr.taskid.toNat
  let root := (((s.getPart p).task? id).map (fun t => t.parent.isNone)).getD true
  let s := s.lastRelease (if root then 4 else 3)
  let s := (s.saveTask).freeCtx
  { s.finishTask p id status discarded with evt := .ended }

/-! Containment (27 R405, R406). -/

/-- The root of a task. -/
def Part.rootOf (q : Part) (id : Nat) : Nat → Nat
  | 0 => id
  | n + 1 => match (q.task? id).bind Task.parent with
    | some x => q.rootOf x n
    | none => id

/-- What a task that ends where no context runs it has done before is performed: its release (11 R236; 22 R350). -/
def State.releaseTask (s : State) (t : Task) : State :=
  if t.parent.isNone then s.settleClock t.seen else s

/-- A task stops with status 0x42, with no trap, save or merge: what it has issued is performed (27 R406 discards no store),
and its end is a release (22 R350). A root's completion message carries the STAT of the context where it ran (22 R350), and
one that ends after its deadline counts (22 R349). -/
def State.killTask (s : State) (p : Nat) (t : Task) : State :=
  let stat := ((s.taskCtx p t.id).map (fun c => (c.r.stat.truncate 8 : BitVec 8))).getD t.stat
  let s := match t.st with
    | .running k =>
      let s := if (s.getCtx k).cr.taskid.toNat = t.id then
          s.onCtx k (fun s => (s.lastRelease (if t.parent.isNone then 4 else 3)).freeCtx)
        else s
      s.modPart p (fun q => { q with saved := adel q.saved k })
    | _ => s.releaseTask t
  let live := match t.st with
    | .finished _ _ => false
    | _ => true
  let s := s.modPart p (fun q => match q.taskKey t.id with
    | some k =>
      let q := t.families.foldl (fun q f => q.freeViews f.acc) (q.freeViews t.views)
      { q with
        tasks := adel q.tasks k, misscnt := if live && t.deadline.toNat < s.cyc then q.misscnt + 1 else q.misscnt }
    | none => q)
  match live, t.parent, t.tag with
  | true, none, some tag => s.sendCompletion p tag t.id 0x42 stat
  | _, _, _ => s

/-- Discards the engine commands and rings of a core that a predicate names. -/
def State.dropCommands (s : State) (c : Nat) (mine : Cmd → Bool) : State :=
  let co := s.getCore c
  s.setCore c { co with
    eq := (co.eq.map (fun q => (q.1, q.2.filter (fun x => !(mine x))))).filter (fun q => !(q.2.isEmpty)),
    rings := co.rings.map (fun r => (r.1, if r.2.cmd.any mine then { r.2 with cmd := none } else r.2)) }

/-- The cores of a partition. -/
def State.partCores (s : State) (p : Nat) : List Nat :=
  (List.range 64).filter (fun c => (s.getPart p).berths.testBit (crewOf c))

/-- The translations of a partition that a predicate names, by page number and page bits, leave every TLB (24 R381). -/
def State.dropTlbs (s : State) (p : Nat) (hit : Nat → Nat → Bool) : State :=
  let keep := fun (t : List (Nat × List Nat)) =>
    t.filter (fun e => !(e.1 % 32 = p && hit (e.1 / 2048) (e.1 / 32 % 64)))
  let s := s.coreKeys.foldl (fun s c => s.setCore c { s.getCore c with tlb := keep (s.getCore c).tlb }) s
  [0, 1, 2, 3].foldl (fun s d => s.setDie d { s.getDie d with tlb := keep (s.getDie d).tlb }) s

/-- The slices of a partition are written back and invalidated; watches on their lines are lost. -/
def State.flushSlices (s : State) (p : Nat) : State :=
  let s := (s.partCores p).foldl (fun s c => s.l1Release c) s
  let s := s.drainBytes (s.owns p)
  [0, 1, 2, 3].foldl (fun s d =>
    ((s.getDie d).tags.filter (fun t => t.2.part = p)).foldl (fun s t => s.evictLine d t.1) s) s

/-- The message in part arrived on a channel is a PUT or GET for a partition, as far as its words have come: kind and target
(25 R390). -/
def forPart (p : Nat) (bs : List Byte) : Bool :=
  let kind := (bs.headD 0).toNat
  (kind = 0x0A || kind = 0x0B) && 16 ≤ bs.length && ((bs.getD 8 0).toNat) % 16 = p

/-- A partition reset drains the partition's virtual channels: what it has not yet begun to send of PUT and GET is
discarded, and a PUT or GET of a peer that has come and is not yet performed, whole or in part, or whose data is not yet on its
way, is answered with error status, the status 2 that meets the sender's command as PROT; answers to the partition's own
commands are dropped (27 R406; assumption log 25). -/
def State.dropTraffic (s : State) (p : Nat) : State :=
  let refuse := fun (s : State) (port : Nat) (tag : Word) => s.post port (2 * p + 1) 0x0D [tag, 2]
  let mine := fun (m : Msg) => m.vc / 2 = p && m.sealed = 0 && [0x0A, 0x0B, 0x0C].contains m.kind
  let gets := (((s.out.filter mine).filter (fun m => m.kind = 0x0C)).map (fun m => (m.port, m.body.headD 0))).eraseDups
  let s := { s with out := s.out.filter (fun m => !(mine m)) }
  let s := gets.foldl (fun s g => refuse s g.1 g.2) s
  let s := s.agenda.foldl (fun s i => match i with
    | .putMessage q m => if q.toNat = p then refuse s m.port.toNat m.tag else s
    | .getRequest q port tag _ _ => if q.toNat = p then refuse s port.toNat tag else s
    | _ => s) s
  let gone := fun (i : Instr) => match i with
    | .putMessage q _ => q.toNat = p
    | .getRequest q _ _ _ _ => q.toNat = p
    | .getData c _ _ _ => s.partOf (crewOf c.toNat) = p
    | .farEndAck c _ _ => s.partOf (crewOf c.toNat) = p
    | _ => false
  { s with
    agenda := s.agenda.filter (fun i => !(gone i)),
    ports := s.ports.map (fun q => (q.1, if q.1 = 0 then q.2 else { q.2 with
      refused := q.2.refused ++ ((q.2.rx.assembling.filter (fun m => forPart p m.2)).map Prod.fst) })) }

/-- Partition reset (27 R406): PRECTL keeps FAIL, a supervisor register's field, and STATE becomes 0. -/
def State.resetPart (s : State) (p : Nat) : State :=
  let s := s.dropTraffic p
  let s := (s.partCores p).foldl (fun s c => s.dropCommands c (fun _ => true)) s
  let s := ((s.getPart p).tasks.map Prod.snd).foldl (fun s t => s.killTask p t) s
  let s := s.flushSlices p
  let s := (s.partCores p).foldl (fun s c =>
    let co := s.getCore c
    s.setCore c { co with
      sram := [], fe := [], bankMode := [], bankRing := [], l1 := [], rings := [], groups := [], poison := [],
      emergency := none, arr := { co.arr with claim := none, repeat_ := none, queue := [] } }) s
  s.modPart p (fun q => { q with
    preState := 0, preForced := false, hvState := 0, tasks := [], turns := [], reserve := [], saved := [], saveWrites := [],
    hvSaved := [], faults := [], viewUse := [], backingUse := [], guestCmds := [] })

/-- A task of another root that a teardown empties out of the queue ends with status 0x42 as one that ends without TEND: its
parent's family counts it (19 R342; 22 R352). -/
def State.emptyOut (s : State) (p : Nat) (t : Task) : State := (s.releaseTask t).finishTask p t.id 0x42 true

/-- Teardown of a root's tree, in compatibility mode (27 R405, R406); of a root that has ended, what is left of its tree. The
root's queue is emptied too. -/
def State.tearDown (s : State) (p root : Nat) : State :=
  let q := s.getPart p
  let mine := fun (id : Nat) => q.rootOf id q.tasks.length = root
  let queue := (q.task? root).map Task.queue
  let doomed := (q.tasks.map Prod.snd).filter (fun t =>
    mine t.id || (some t.queue = queue && match t.st with
      | .ready => true
      | _ => false))
  let ids := doomed.map Task.id
  let s := (s.partCores p).foldl (fun s c => s.dropCommands c (fun x => ids.contains x.task)) s
  let s := doomed.foldl (fun s t => if mine t.id then s.killTask p t else s.emptyOut p t) s
  let s := s.modPart p (fun q => { q with
    tqcfg := match queue with
      | some n => aset 1 q.tqcfg n (aget 1 q.tqcfg n / 2 * 2)
      | none => q.tqcfg,
    faults := q.faults.filter (fun f => match f.2.2 with
      | .context k => (s.getCtx k).status ≠ .idle
      | .command c r => ((afind (s.getCore c).eq r).bind List.head?).any (fun x => x.wait = .host)
      | .rigger c r => ((afind (s.getCore c).rings r).bind Ring.cmd).any (fun x => x.wait = .host)
      | .merge t _ _ => !(mine t)
      | .save k => (s.getCtx k).status ≠ .idle) })
  s.dropTlbs p (fun _ _ => true)

/-- Containment of an unrecoverable fault of a task (27 R405): reset in native mode, teardown of the tree in
compatibility mode. -/
def State.contain (s : State) (p task : Nat) : State :=
  let q := s.getPart p
  if q.compat then s.tearDown p (q.rootOf task q.tasks.length) else s.resetPart p

/-- The context in focus consumes poison (27 R403): recorded as consumed, with its place (27 R404), and contained. -/
def State.consume (s : State) (loc : Word) : State :=
  let p := s.ctx.part
  let id := s.ctx.cr.taskid.toNat
  (s.postError p 2 s.coreId loc).contain p id

/-- Performs a load whose turn has come; one that meets poison is consumed. -/
def State.performOrConsume (s : State) (o : LoadOp) : State := (s.performLoad o).getD (s.consume (s.badPlace o.units))

end Sys2Proof.Machine
end

