-- ==== Sys2Proof/Machine/Ops.lean ====
section
/-! DEFINITION. Taking an exception, and returning from one, as one shared operation each (23 R358 to R365; 07
R131), and how an instruction's meaning becomes a step: completed, trapped, blocked or handed to the host. -/

namespace Sys2Proof.Machine

/-! Bytes at virtual addresses, as the core in focus reads and writes them. -/

/-- Writes bytes in pieces that stay within a line; `n` bounds the pieces. -/
def State.storeBytes (s : State) (va : Word) (bs : List Byte) (acc : Acc) (kind : FaultKind) :
    Nat → Except Stop State
  | 0 => .ok s
  | n + 1 =>
    if bs.isEmpty then .ok s
    else do
      let m := min bs.length (128 - va.toNat % 128)
      let r ← s.resolve va m acc kind
      (r.2.writeUnit s.coreId r.1 (bs.take m)).storeBytes (va + BitVec.ofNat 64 m) (bs.drop m) acc kind n

/-- Reads bytes in pieces that stay within a line. -/
def State.loadBytes (s : State) (va : Word) (len : Nat) (acc : Acc) (kind : FaultKind) :
    Nat → Except Stop (List Byte × State)
  | 0 => .ok ([], s)
  | n + 1 =>
    if len = 0 then .ok ([], s)
    else do
      let m := min len (128 - va.toNat % 128)
      let r ← s.resolve va m acc kind
      require (!(r.2.readBad s.coreId r.1 m)) (.poison (r.2.poisonPlace r.1 m))
      let x := r.2.readUnit s.coreId r.1 m
      let y ← x.2.loadBytes (va + BitVec.ofNat 64 m) (len - m) acc kind n
      .ok (x.1 ++ y.1, y.2)

/-! The frame (23 R360 to R362). -/

/-- The context save area of the running task (23 R368). -/
def State.saveArea (s : State) : Word :=
  baseVA (s.getPart s.ctx.part).savebase + BitVec.ofNat 64 (s.ctx.cr.taskid.toNat % 0x4000 * 0x200000)

/-- The payload of a replay entry (23 R362). -/
def Replay.payload : Replay → List Byte
  | .flight _ _ (.v f) =>
    bytesOf f.entry ++ (f.ops.map (fun o => match o.2 with
      | .group rs => (rs.map bytesOf).flatten
      | .value _ => [])).flatten
  | .flight _ _ (.x f) => f.src
  | .shadow sh => match sh.write with
    | .fmt _ => []
    | .lanes _ _ _ data => bytesOf data
  | .save _ bs => bs

/-- The captured scalar operands of a replay entry, in field order. -/
def Replay.ops : Replay → List Word
  | .flight _ _ (.v f) => f.ops.filterMap (fun o => match o.2 with
      | .group _ => none
      | .value v => some v)
  | .flight _ _ (.x f) => f.ops
  | .shadow _ => []
  | .save off _ => [BitVec.ofNat 64 off]

/-- KIND, REMAIN, DEST and ENC of a replay entry. -/
def Replay.head : Replay → Nat × Nat × Nat × Nat
  | .flight _ n (.v f) =>
    let h := hcwOf f.entry
    (2, n, if h.dst < 384 then h.dst + 8 * f.roff else h.dst,
      (encode (.vh (BitVec.ofNat 9 f.idx) (BitVec.ofNat 4 f.roff))).getD 0)
  | .flight _ n (.x f) =>
    (3, n, match f.i with
      | .twrow t _ _ => t.toNat
      | .tunpk t _ => t.toNat
      | .trrow vd _ _ => vd.toNat
      | .trcol vd _ _ => vd.toNat
      | .movsv vd _ _ => vd.toNat
      | .movvs sd _ _ => sd.toNat
      | _ => 0, (encode f.i).getD 0)
  | .shadow sh => match sh.write with
    | .fmt v => (4, sh.remain, 0, v.toNat)
    | .lanes _ code lg _ => (5, sh.remain, code + lg % 8 * 65536, sh.enc)
  | .save _ _ => (6, 0, 0, 0)

/-- The 64 bytes of a replay entry whose payload stands at an offset of DATA. -/
def Replay.bytes (r : Replay) (poff : Nat) : List Byte :=
  let h := r.head
  let ops := (r.ops ++ [0, 0, 0, 0]).take 4
  [BitVec.ofNat 8 h.1, 0] ++ toBytes h.2.1 2 ++ toBytes h.2.2.1 4 ++ toBytes h.2.2.2 8 ++ toBytes poff 4 ++
    toBytes r.payload.length 4 ++ toBytes 0 8 ++ (ops.map bytesOf).flatten

/-- The entries with their payload offsets, each a multiple of 32. -/
def placed : Nat → List Replay → List (Replay × Nat)
  | _, [] => []
  | o, r :: t => (r, o) :: placed (o + (r.payload.length + 31) / 32 * 32) t

/-- CAUSE, TPC, RPC, RQN and RECORD: the first 256 bytes (23 R360, R361). -/
def frameHead (t : TrapReq) (rpc : Word) (n : Nat) : List Byte :=
  bytesOf (t.cause.zeroExtend 64) ++ bytesOf t.pc ++ bytesOf rpc ++ toBytes n 4 ++ toBytes 0 4 ++
    ((((t.record ++ List.replicate 28 0).take 28).map bytesOf).flatten)

/-- Writes the frame (23 R360); entries that hold no result are zero (assumption log 37). -/
def State.writeFrame (s : State) (t : TrapReq) : Except Stop State := do
  let a := s.saveArea
  let es := placed 0 s.ctx.pend.replay
  let put := fun (s : State) (off : Nat) (bs : List Byte) =>
    s.storeBytes (a + BitVec.ofNat 64 off) bs .store 7 (bs.length + 1)
  let s ← put s 0 (frameHead t t.pc es.length)
  let s ← put s 0x100 ((es.map (fun e => e.1.bytes e.2)).flatten ++ List.replicate (64 * (32 - es.length)) 0)
  es.foldlM (fun s e => put s (0x1000 + e.2) e.1.payload) s

/-! Trap entry (23 R358). -/

/-- A replay entry was issued before a number. -/
def Replay.before (n : Nat) : Replay → Bool
  | .flight q _ _ => q < n
  | .shadow x => x.seq < n
  | .save _ _ => true

/-- Merges results in flight and shadows in issue order. -/
def inOrder (fs : List Replay) (shs : List Shadow) : List Replay :=
  shs.foldl (fun l sh => l.takeWhile (Replay.before sh.seq) ++ [.shadow sh] ++ l.dropWhile (Replay.before sh.seq)) fs

/-- The shadows whose count is spent land before the bundle that traps: the results that they wait for are written
first (03 R65, R66). -/
def State.landDue (s : State) : State :=
  let regs := s.ctx.pend.shadows.filterMap (fun sh => match sh.write with
    | .lanes reg _ _ _ => if sh.remain = 0 then some reg else none
    | .fmt _ => none)
  let due := fun (f : Flight) => f.regs.any regs.contains
  let p := s.ctx.pend
  let early := (p.reinject.map (fun r => (r.2.1, r.2.2)) ++ p.flight).filter (fun q => due q.2)
  let s := s.modPend (fun p => { p with
    flight := p.flight.filter (fun q => !(due q.2)), reinject := p.reinject.filter (fun r => !(due r.2.2)) })
  (early.foldl (fun s q => s.complete q.1 q.2) s).landShadows

/-- Freezes what has not yet been written (23 R358 step 3): the cycles a result still takes are open. An entry beyond
the 32 that the frame holds is not frozen: it goes on as pending (assumption log 73). -/
def State.freezeResults (s : State) : State :=
  let p := s.ctx.pend
  let late := p.reinject.map (fun r => (r.2.1, r.2.2))
  let fs := (late ++ p.flight).zipIdx.map (fun q =>
    Replay.flight q.1.1 ((Config.freeValue (s.tick + q.2)).toNat % 65536) q.1.2)
  let es := inOrder fs p.shadows
  let rest := es.drop 32
  let s := s.modPend (fun p => { p with
    replay := es.take 32, reinject := [],
    flight := rest.filterMap (fun r => match r with
      | .flight q _ f => some (q, f)
      | _ => none),
    shadows := rest.filterMap (fun r => match r with
      | .shadow sh => some sh
      | _ => none) })
  { s with tick := s.tick + fs.length }

/-- Enters the handler once the frame is written (23 R358 steps 4 and 5). -/
def State.enterHandler (s : State) (t : TrapReq) : State :=
  let a := s.saveArea
  let c := s.ctx
  { s with ctx := { c with
    mode := .handler, pc := c.cr.trapvec, npc := c.cr.trapvec, histHandler := [], loopsHandler := ⟨[], []⟩,
    frame := some t, status := .ready, skipC := false, fetched := none, live := none,
    r := { c.r with handlerBase := a },
    pend := { c.pend with mrepHandler := none },
    cr := { c.cr with
      trapcause := t.cause.zeroExtend 64, trappc := t.pc, trapinfo := a,
      rqcount := BitVec.ofNat 64 c.pend.replay.length } } }

/-- What the write of the frame makes of a trap's entry: the handler, or a wait for the host with the frame held on chip
(23 R360). -/
def State.entryAfter (s : State) (t : TrapReq) : Except Stop State → State
  | .ok u => u.enterHandler t
  | .error e =>
    let f := match e with
      | .host c va k _ => (c, va, k)
      | _ => (cPROT, s.saveArea, 7)
    let u := s.postFault s.ctx.part s.coreId s.ctxId s.ctx.cr.taskid f.1 f.2.1 f.2.2 (some (.context s.here))
    { u with ctx := { u.ctx with status := .hostWait (some t) } }

/-- Writes the frame and enters the handler. -/
def State.finishEntry (s : State) (t : TrapReq) : State := s.entryAfter t (s.writeFrame t)

/-- Sets PARK on a stream that is open (18 R322, R323). -/
def State.park (s : State) (q : Nat) : State :=
  let one := aget Stream.reset s.ctx.streams q
  if one.opened then { s with ctx := { s.ctx with streams := aput s.ctx.streams q { one with parked := true } } }
  else s

/-- What a trap changes besides entering its handler. -/
def State.applySide (s : State) : Side → State
  | .none => s
  | .ovr b => s.rejectBar b
  | .defer b =>
    let c := s.ctx
    let ds := c.deferred
    let rest := ds.takeWhile (fun d => d.bar ≠ b) ++ (ds.dropWhile (fun d => d.bar ≠ b)).tail
    ({ s with ctx := { c with deferred := rest } }).clearFlt b
  | .merge r => { s with ctx := { s.ctx with merges := s.ctx.merges.erase r } }
  | .mrep => s.setMrep none
  | .park q => s.park q

/-- A trap in HANDLER mode (23 R359): the task ends, and a host fault record names the frame. -/
def State.doubleTrap (s : State) (cause : BitVec 8) (side : Side) : State :=
  let s := s.postFault s.ctx.part s.coreId s.ctxId s.ctx.cr.taskid cause s.ctx.cr.trapinfo 7 none
  (s.quiesce.1.applySide side).endTask (0x80 ||| cause).toNat true

/-- A fault for the host at the bundle of the context in focus, which waits for the reply (03 R50; 23 R365). -/
def State.askHost (s : State) (cause : BitVec 8) (va : Word) (kind : FaultKind) : State :=
  let u := s.postFault s.ctx.part s.coreId s.ctxId s.ctx.cr.taskid cause va kind (some (.context s.here))
  { u with ctx := { u.ctx with status := .hostWait none } }

/-- TAKING AN EXCEPTION (23 R358, R359), with what else the trap changes: that comes after what earlier bundles issued.
A trap at a repeat still running belongs to an earlier bundle, and comes first; a fault for the host there is posted, and
the bundle traps when it is executed again (09 R188). -/
def State.takeTrap (s : State) (t : TrapReq) (side : Side) : State :=
  if s.ctx.mode = .handler then s.doubleTrap t.cause side
  else
    let q := s.quiesce
    let enter := fun (s : State) (t : TrapReq) =>
      if s.ctx.cr.trapvec = 0 then s.endTask (0x80 ||| t.cause).toNat true
      else s.landDue.freezeResults.finishEntry t
    match q.2, q.1.stuck with
    | some (.trap c rec _, pc), _ => enter q.1 ⟨c, pc, rec⟩
    | some (.host c va k _, _), _ => q.1.askHost c va k
    -- an access of an earlier bundle that faults only now, or meets poison, comes first too
    | _, some (.host c va k _) => q.1.askHost c va k
    | _, some (.poison loc) => q.1.consume loc
    | _, _ => enter (q.1.applySide side) t

/-! How an instruction ends. -/

/-- The fate of a bundle or slot that does not execute (00 R9; 03 R50; 23 R359, R365; 27 R403). A block or a
hold changes nothing. -/
def State.stopWith (s : State) (e : Stop) : State :=
  let t := match e with
    | .trap c rec side => s.takeTrap ⟨c, s.ctx.pc, rec⟩ side
    | .block => s
    | .hold => s
    | .host c va k park =>
      let s := match park with
        | some q => s.park q
        | none => s
      -- TRAPPC holds the target of a fetch that faults (07 R117)
      (if k = 0 then s.modCtrl (fun c => { c with trappc := s.ctx.pc }) else s).askHost c va k
    | .poison loc => s.consume loc
  { t with evt := .stopped e }

/-- An instruction of a slot: it completes, or it does not execute. -/
def run (f : State → Except Stop State) (s : State) : Host.Outcome State Fault Refusal :=
  let s := { s with evt := .none }
  .next (match f s with
    | .ok t => t
    | .error e => s.stopWith e)

/-- An event: it happens where it may, and changes nothing where it may not. -/
def event (f : State → State) (s : State) : Host.Outcome State Fault Refusal :=
  .next (f { s with evt := .none })

/-! RETURNING FROM AN EXCEPTION (07 R131; 23 R363, R364). -/

/-- Splits a payload into the register groups a V slot captured. -/
def regroup : List (Nat × Operand) → List Word → List Byte → List (Nat × Operand)
  | [], _, _ => []
  | (f, .value v) :: t, ops, bs => (f, .value (ops.headD v)) :: regroup t ops.tail bs
  | (f, .group rs) :: t, ops, bs =>
    (f, .group ((chunks 512 rs.length bs).map (fun b => wordOf 4096 b))) :: regroup t ops (bs.drop (512 * rs.length))

/-- A replay entry as the frame now holds it (23 R363). -/
def Replay.edited (r : Replay) (remain : Nat) (ops : List Word) (payload : List Byte) : Replay :=
  match r with
  | .flight q _ (.v f) =>
    .flight q remain (.v { f with entry := wordOf 256 (payload.take 32), ops := regroup f.ops ops (payload.drop 32) })
  | .flight q _ (.x f) => .flight q remain (.x { f with src := payload, ops := ops.take f.ops.length })
  | .shadow sh => .shadow { sh with
      remain := remain,
      write := match sh.write with
        | .fmt v => .fmt v
        | .lanes a b c _ => .lanes a b c (wordOf 512 payload) }
  | .save off _ => .save off payload

/-- One entry of the frame against what was written: refused, cancelled, or as edited. -/
def readEntry (r : Replay) (poff : Nat) (bs : List Byte) (payload : List Byte) : Except Stop (Option Replay) :=
  let w := r.bytes poff
  let kind := (bs.headD 0).toNat
  let remain := ofBytes ((bs.drop 2).take 2)
  let refuse : Except Stop (Option Replay) := .error (trapSlot cILLI 0)
  if (bs.drop 4).take 28 ≠ (w.drop 4).take 28 || bs.getD 1 0 ≠ 0 || (kind ≠ 0 && kind ≠ r.head.1) then refuse
  else if kind = 0 then .ok none
  else if (r.head.1 = 4 || r.head.1 = 5) && (remain = 0 || remain > 5) then refuse
  else .ok (some (r.edited remain ((chunks 8 4 (bs.drop 32)).map (fun b => wordOf 64 b)) payload))

/-- Reads every entry of the frame. -/
def State.readEntries (s : State) (a : Word) :
    List (Replay × Nat) → Nat → Except Stop (List (Replay × Option Replay) × State)
  | [], _ => .ok ([], s)
  | (r, o) :: t, i => do
    let e ← s.loadBytes (a + BitVec.ofNat 64 (0x100 + 64 * i)) 64 .load 1 65
    let p ← e.2.loadBytes (a + BitVec.ofNat 64 (0x1000 + o)) r.payload.length .load 1 (r.payload.length + 1)
    let x ← readEntry r o e.1 p.1
    let y ← p.2.readEntries a t (i + 1)
    .ok ((r, x) :: y.1, y.2)

/-- The entries that the trap left empty: a KIND or another fixed field that is not zero is refused (23 R363). -/
def State.readEmpty (s : State) (a : Word) (i : Nat) : Nat → Except Stop State
  | 0 => .ok s
  | n + 1 => do
    let e ← s.loadBytes (a + BitVec.ofNat 64 (0x100 + 64 * i)) 64 .load 1 65
    require ((e.1.take 2 ++ (e.1.drop 4).take 28).all (fun b => b = 0)) (trapSlot cILLI 0)
    e.2.readEmpty a (i + 1) n

/-- Puts a replay entry back in flight (23 R363): a cancelled one leaves no SDQ entry behind. -/
def State.reinject (s : State) (q : Replay × Option Replay) : State :=
  match q.2 with
  | some (.flight n remain f) =>
    s.modPend (fun p => { p with reinject := p.reinject ++ [(s.cycle + remain, n, f)] })
  | some (.shadow sh) => s.modPend (fun p => { p with shadows := p.shadows ++ [sh] })
  | some (.save _ _) => s
  | none => match q.1 with
    | .flight n _ _ => s.modPend (fun p => { p with
        sdq := p.sdq.filter (fun e => !(e.owner = n && e.data.isNone)) })
    | _ => s

/-- ERET after the other slots of its bundle (07 R131; 23 R363, R364). -/
def State.eret (s : State) : Except Stop State :=
  match s.ctx.mode, s.ctx.frame with
  | .handler, some t => do
    -- the frame is read after every earlier store of the handler, but for those behind a store whose data is not pushed
    let s := s.settleAll
    s.waitSettled (s.ctx.pend.stq.isEmpty || s.ctx.pend.stq.any (fun o =>
      (s.ctx.pend.storeData o).length < o.claims.length || (s.ctx.pend.storeData o).any (fun e => e.data.isNone)))
    let a := s.ctx.cr.trapinfo
    let h ← s.loadBytes a 256 .load 1 257
    let rpc : Word := wordOf 64 ((h.1.drop 16).take 8)
    require (h.1 = frameHead t rpc s.ctx.pend.replay.length) (trapSlot cILLI 0)
    let es ← h.2.readEntries a (placed 0 s.ctx.pend.replay) 0
    let n := s.ctx.pend.replay.length
    let u ← es.2.readEmpty a n (32 - n)
    let u := { u with ctx := { u.ctx with
      mode := .user, npc := rpc, xferFrom := u.ctx.pc, frame := none, histHandler := [], loopsHandler := ⟨[], []⟩,
      skipC := decide (t.cause = cTRAP ∧ rpc = t.pc),
      cr := { u.ctx.cr with trappc := rpc },
      pend := { u.ctx.pend with replay := [], shadows := [], mrepHandler := none } } }
    -- shadows land in the order of their writing bundles: the handler's come after (03 R65)
    let own := es.2.ctx.pend.shadows
    .ok ((es.1.foldl (fun s q => s.reinject q) u).modPend (fun p => { p with shadows := p.shadows ++ own }))
  | _, _ => .error (trapSlot cILLI 0)

/-! The selector (03 R51). -/

/-- A context may issue a bundle. -/
def Ctx.isReady (c : Ctx) : Bool :=
  match c.status with
  | .ready => true
  | .cleared _ _ _ => true
  | _ => false

/-- The next ready context of the core in focus after the selected one, in round-robin order; the selected one
when there is no other. -/
def State.selectNext (s : State) : State :=
  let n := s.core.selected
  match [1, 2, 3].find? (fun k => (s.getCtx (4 * s.coreId + (n + k) % 4)).isReady) with
  | some k => { s with core := { s.core with selected := (n + k) % 4, woken := none } }
  | none => s

/-- A context is blocked (03 R50). -/
def Ctx.isBlocked (c : Ctx) : Bool :=
  match c.status with
  | .blocked _ _ _ => true
  | _ => false

/-- The context in focus has become ready. On a core whose selected context is not, the first to become ready is
selected; of several in one cycle, the first in round-robin order after the one selected before (03 R51). -/
def State.claimIssue (s : State) : State :=
  let me := s.ctxId
  let n := s.core.selected
  let after := fun (base k : Nat) => (k + 3 - base) % 4
  let alone := [0, 1, 2, 3].all (fun k => k = me || !((s.getCtx (4 * s.coreId + k)).isReady))
  if !((s.getCtx (4 * s.coreId + n)).isReady) || (n = me && alone) then
    { s with core := { s.core with selected := me, woken := some (s.cycle, n) } }
  else match s.core.woken with
    | some (c, base) =>
      if c = s.cycle && after base me < after base n then { s with core := { s.core with selected := me } } else s
    | none => s

/-- The context in focus, if it has become ready and no save holds it, claims issue (03 R51). -/
def State.nowReady (s : State) : State :=
  if s.ctx.isReady && (afind (s.getPart s.ctx.part).saved s.here).isNone then s.claimIssue else s

/-- A pre-emption request stands for the partition of the context in focus, outside a hypervisor save (23 R366, R373). -/
def State.savePending (s : State) : Bool :=
  let q := s.getPart s.ctx.part
  q.preState = 1 && q.hvState = 0

/-- What the context in focus waited for has come: it is ready, but where a save is pending it stands at its save point
and issues nothing before it is saved (03 R52; 07 R129; 23 R367). -/
def State.goReady (s : State) : State :=
  if (afind (s.getPart s.ctx.part).saved s.here).isSome then { s with ctx := { s.ctx with status := .ready } }
  else if s.savePending then { s with ctx := { s.ctx with status := .saving none } }
  else ({ s with ctx := { s.ctx with status := .ready } }).claimIssue

end Sys2Proof.Machine
end

