-- ==== Sys2Proof/Machine/AddressSlot.lean ====
section
/-! DEFINITION. The A slot except streams: loads and stores, vectors, gathers, atomics, full/empty words, the
watch, prefetch and fences (10 R193 to R206). -/

namespace Sys2Proof.Machine

/-! Addresses. -/

/-- The address of an AQ or AD form (10 R194, R196). -/
def State.addr (s : State) (an : BitVec 4) {n : Nat} (off : BitVec n) : Word := s.readA an + off.signExtend 64

/-- ALIGN unless the address is a multiple of the width (10 R193). -/
def aligned (a : Word) (n : Nat) : Except Stop Unit := require (a.toNat % n = 0) (trapR cALIGN [a])

/-- One unit of n bytes. -/
def State.oneUnit (s : State) (a : Word) (n : Nat) (acc : Acc) (kind : FaultKind) :
    Except Stop (List (Option Loc × Nat) × State) := do
  let r ← s.resolve a n acc kind
  .ok ([(some r.1, n)], r.2)

/-- A load takes an entry of the load-address queue (10 R194). -/
def LoadOp.queued (o : LoadOp) : Bool :=
  match o.kind with
  | .queue => true
  | .vector _ _ => true
  | .ready _ => true
  | .stream _ => true
  | _ => false

/-- Room in the load-address queue (03 R50). -/
def State.addressRoom (s : State) : Except Stop Unit :=
  require ((s.ctx.pend.lq.filter LoadOp.queued).length < 64) .block

/-- The SDQ entries that a store will claim are of its kind, as far as they stand (10 R195). -/
def State.claim (s : State) (vec : Bool) (n : Nat) : Except Stop Unit :=
  let p := s.ctx.pend
  require (((p.sdq.drop p.claims.length).take n).all (fun e => e.isVector = vec)) (trapSlot cQORDER 2)

/-- The units of elements e upward, each at the address that `at_` gives, none for an element not accessed. A
first-fault access stops before a later element that faults (10 R199). -/
def State.elements (s : State) (at_ : Nat → Option Word) (n : Nat) (acc : Acc) (kind : FaultKind) (ff : Bool)
    (e : Nat) : Nat → Except Stop (List (Option Loc × Nat) × State)
  | 0 => .ok ([], s)
  | k + 1 =>
    match at_ e with
    | none => do
      let t ← s.elements at_ n acc kind ff (e + 1) k
      .ok ((none, n) :: t.1, t.2)
    | some a =>
      match s.resolve a n acc kind with
      | .error (.host c va kd pk) => if ff && e ≠ 0 then .ok ([], s) else .error (.host c va kd pk)
      | .error (.trap c r sd) =>
        if ff && e ≠ 0 && c = cPROT then .ok ([], s) else .error (.trap c r sd)
      | .error x => .error x
      | .ok (l, t) => do
        let u ← t.elements at_ n acc kind ff (e + 1) k
        .ok ((some l, n) :: u.1, u.2)

/-! Queue loads and stores (10 R194, R195). -/

/-- LDQ. -/
def execLdq (an _inc : BitVec 4) (size : BitVec 3) (off : BitVec 16) : State → Host.Outcome State Fault Refusal :=
  run (fun s => do
    let n := 2 ^ size.toNat
    let a := s.addr an off
    aligned a n
    s.addressRoom
    let u ← s.oneUnit a n .load 1
    .ok (u.2.pushLoad .queue u.1))

/-- STQ. -/
def execStq (an _inc : BitVec 4) (size : BitVec 3) (off : BitVec 16) : State → Host.Outcome State Fault Refusal :=
  run (fun s => do
    let n := 2 ^ size.toNat
    let a := s.addr an off
    aligned a n
    let k := (n + 7) / 8
    s.claim false k
    let u ← s.oneUnit a n .store 2
    .ok (u.2.pushStore (.queue k) u.1))

/-- LD (10 R196). -/
def execLd (an : BitVec 4) (sd : BitVec 6) (size : BitVec 3) (sx : BitVec 1) (off : BitVec 13) :
    State → Host.Outcome State Fault Refusal :=
  run (fun s => do
    let n := 2 ^ size.toNat
    let a := s.addr an off
    aligned a n
    let u ← s.oneUnit a n .load 1
    let t ← u.2.reserveS 2 sd
    .ok (t.pushLoad (.reg sd.toNat (sx = 1)) u.1))

/-- Issues a store whose data is known: to the core's own banks it is performed at once when nothing comes
before it; any other is performed later (14 R282, R283). -/
def State.issueStore (s : State) (k : StoreKind) (units : List (Option Loc × Nat)) : State :=
  if s.ctx.pend.lq.isEmpty && s.ctx.pend.stq.isEmpty && ownBank s.coreId units then
    (s.pushStore k units).settle
  else s.pushStore k units

/-- ST (10 R196). -/
def execSt (an : BitVec 4) (sv : BitVec 6) (size : BitVec 3) (off : BitVec 13) :
    State → Host.Outcome State Fault Refusal :=
  run (fun s => do
    let n := 2 ^ size.toNat
    let a := s.addr an off
    aligned a n
    let v ← s.readS 2 sv
    let u ← v.2.oneUnit a n .store 2
    .ok (u.2.issueStore (.data (toBytes v.1.toNat n)) u.1))

/-! Vector loads and stores (10 R197 to R200). -/

/-- The stride of a VLDQ or VSTQ in bytes. -/
def State.stride (s : State) (ss : BitVec 6) (n : Nat) : Except Stop (Word × State) :=
  if ss = 0 then .ok (BitVec.ofNat 64 n, s) else s.readS 2 ss

/-- A vector load: first-fault shortens VL (10 R199). -/
def State.vectorLoad (s : State) (at_ : Nat → Option Word) (ff : Bool) : Except Stop State := do
  let vl := s.rd.vl.toNat
  let w := sewBits s.rd.vtype
  if vl = 0 then .ok s
  else
    s.addressRoom
    let u ← s.elements at_ (w / 8) .load 1 ff 0 vl
    let m := u.1.length
    let t := if m < vl then u.2.modRegs (fun r => { r with vl := BitVec.ofNat 64 m }) else u.2
    let p := 4096 / w
    .ok (t.pushLoad (.vector w ((m + p - 1) / p)) u.1)

/-- The units of a vector store of elements of n bytes: an element that the data already there does not enable is not
accessed; one whose page cannot be reached, and whose data is still to come, is translated when the store is performed. A
fault that translation does not give is raised at once (10 R193, R197, R198). -/
def State.storeElements (s : State) (at_ : Nat → Option Word) (n : Nat) (es : List SdqEntry) (e : Nat) :
    Nat → Except Stop (List (Option Loc × Nat) × List (Nat × Word) × State)
  | 0 => .ok ([], [], s)
  | k + 1 => do
    let p := 512 / n
    let data := (es[e / p]?).bind (fun x => x.data)
    let off := data.any (fun d => ((d.store.drop (e % p * n)).take n).all (fun b => !b.2))
    let r ← match (if off then none else at_ e) with
      | none => (.ok (none, [], s) : Except Stop (Option Loc × List (Nat × Word) × State))
      | some a => match s.resolve a n .store 2 with
        | .ok (l, t) => .ok (some l, [], t)
        | .error x => match data, x with
          | none, .host _ _ _ _ => .ok (none, [(e, a)], s)
          | _, _ => .error x
    let u ← r.2.2.storeElements at_ n es (e + 1) k
    .ok ((r.1, n) :: u.1, r.2.1 ++ u.2.1, u.2.2)

/-- A vector store. -/
def State.vectorStore (s : State) (at_ : Nat → Option Word) : Except Stop State := do
  let vl := s.rd.vl.toNat
  let w := sewBits s.rd.vtype
  if vl = 0 then .ok s
  else
    let p := 4096 / w
    let k := (vl + p - 1) / p
    s.claim true k
    let es := (s.ctx.pend.sdq.drop s.ctx.pend.claims.length).take k
    let u ← s.storeElements at_ (w / 8) es 0 vl
    .ok (u.2.2.pushVectorStore (.vector w k) u.1 u.2.1)

/-- The addresses of a strided access, checked for alignment. -/
def State.strided (s : State) (an : BitVec 4) (ss : BitVec 6) (off : BitVec 9) :
    Except Stop ((Nat → Option Word) × State) := do
  let n := sewBits s.rd.vtype / 8
  let st ← s.stride ss n
  let b := s.readA an + 512 * off.signExtend 64
  aligned b n
  require (st.1.toNat % n = 0) (trapR cALIGN [b])
  .ok ((fun e => some (b + BitVec.ofNat 64 e * st.1)), st.2)

/-- VLDQ. -/
def execVldq (an : BitVec 4) (ss : BitVec 6) (ff : BitVec 1) (off : BitVec 9) (_inc : BitVec 4) :
    State → Host.Outcome State Fault Refusal :=
  run (fun s => do
    let a ← s.strided an ss off
    a.2.vectorLoad a.1 (ff = 1))

/-- VSTQ. -/
def execVstq (an : BitVec 4) (ss : BitVec 6) (off : BitVec 9) (_inc : BitVec 4) :
    State → Host.Outcome State Fault Refusal :=
  run (fun s => do
    let a ← s.strided an ss off
    a.2.vectorStore a.1)

/-- The addresses of a gather or scatter (10 R200): INDEX names the lowest element out of bound. -/
def State.indexed (s : State) (an : BitVec 4) (sb : BitVec 6) (vi : BitVec 9) (mode : BitVec 3) :
    Except Stop ((Nat → Option Word) × State) := do
  let vl := s.rd.vl.toNat
  let w := sewBits s.rd.vtype
  let n := w / 8
  let emul := lmulRegs s.rd.vtype * 32 / w
  require (emul ≤ 8 && vi.toNat % emul = 0) (trapSlot cILLI 2)
  let regs ← s.vgroup vi.toNat emul
  let bd ← if sb = 0 then .ok ((BitVec.ofNat 64 (2 ^ 31) : Word), s) else s.readS 2 sb
  let a := s.readA an
  aligned a n
  let bound := bd.1.toNat
  let idx := fun (e : Nat) => (⟨32, true⟩ : IntFmt).decode (velem (regs.getD (e / 128) 0) 32 (e % 128))
  let inside := fun (i : Int) => decide (0 ≤ i ∧ i < bound)
  if mode = 0 then
    match (List.range vl).find? (fun e => !(inside (idx e))) with
    | some e => Except.error (trapR cINDEX [BitVec.ofNat 64 e, BitVec.ofInt 64 (idx e), bd.1])
    | none => Except.ok ()
  else Except.ok ()
  let at_ := fun (e : Nat) =>
    let i := idx e
    let go := fun (i : Int) => some (a + BitVec.ofInt 64 (i * n))
    if inside i then go i
    else if mode = 1 && bound ≠ 0 then go (if i < 0 then 0 else (bound : Int) - 1)
    else none
  .ok (at_, bd.2)

/-- VGATHQ. -/
def execVgathq (an : BitVec 4) (sb : BitVec 6) (ff : BitVec 1) (vi : BitVec 9) (mode : BitVec 3) (_inc : BitVec 4) :
    State → Host.Outcome State Fault Refusal :=
  run (fun s => do
    let a ← s.indexed an sb vi mode
    a.2.vectorLoad a.1 (ff = 1))

/-- VSCATQ: bit 16 has no effect (assumption log 26). -/
def execVscatq (an : BitVec 4) (sb : BitVec 6) (_ff : BitVec 1) (vi : BitVec 9) (mode : BitVec 3) (_inc : BitVec 4) :
    State → Host.Outcome State Fault Refusal :=
  run (fun s => do
    let a ← s.indexed an sb vi mode
    a.2.vectorStore a.1)

/-! Atomics (10 R201 to R203). -/

/-- AMO: CAS also reads the old sd, first. -/
def execAmo (an : BitVec 4) (sd sa : BitVec 6) (op : BitVec 4) (size ord : BitVec 2) (scope : BitVec 3) :
    State → Host.Outcome State Fault Refusal :=
  run (fun s => do
    let n := 4 * 2 ^ size.toNat
    let a := s.readA an
    aligned a n
    let c ← if op = 9 then s.readS 2 sd else .ok (0, s)
    let v ← c.2.readS 2 sa
    let u ← v.2.oneUnit a n .amo 2
    let t ← u.2.reserveS 2 sd
    .ok (t.pushLoad (.amo op.toNat v.1 c.1 sd.toNat n ord.toNat scope.toNat) u.1))

/-- AMO with CHUNK. -/
def execAmoChunk (an : BitVec 4) (sd _sa : BitVec 6) (ord : BitVec 2) (scope : BitVec 3) :
    State → Host.Outcome State Fault Refusal :=
  run (fun s => do
    let a := s.readA an
    aligned a 32
    let u ← s.oneUnit a 32 .amo 2
    let t ← u.2.reserveS 2 sd
    .ok (t.pushLoad (.chunk sd.toNat ord.toNat scope.toNat) u.1))

/-! Full/empty words (10 R204). -/

/-- A word of the local window that carries a full/empty state: its core and offset. -/
def State.feWord (s : State) (a : Word) (acc : Acc) : Except Stop (Nat × Nat) := do
  aligned a 4
  require (lwin ≤ a.toNat) (trap cPROT)
  let r ← s.resolve a 4 acc 1
  match r.1 with
  | .sram c o => .ok (c, o)
  | .phys _ _ _ => .error (trap cPROT)

/-- The word is full: its bit, or in a FIFO bank each of its bytes lies in a slot that is FULL or DONE; a byte of no
slot is empty (10 R204). -/
def State.feFull (s : State) (w : Nat × Nat) : Bool :=
  let co := s.getCore w.1
  match co.modeAt w.2 with
  | .scratch => aget false co.fe (w.2 / 4)
  | _ => [0, 1, 2, 3].all (fun i => co.rings.any (fun r =>
      let lo := r.2.first * 0x8000
      decide (lo ≤ w.2 + i) && r.2.slotBytes ≠ 0 && (match r.2.slots[(w.2 + i - lo) / r.2.slotBytes]? with
        | some .full => true
        | some .done => true
        | _ => false)))

/-- Sets the bit of a word. -/
def State.feSet (s : State) (w : Nat × Nat) (full : Bool) : State :=
  let co := s.getCore w.1
  s.setCore w.1 { co with fe := aset false co.fe (w.2 / 4) full }

/-- The load of a full word: it comes after the context's earlier loads, after its earlier stores and drains to the word
and its earlier stores to the core's own banks (09 R191; 14 R281, R282). -/
def State.feLoad (s : State) (a : Word) (take : Bool) : Except Stop State := do
  let w ← s.feWord a (if take then .fullEmpty else .ldff)
  s.addressRoom
  let s := s.settle
  require (s.loadTurn [(some (.sram w.1 w.2), 4)]) .block
  require (s.feFull w) .block
  require (!(s.poisoned (.sram w.1 w.2) 4)) (.poison (s.poisonPlace (.sram w.1 w.2) 4))
  let v : Word := wordOf 64 (s.sramBytes w.1 w.2 4)
  let s := (s.pushLoad (.ready [.scalar v]) []).settle
  .ok (if take then s.feSet w false else s)

/-- LDFE. -/
def execLdfe (an _inc : BitVec 4) (off : BitVec 16) : State → Host.Outcome State Fault Refusal :=
  run (fun s => s.feLoad (s.addr an off) true)

/-- LDFF. -/
def execLdff (an _inc : BitVec 4) (off : BitVec 16) : State → Host.Outcome State Fault Refusal :=
  run (fun s => s.feLoad (s.addr an off) false)

/-- The earlier accesses of the context that a store to some units need not wait for are the only ones still to be performed:
plain ones to the banks of other cores (14 R278, R281, R284). -/
def Pending.storePasses (p : Pending) (us : List (Option Loc × Nat)) : Bool :=
  p.lq.all (fun e => e.kind.performed || (e.kind.plain && apart e.units us)) && p.stq.all (fun w => w.free true us)

/-- STEF: the store comes after the context's earlier accesses, but for those to the banks of other cores (14 R281, R284). -/
def execStef (an _inc : BitVec 4) (off : BitVec 16) : State → Host.Outcome State Fault Refusal :=
  run (fun s => do
    let w ← s.feWord (s.addr an off) .fullEmpty
    s.claim false 1
    let s := s.settle
    let us := [(some (Loc.sram w.1 w.2), 4)]
    require (s.ctx.pend.storePasses us && s.readable (s.ctx.pend.seq + 1) us) .block
    let n := s.ctx.pend.claims.length
    match s.ctx.pend.sdq.drop n with
    | ⟨_, _, some (.scalar v)⟩ :: rest =>
      if s.feFull w then Except.error .block
      else
        let t := s.modPend (fun p => { p with sdq := p.sdq.take n ++ rest })
        .ok (t.sramWrite w.1 w.2 (toBytes v.toNat 4) (some s.coreId))
    | _ => Except.error .block)

/-- FEMARK: as a store of the words it marks. -/
def execFemark (an : BitVec 4) (sc : BitVec 6) (full : BitVec 1) (off : BitVec 13) :
    State → Host.Outcome State Fault Refusal :=
  run (fun s => do
    let a := s.addr an off
    aligned a 4
    let n ← s.readS 2 sc
    let k := n.1.toNat
    if k = 0 then .ok n.2
    else
      require (lwin ≤ a.toNat && k ≤ 0x400000) (trap cPROT)
      let u ← n.2.elements (fun e => some (a + BitVec.ofNat 64 (4 * e))) 4 .fullEmpty 2 false 0 k
      .ok (u.2.issueStore (.mark (full = 1)) u.1))

/-! The watch, prefetch and fences (10 R205, R206). -/

/-- The contexts that watch a line of a home memory unit. -/
def State.watchers (s : State) (unit : Nat) : List Nat :=
  s.ctxKeys.filter (fun k => match (s.getCtx k).watch with
    | ⟨.phys a true _, .set, _, _, _, _⟩ => memUnit a = unit
    | _ => false)

/-- A home memory unit has room for the watches that name it, at least one; else it reclaims the entry of one, which is
open (07 R126; assumption log 17). -/
def State.watchRoom (s : State) (unit : Nat) : State :=
  let ks := s.watchers unit
  if ks.length ≤ Config.moreWatches + 1 then s
  else match s.oneOf ks with
    | some (k, t) => t.setCtx k { t.getCtx k with watch := { (t.getCtx k).watch with st := .dropped } }
    | none => s

/-- MARM: the die's L2 comes to hold a cacheable line, and the home memory unit of a line of a page with MS the watch
(07 R126). -/
def execMarm (an _inc : BitVec 4) (size : BitVec 3) (off : BitVec 16) : State → Host.Outcome State Fault Refusal :=
  run (fun s => do
    let n := 2 ^ size.toNat
    let a := s.addr an off
    aligned a n
    let r ← s.resolve a n .load 1
    let s := match r.1 with
      | .phys pa false page => r.2.l2Fill (dieOf s.coreId) r.2.myPart (pa / 128) page
      | _ => r.2
    let msl := match r.1 with
      | .phys _ ms _ => ms
      | _ => false
    let w : Watch := { line := r.1.line, st := .set, cnt := 0, orig := 0, msl := msl, waiting := false }
    let s := { s with ctx := { s.ctx with watch := w } }
    .ok (match r.1 with
      | .phys pa true _ => s.watchRoom (memUnit pa)
      | _ => s))

/-- PREF: a fault is dropped and counted. -/
def execPref (an _inc : BitVec 4) (size : BitVec 3) (off : BitVec 16) : State → Host.Outcome State Fault Refusal :=
  run (fun s => do
    let n := 2 ^ size.toNat
    let a := s.addr an off
    aligned a n
    match s.resolve a n .load 1 with
    | .error (.host _ _ _ _) =>
      .ok (s.modPart s.ctx.part (fun q => { q with prefetchFaults := q.prefetchFaults + 1 }))
    | .error _ =>
      .ok (s.modPart s.ctx.part (fun q => { q with prefetchFaults := q.prefetchFaults + 1 }))
    | .ok (.phys pa false page, t) =>
      .ok (if t.core.ways.isEmpty then t else (t.cachedRead t.coreId (pa / 128 * 128) 128 page).2)
    | .ok (_, t) => .ok t)

/-- FENCE: with accesses still pending, its release and its acquire take their places among them. -/
def execFence (kind : BitVec 2) (scope : BitVec 3) : State → Host.Outcome State Fault Refusal :=
  run (fun s =>
    let s := s.settle
    let n := scope.toNat
    let rel := fun (s : State) => s.placeRelease n
    let acq := fun (s : State) =>
      if s.ctx.pend.lq.all (fun o => o.kind.performed) && (kind = 0 || s.ctx.pend.stq.isEmpty) then s.fenceDone kind.toNat n
      else s.pushLoad (.fence kind.toNat n) []
    .ok (match kind.toNat with
      | 0 => acq s
      | 1 => rel s
      | _ =>
        -- the core's instruction cache is discarded, and again when a fence that waits completes (14 R294)
        let t := acq (rel s)
        { t with core := { t.core with icache := [] } }))

end Sys2Proof.Machine
end

