-- ==== Sys2Proof/Machine/Bundle.lean ====
section
/-! DEFINITION. From bytes to bundles: fetch through the instruction cache and the loop buffer (04 R67 to R69; 07
R117 to R119; 14 R294), and the slots that a bundle holds (04 R67, R70). -/

namespace Sys2Proof.Machine

/-! Fetch. -/

/-- A byte of memory as a load of the core would read it, without changing any cache. -/
def State.peek (s : State) (c pa : Nat) : Byte :=
  match afind (s.getCore c).l1 (pa / 128) with
  | some l => if l.valid.getLsbD (pa % 128 / 4) then l.data.getD (pa % 128) 0 else s.dieByte (dieOf c) pa
  | none => s.dieByte (dieOf c) pa

/-- A line of 64 bytes as the instruction cache gives it: a line that it holds may be older than memory until a
FENCE drops it, and whether it is still held is open (14 R294). -/
def State.fetchLine (s : State) (line : Nat) (page : PageAttr) : List Byte × State :=
  let held := s.core.l1.any (fun l => l.1 = line / 2 && l.2.valid = BitVec.allOnes 32)
  let t := if held then s else s.l2Fill (dieOf s.coreId) s.myPart (line / 2) page
  let now := (List.range 64).map (fun i => t.peek t.coreId (64 * line + i))
  let keep := fun (s : State) (bs : List Byte) =>
    (bs, { s with core := { s.core with icache := aput s.core.icache line bs } })
  match afind s.core.icache line with
  | none => keep t now
  | some old =>
    if old = now then (now, s)
    else
      let r := s.fresh
      if r.1.getLsbD 0 then (old, r.2) else keep { t with tick := r.2.tick } now

/-- The numbers and scopes of the full and sc fences of the context in focus that are still to be performed. -/
def Pending.fences (p : Pending) : List (Nat × Nat) :=
  p.lq.filterMap (fun o => match o.kind with
    | .fence kind scope => if 2 ≤ kind then some (o.seq, scope) else none
    | _ => none)

/-- A fence of the context in focus is still to be performed, behind a store to these bytes: a fetch waits for it as a
load does (14 R294, R295). -/
def State.codeComing (s : State) (l : Loc) (n : Nat) : Bool :=
  s.ctx.pend.fences.any (fun f => s.ctx.pend.stq.any (fun w =>
    w.seq < f.1 && (accessesMeet [(some l, n)] w.units || s.lateMeets w [(some l, n)])))

/-- A fetch after a full or sc fence comes after it, as the fence's later loads do: it holds while the fence can be
performed. A fence that waits for what a later bundle gives (the data of an STQ) holds no fetch: what can be performed is, and
the fetch reads memory afresh, after what the context has seen (DEDUCED, log 79: 14 R278, R294, R295). -/
def State.afterFences (s : State) : Except Stop State :=
  if s.ctx.pend.fences.isEmpty then .ok s
  else
    let t := s.settleAll
    let fs := t.ctx.pend.fences
    if fs.isEmpty then .error .hold
    else .ok (({ t with core := { t.core with icache := [] } }).acquire (fs.foldl (fun (m : Nat) (f : Nat × Nat) => max m f.2) 2))

/-- A place of the body of the outermost active level, whose bytes the loop buffer records (07 R118). -/
def Loops.recording (l : Loops) (a : Nat) : Bool :=
  match l.levels.getLast? with
  | some top => decide (top.start.toNat ≤ a ∧ a < top.stop.toNat)
  | none => false

/-- Fetches n bytes of one line: recorded bytes come from the record, others enter it (07 R117, R118; 27 R403). -/
def State.fetchBytes (s : State) (va : Word) (n : Nat) : Except Stop (List Byte × State) := do
  let a := va.toNat
  require (decide (a < lwin) && canonicalVA a) (trap cPROT)
  let l := s.ctx.loopsNow
  let held := (List.range n).map (fun i => if l.recording (a + i) then afind l.buffer (a + i) else none)
  if held.all Option.isSome then .ok (held.filterMap id, s)
  else
    let r ← s.resolve va n .fetch 0
    match r.1 with
    | .sram _ _ => .error (trap cPROT)
    | .phys pa m page => do
      let s ← r.2.afterFences
      require (!(s.codeComing (.phys pa m page) n)) .hold
      require (!(s.readBad s.coreId (.phys pa m page) n)) (.poison (s.poisonPlace (.phys pa m page) n))
      let x := s.fetchLine (pa / 64) page
      let bs := ((x.1.drop (pa % 64)).take n).zip held |>.map (fun b => b.2.getD b.1)
      let buffer := ((List.range n).zip bs).foldl (fun m b =>
        if l.recording (a + b.1) then aput m (a + b.1) b.2 else m) l.buffer
      .ok (bs, { x.2 with ctx := x.2.ctx.setLoops { l with buffer := buffer } })

/-- The width in bytes of the body of slot n (04 R67). -/
def bodyWidth (n : Nat) : Nat := if n = 3 then 2 else if n = 6 then 8 else 4

/-- The slots with bodies under a header, and the length of its bundle. -/
def bodies (h : Nat) : List Nat := (List.range 8).filter (fun n => h.testBit n && !(h.testBit (8 + n)))
def bundleLen (h : Nat) : Nat := 2 + ((bodies h).map bodyWidth).foldl (· + ·) 0

/-- A bundle from n bytes at an address may stand there: within its line, and within the innermost body that it
starts in (04 R68; 07 R119). -/
def State.framed (s : State) (a : Word) (n : Nat) : Bool :=
  a.toNat % 64 + n ≤ 64 &&
    match s.ctx.loopsNow.levels with
    | [] => true
    | top :: _ => !(top.start.ule a && a.ult top.stop && top.stop.toNat < a.toNat + n)

/-- Fetches the bytes at the program counter: those of a bundle, or the header of a line pad (04 R67 to R69; 07
R119). A waiting bundle is not fetched again (03 R52). -/
def State.fetch (s : State) : Except Stop (List Byte × State) :=
  match s.ctx.fetched with
  | some bs => .ok (bs, s)
  | none => do
    let a := s.ctx.pc
    require (a.toNat % 2 = 0) (trapR cILLB [s.ctx.xferFrom])
    let h ← s.fetchBytes a 2
    let w := ofBytes h.1
    if w = 0 then do
      require (s.framed a (64 - a.toNat % 64)) (trap cILLB)
      .ok h
    else do
      require ((List.range 8).all (fun n => w.testBit n || !(w.testBit (8 + n)))) (trap cILLB)
      require (s.framed a (bundleLen w)) (trap cILLB)
      let t ← if bundleLen w = 2 then .ok ([], h.2) else h.2.fetchBytes (a + 2) (bundleLen w - 2)
      .ok (h.1 ++ t.1, t.2)

/-! The slots of a bundle. -/

/-- The slot of a number (04 R67). -/
def slotOf : Nat → Slot
  | 0 => .c
  | 1 => .s
  | 2 => .a
  | 3 => .v
  | 4 => .m
  | 5 => .x
  | 6 => .e
  | _ => .t

/-- The instructions of the present slots, each with its slot number: none for a body that is no instruction;
an empty history entry raises ILLB (03 R63; 04 R70). -/
def slotsFrom (hist : List (Nat × Instr)) (h : Nat) : List Nat → List Byte → Except Stop (List (Nat × Option Instr))
  | [], _ => .ok []
  | n :: t, bs =>
    if !(h.testBit n) then slotsFrom hist h t bs
    else if h.testBit (8 + n) then
      match afind hist n with
      | none => .error (trap cILLB)
      | some i => do
        let r ← slotsFrom hist h t bs
        .ok ((n, some (Instr.repeated i)) :: r)
    else do
      let w := bodyWidth n
      let r ← slotsFrom hist h t (bs.drop w)
      .ok ((n, readAs (slotOf n) (ofBytes (bs.take w))) :: r)

/-- The slots of a bundle of the context in focus. -/
def State.slots (s : State) (bs : List Byte) : Except Stop (List (Nat × Option Instr)) :=
  slotsFrom s.ctx.histNow (ofBytes (bs.take 2)) (List.range 8) (bs.drop 2)

/-- The instructions of the bundle that a blocked context waits with. -/
def State.waiting (s : State) : List Instr :=
  match s.ctx.status, s.ctx.fetched with
  | .blocked _ _ _, some bs => match s.slots bs with
    | .ok l => l.filterMap Prod.snd
    | .error _ => []
  | _, _ => []

/-! The end of a bundle or pad. -/

/-- Advances the loop stack at next address n (07 R119). -/
def advance : List LoopLevel → Word → List LoopLevel × Word
  | [], n => ([], n)
  | top :: t, n =>
    if n ≠ top.stop then (top :: t, n)
    else if (top.index + 1).slt top.count then ({ top with index := top.index + 1 } :: t, top.start)
    else advance t n

/-- The context goes on at the next address n. -/
def State.goOn (s : State) (n : Word) : State :=
  let l := s.ctx.loopsNow
  let r := advance l.levels n
  let c := s.ctx.setLoops (Loops.tidy { l with levels := r.1 })
  { s with ctx := { c with pc := r.2, npc := r.2 } }

/-- A forced save point: R119 has just moved to the start of a level (23 R367; 07 R121). -/
def State.forcedPoint (s : State) (moved : Bool) : State :=
  let q := s.getPart s.ctx.part
  if moved && q.preState = 1 && q.preForced && q.hvState = 0 && s.ctx.status = .ready then
    { s with ctx := { s.ctx with status := .saving none } }
  else s

/-- LINE_PAD: the context goes on at the start of the following line (04 R68); a level's end is reached there too, so a
forced save may land (07 R119, R121). -/
def execLinePad (k : BitVec 8) : State → Host.Outcome State Fault Refusal :=
  event (fun s => s.onCtx k.toNat (fun s =>
    if !(s.ctx.isReady) then s
    else match s.fetch with
      | .ok (bs, t) =>
        if bs.length = 2 && ofBytes bs = 0 then
          let n := BitVec.ofNat 64 ((t.ctx.pc.toNat / 64 + 1) * 64)
          (t.goOn n).forcedPoint ((advance t.ctx.loopsNow.levels n).2 ≠ n)
        else s
      | .error _ => s))

end Sys2Proof.Machine
end

