-- ==== Sys2Proof/Machine/Control.lean ====
section
/-! DEFINITION. The C slot: transfers, loops, SETFMT, waits, TRAP, ERET and HALT (07 R115 to R132). PHINT stands
with pre-emption. -/

namespace Sys2Proof.Machine

/-- The target of an offset in units of two bytes from the bundle's own address (07 R116). -/
def State.target (s : State) {n : Nat} (off : BitVec n) : Word := s.ctx.pc + 2 * off.signExtend 64

/-- NOP. -/
def execNop (s : State) : Host.Outcome State Fault Refusal := run .ok s

/-- BR. -/
def execBr (off : BitVec 26) (s : State) : Host.Outcome State Fault Refusal :=
  run (fun s => .ok (s.jump (s.target off))) s

/-- CALL: the link is the sequential address. -/
def execCall (off : BitVec 26) (s : State) : Host.Outcome State Fault Refusal :=
  run (fun s => .ok ((s.setS 63 s.ctx.npc).jump (s.target off))) s

/-- BC. -/
def execBc (cond : BitVec 4) (sa : BitVec 6) (off : BitVec 16) (s : State) : Host.Outcome State Fault Refusal :=
  run (fun s => do
    let r ← s.readS 0 sa
    .ok (if bcTaken cond r.1 then r.2.jump (r.2.target off) else r.2)) s

/-- JR: an odd target is met by the next fetch (04 R69). -/
def execJr (sa : BitVec 6) (s : State) : Host.Outcome State Fault Refusal :=
  run (fun s => do
    let r ← s.readS 0 sa
    .ok (r.2.jump r.1)) s

/-- CALLR: sa is read before the link is written. -/
def execCallr (sa : BitVec 6) (s : State) : Host.Outcome State Fault Refusal :=
  run (fun s => do
    let r ← s.readS 0 sa
    .ok ((r.2.setS 63 r.2.ctx.npc).jump r.1)) s

/-- RET. -/
def execRet (s : State) : Host.Outcome State Fault Refusal :=
  run (fun s => do
    let r ← s.readS 0 63
    .ok (r.2.jump r.1)) s

/-- LOOP (07 R118). -/
def execLoop (sa : BitVec 6) (cnt : BitVec 11) (len : BitVec 9) (s : State) : Host.Outcome State Fault Refusal :=
  run (fun s => do
    let r ← if sa = 0 then .ok ((cnt.zeroExtend 64 : Word), s) else s.readS 0 sa
    let s := r.2
    let start := s.ctx.npc
    let stop := start + 2 * len.zeroExtend 64
    let l := s.ctx.loopsNow
    require (l.levels.length < 6) (trapSlot cILLI 0)
    require (match l.levels with
      | [] => true
      | top :: _ => stop.ule top.stop) (trapSlot cILLI 0)
    if (0#64).slt r.1 then
      let l := { l with levels := ⟨start, stop, r.1, 0⟩ :: l.levels }
      .ok { s with ctx := s.ctx.setLoops l }
    else .ok (s.jump stop)) s

/-- LBREAK (07 R120). -/
def execLbreak (n : BitVec 3) (s : State) : Host.Outcome State Fault Refusal :=
  run (fun s => do
    let l := s.ctx.loopsNow
    match l.levels[n.toNat - 1]? with
    | none => .error (trapSlot cILLI 0)
    | some level =>
      let l := Loops.tidy { l with levels := l.levels.drop n.toNat }
      .ok (({ s with ctx := s.ctx.setLoops l }).jump level.stop)) s

/-- SETFMT (07 R123). -/
def execSetfmt (imm : BitVec 26) (s : State) : Host.Outcome State Fault Refusal :=
  run (fun s => do
    require (fmtOk imm.toNat) (trapSlot cILLI 0)
    .ok (s.setFmt (imm.zeroExtend 64))) s

/-- SLEEPU (07 R124). -/
def execSleepu (sa : BitVec 6) (s : State) : Host.Outcome State Fault Refusal :=
  run (fun s => do
    let r ← s.readS 0 sa
    require (r.1.toNat ≤ r.2.cyc) .block
    .ok r.2) s

/-- YIELD (07 R125). -/
def execYield (s : State) : Host.Outcome State Fault Refusal :=
  run (fun s => .ok (s.modCtrl (fun c => { c with bused := 0 })).selectNext) s

/-- TRAP (07 R130). -/
def execTrap (imm : BitVec 16) (s : State) : Host.Outcome State Fault Refusal :=
  run (fun _ => .error (trapR cTRAP [imm.zeroExtend 64])) s

/-- ERET (07 R131; 23 R363, R364). -/
def execEret (s : State) : Host.Outcome State Fault Refusal := run (fun s => s.eret) s

/-- The words of a halted-context record (25 R391). -/
def haltRecord (p core ctx : Nat) (task next : Word) : List Word :=
  [BitVec.ofNat 64 (p + core * 2 ^ 8 + ctx * 2 ^ 16 + task.toNat % 2 ^ 32 * 2 ^ 32), next]

/-- HALT (07 R132): the context stops, and the host is told. -/
def execHalt (s : State) : Host.Outcome State Fault Refusal :=
  run (fun s =>
    let t := { s with ctx := { s.ctx with status := .halted } }
    .ok (t.reply s.ctx.part 0x14 (haltRecord s.ctx.part s.coreId s.ctxId s.ctx.cr.taskid s.ctx.npc))) s

/-- The result of MWAIT (07 R127). -/
def Watch.result (w : Watch) (status : Nat) : Word :=
  BitVec.ofNat 64 ((if w.st ≠ .idle && w.msl then 1024 else 0) + (if w.cnt ≠ 0 then w.orig * 256 else 0) +
    w.cnt * 16 + status)

/-- MWAIT (07 R127): a settled wait writes its result and leaves the watch idle. -/
def execMwait (sd : BitVec 6) (sa : BitVec 6) (s : State) : Host.Outcome State Fault Refusal :=
  run (fun s => do
    let r ← s.readS 0 sa
    let s := r.2
    let w := s.ctx.watch
    let done := fun (v : Word) => ({ s with ctx := { s.ctx with watch := .none } }).writeS 0 sd v
    match s.ctx.status, w.st with
    | .cleared _ _ (some v), _ => done v
    | _, .seen => done (w.result 0)
    | _, .dropped => done (w.result 1)
    | _, .idle => done (w.result 1)
    | _, .set => if (s.getPart s.ctx.part).preState = 1 then done (w.result 3) else .error .block) s

end Sys2Proof.Machine
end

