-- ==== Sys2Proof/Machine/Engine.lean ====
section
/-! DEFINITION. The engines: nest sets (10 R210, R211), the operations on elements (10 R212), how a command is
issued (10 R207, R208, R214), how it is performed step by step (10 R213 to R221; 12 R246; 13 R270 to R274; 15
R299), and how it completes or faults (10 R208, R209; 06 R114). -/

namespace Sys2Proof.Machine

/-! Nest sets. -/

/-- Bound and stride of a dimension. -/
def NestSet.boundAt (n : NestSet) (d : Nat) : Nat := aget 1 n.bound d
def NestSet.strideAt (n : NestSet) (d : Nat) : Int := aget 0 n.stride d
/-- Element size in bytes. -/
def NestSet.size (n : NestSet) : Nat := typeWidth n.elem.toNat / 8
/-- Number of elements. -/
def NestSet.count (n : NestSet) : Nat := (List.range 6).foldl (fun a d => a * n.boundAt d) 1

/-- The offset, in elements, of the element of a rank: dimension 0 fastest (10 R211). -/
def NestSet.offset (n : NestSet) (rank : Nat) : Int :=
  ((List.range 6).foldl (fun (a : Nat × Int) d =>
    (a.1 / n.boundAt d, a.2 + (a.1 % n.boundAt d : Nat) * n.strideAt d)) (rank, 0)).2

/-- An address some elements of a size away from a base. -/
def place (b : Word) (size : Nat) (off : Int) : Word := b + BitVec.ofInt 64 (size * off)

/-- The address of the element of a rank. -/
def NestSet.at (n : NestSet) (b : Word) (rank : Nat) : Word := place b n.size (n.offset rank)

/-! Operations on elements (10 R212). -/

/-- dest op src for ADD, MAX, MIN and OR: 2 to 5. -/
def elemCombine (ty op dst src : Nat) : Nat :=
  let d : ViewDesc := {
    range := 0, len := 0, type := ty,
    op := if op = 2 then 0 else if op = 3 then 3 else if op = 4 then 2 else 5 }
  (d.combine dst src).1

/-! What stops a command (06 R114). -/

inductive EStop where
  /-- Delivered by R209, with its code. -/
  | fault (code : BitVec 8)
  /-- For the host: cause and address. -/
  | host (code : BitVec 8) (va : Word)
  /-- It waits: a ring slot, other commands, a frame. -/
  | wait
  /-- Poison would reach a context: its physical address or structure index (27 R403, R404). -/
  | poison (loc : Word)
  deriving DecidableEq, Repr

/-- R209 with a code unless the condition holds. -/
def demand (b : Bool) (code : BitVec 8) : Except EStop Unit := if b then .ok () else .error (.fault code)

/-! Engine accesses (14 R292; 24 R379). -/

/-- Where a unit lies. -/
def State.eloc (s : State) (va : Word) (n : Nat) (acc : Acc) : Except EStop (Loc × State) :=
  match s.resolve va n acc 3 with
  | .ok r => .ok r
  | .error (.trap c _ _) => .error (.fault c)
  | .error (.host c a _ _) => .error (.host c a)
  | .error _ => .error .wait

/-- A cacheable line's bytes as an engine reads them: the dirty words of the core's L1, else the die's L2. -/
def State.engineBytes (s : State) (pa n : Nat) : List Byte :=
  let bs := s.dieBytes (dieOf s.coreId) pa n
  match afind s.core.l1 (pa / 128) with
  | none => bs
  | some l => (List.range n).map (fun i =>
      let o := pa % 128 + i
      if l.dirty.getLsbD (o / 4) then l.data.getD o 0 else bs.getD i 0)

/-- Whether those bytes are poisoned, in the dirty words of the core's L1 or below it (27 R402). -/
def State.engineBad (s : State) (pa n : Nat) : Bool :=
  match afind s.core.l1 (pa / 128) with
  | none => s.memoryBad pa n false
  | some l => (wordsOver (pa % 128) n).any (fun w =>
      if l.dirty.getLsbD w then s.l1Bad s.coreId (pa / 128) l w else s.memoryBad pa n false)

/-- Reads a unit: its bytes, and whether they were poisoned. -/
def State.eread (s : State) (va : Word) (n : Nat) : Except EStop (List Byte × Bool × State) := do
  let r ← s.eloc va n .engineRead
  if !(r.2.slotsReady r.1 n) then .error .wait
  else
    match r.1 with
    | .phys pa false page =>
      let t := r.2.l2Fill (dieOf s.coreId) s.myPart (pa / 128) page
      .ok (t.engineBytes pa n, t.engineBad pa n, t)
    | l =>
      let x := r.2.readUnit s.coreId l n
      .ok (x.1, r.2.poisoned l n, x.2)

/-- Writes a unit at a location; a poisoned operand poisons it (27 R402). -/
def State.eput (s : State) (l : Loc) (bs : List Byte) (bad : Bool) : State :=
  let t := match l with
    | .phys pa false page =>
      let d := dieOf s.coreId
      ((s.l2Put d s.myPart page false pa bs).cleanPoison l bs.length).notify l (some d) (some s.coreId)
    | l => s.writeUnit s.coreId l bs
  if bad then t.setPoison l bs.length else t

/-- Writes a unit at an address. -/
def State.ewrite (s : State) (va : Word) (bs : List Byte) (bad : Bool) : Except EStop State := do
  let r ← s.eloc va bs.length .engineWrite
  .ok (r.2.eput r.1 bs bad)

/-- dest op= src for one element. -/
def State.ecombine (s : State) (ty op n : Nat) (dst src : Word) : Except EStop State := do
  let x ← s.eread src n
  if op = 0 then x.2.2.ewrite dst x.1 x.2.1
  else
    let y ← x.2.2.eread dst n
    y.2.2.ewrite dst (toBytes (elemCombine ty op (ofBytes y.1) (ofBytes x.1)) n) (x.2.1 || y.2.1)

/-- Poison met by a read of a unit, with its place (27 R403, R404). -/
def State.epoison (s : State) (va : Word) (n : Nat) : EStop :=
  match s.eloc va n .engineRead with
  | .ok r => .poison (r.2.poisonPlace r.1 n)
  | .error e => e

/-- Reads bytes in pieces of 64; `k` pieces. -/
def State.ereadLong (s : State) (va : Word) : Nat → Except EStop (List Byte × State)
  | 0 => .ok ([], s)
  | k + 1 => do
    let x ← s.eread va 64
    if x.2.1 then .error (s.epoison va 64)
    else
      let y ← x.2.2.ereadLong (va + 64) k
      .ok (x.1 ++ y.1, y.2)

/-! Row indices (10 R200, R215). -/

/-- Which table row an index names: none for INDEX, an inner none for no row. -/
def rowNamed (bound mode : Nat) (i : Int) : Option (Option Nat) :=
  if 0 ≤ i ∧ i < bound then some (some i.toNat)
  else if mode = 0 then none
  else if mode = 1 && bound ≠ 0 then some (some (if i < 0 then 0 else bound - 1))
  else some none

/-- A command comes to element j of rows of `w` elements: at the first of a row it reads the row's index from a table of
I32 indices. -/
def State.rowIndex (s : State) (c : Cmd) (ai : Word) (j w : Nat) : Except EStop (State × Cmd) :=
  if j % w ≠ 0 then .ok (s, c)
  else do
    let x ← s.eread (ai + BitVec.ofNat 64 (4 * (j / w))) 4
    .ok (x.2.2, { c with index := (⟨32, true⟩ : IntFmt).decode (ofBytes x.1), indexBad := x.2.1 })

/-- The address of element c of table row r. -/
def NestSet.inRow (n : NestSet) (b : Word) (r c : Nat) : Word :=
  place b n.size (r * n.strideAt 1 + c * n.strideAt 0)

/-! Near-memory operations (10 R216, R218). -/

/-- A unit that must lie in an MS page, for reading: where it is at home (12 R261). -/
def State.nmRead (s : State) (va : Word) (n : Nat) : Except EStop (Loc × State) := do
  let r ← s.eloc va n .engineRead
  match r.1 with
  | .phys _ true _ => .ok r
  | _ => .error (.fault cNMATTR)

/-- The same, for reading and writing. -/
def State.nmLoc (s : State) (va : Word) (n : Nat) : Except EStop (Loc × State) := do
  let r ← s.eloc va n .engineRead
  let w ← r.2.eloc va n .engineWrite
  match w.1 with
  | .phys _ true _ => .ok w
  | _ => .error (.fault cNMATTR)

/-- Updates an FP32 or integer word of an MS page. -/
def State.nmUpdate (s : State) (va : Word) (n : Nat) (bad : Bool) (f : Nat → Nat) : Except EStop State := do
  let r ← s.nmLoc va n
  let x := r.2.readUnit s.coreId r.1 n
  .ok (x.2.eput r.1 (toBytes (f (ofBytes x.1)) n) (bad || r.2.poisoned r.1 n))

/-- Element words that an NMOP admits. -/
def nmopType (op ty : Nat) : Bool :=
  match op with
  | 0 => ty = 0x0C
  | 1 => ty = 0x0B
  | 2 => ty = 4 || ty = 5
  | 5 => ty = 4 || ty = 5
  | _ => ty = 4 || ty = 5 || ty = 0x0C

/-- rne32 of a sum, a difference, a product, a quotient and a root of FP32 patterns. -/
def f32Add (a b : Nat) : Nat := (rne32 (FVal.add 0 (fmtFP32.decode a) (fmtFP32.decode b)).1).1
def f32Sub (a b : Nat) : Nat := (rne32 (FVal.add 0 (fmtFP32.decode a) (fmtFP32.decode b).neg).1).1
def f32Mul (a b : Nat) : Nat := (rne32 (FVal.mul (fmtFP32.decode a) (fmtFP32.decode b)).1).1
def f32Div (a b : Nat) : Nat := (rne32 (FVal.div (fmtFP32.decode a) (fmtFP32.decode b))).1
def f32Sqrt (a : Nat) : Nat := (rne32 (FVal.sqrt (fmtFP32.decode a))).1
def f32One : Nat := 0x3F800000

/-- One optimiser element (10 R218): the header h, then p, g, m, v to the new p, m, v. -/
def optimise (alg : Nat) (h : Nat → Nat) (p g m v : Nat) : Nat × Nat × Nat :=
  let eta := h 0
  match alg with
  | 0 => (f32Sub p (f32Mul eta g), m, v)
  | 1 =>
    let m := f32Add (f32Mul (h 1) m) g
    (f32Sub p (f32Mul eta m), m, v)
  | _ =>
    let m := f32Add (f32Mul (h 1) m) (f32Mul (f32Sub f32One (h 1)) g)
    let v := f32Add (f32Mul (h 2) v) (f32Mul (f32Mul (f32Sub f32One (h 2)) g) g)
    let q := f32Div (f32Mul (h 5) m) (f32Add (f32Sqrt (f32Mul (h 6) v)) (h 3))
    (f32Sub p (f32Mul eta (f32Add q (f32Mul (h 4) p))), m, v)

/-- Word k of the header of an NMOPT. -/
def headerWord (bs : List Byte) (k : Nat) : Nat := ofBytes ((bs.drop (4 * k)).take 4)

/-- One element of an NMOPT of n parameters: every access is checked before the first write. -/
def State.nmoptItem (s : State) (c : Cmd) (alg n j : Nat) (ap ag am : Word) : Except EStop State := do
  let o := BitVec.ofNat 64 (4 * j)
  let lp ← s.nmLoc (ap + o) 4
  let lg ← lp.2.nmRead (ag + o) 4
  let get := fun (s : State) (l : Loc) => ofBytes (s.readUnit s.coreId l 4).1
  if alg = 0 then
    let s := lg.2
    let bad := s.poisoned lp.1 4 || s.poisoned lg.1 4
    let x := optimise 0 (headerWord c.data) (get s lp.1) (get s lg.1) 0 0
    .ok (s.eput lp.1 (toBytes x.1 4) bad)
  else
    let lm ← lg.2.nmLoc (am + 64 + o) 4
    let lv ← if alg = 1 then .ok lm else lm.2.nmLoc (am + 64 + BitVec.ofNat 64 (4 * n) + o) 4
    let s := lv.2
    let bad := s.poisoned lp.1 4 || s.poisoned lg.1 4 || s.poisoned lm.1 4 || s.poisoned lv.1 4
    let x := optimise alg (headerWord c.data) (get s lp.1) (get s lg.1) (get s lm.1) (get s lv.1)
    let s := s.eput lm.1 (toBytes x.2.1 4) bad
    let s := if alg = 1 then s else s.eput lv.1 (toBytes x.2.2 4) bad
    .ok (s.eput lp.1 (toBytes x.1 4) bad)

/-! Pages (10 R221; 13 R274; 24 R382). -/

/-- The place of the leaf that a walk reaches. -/
def State.leafPlace (s : State) (va : Nat) (table : Nat) : List (Nat × Nat) → Nat
  | [] => 0
  | (lv, sh) :: rest =>
    let a := table + 8 * (va / 2 ^ sh % (if lv = 0 then 32 else 512))
    let e := ofBytes (agetN zeroByte s.mem a 8)
    if e.testBit 1 then a else s.leafPlace va (e / 2 ^ 12 % 2 ^ 36 * 2 ^ 12) rest

/-- The leaves that cover a region whole, each with its address, its place, its entry and its page bits. A PMIG of the local
window walks the tables like any other (DESIGN CHOICE, assumption log 81: R221 names no outcome there). -/
def State.leaves (s : State) (p va stop : Nat) : Nat → Except EStop (List (Nat × Nat × Nat × Nat))
  | 0 => .ok []
  | n + 1 =>
    if stop ≤ va then .ok []
    else
      let root := (s.getPart p).ptroot.toNat / 2 ^ 12 % 2 ^ 36 * 2 ^ 12
      match (if canonicalVA va then s.walkRoot p va else .error cPROT : Except (BitVec 8) (Nat × Nat)) with
      | .error c => .error (.host c (BitVec.ofNat 64 va))
      | .ok (e, sh) =>
        if va % 2 ^ sh ≠ 0 || stop < va + 2 ^ sh then .error (.fault cALIGN)
        else do
          let t ← s.leaves p (va + 2 ^ sh) stop n
          .ok ((va, s.leafPlace va root walkLevels, e, sh) :: t)

/-- Bytes of memory moved from one range to another. -/
def moveRange {α : Type} (m : List (Nat × α)) (old new n : Nat) : List (Nat × α) :=
  let src := (m.filter (fun e => old ≤ e.1 && e.1 < old + n)).map (fun e => (e.1 - old + new, e.2))
  src.foldl (fun m e => aput m e.1 e.2) (m.filter (fun e => !(new ≤ e.1 && e.1 < new + n)))

/-- Some access of a partition that is issued and not performed touches a place. -/
def State.pendingOn (s : State) (p : Nat) (hit : Loc → Bool) : Bool :=
  let us := fun (l : List (Option Loc × Nat)) => l.any (fun u => match u.1 with
    | some l => hit l
    | none => false)
  s.ctxKeys.any (fun k => s.partOf (crewOf (k / 4)) = p &&
    ((s.getCtx k).pend.lq.any (fun o => us o.units) || (s.getCtx k).pend.stq.any (fun o => us o.units))) ||
  s.coreKeys.any (fun c => s.partOf (crewOf c) = p && (s.getCore c).arr.queue.any (fun d => us d.2.2.units))

/-- A location lies in a physical range. -/
def inRange (a n : Nat) : Loc → Bool
  | .phys x _ _ => a ≤ x && x < a + n
  | .sram _ _ => false

/-- Evicts the lines of a physical range from a partition's L1s and every L2 (12 R262). -/
def State.dropLines (s : State) (p a n : Nat) : State :=
  let mine := fun (l : Nat) => a ≤ l * 128 && l * 128 < a + n
  let s := (s.partCores p).foldl (fun s c =>
    (((s.getCore c).l1.map Prod.fst).filter mine).foldl (fun s l => s.l1Evict c l) s) s
  let s := s.drainBytes (fun x => a ≤ x && x < a + n)
  [0, 1, 2, 3].foldl (fun s d => (((s.getDie d).tags.map Prod.fst).filter mine).foldl (fun s l => s.evictLine d l) s) s

/-- Moves one page and rewrites its leaf; every TLB forgets it (24 R381, R382). -/
def State.movePage (s : State) (p : Nat) (va entry e sh new : Nat) : State :=
  let old := e / 2 ^ 12 % 2 ^ 36 * 2 ^ 12
  let n := 2 ^ sh
  let s := (s.dropLines p old n).dropLines p new n
  let e' := e % 2 ^ 8 + tierOf new * 2 ^ 8 + new / 2 ^ 12 * 2 ^ 12
  let m := moveRange s.mem old new n
  let s := { s with
    mem := asetN zeroByte m entry (toBytes e' 8),
    poison := moveRange s.poison (old / 32) (new / 32) (n / 32),
    msClock := moveRange s.msClock (old / 128) (new / 128) (n / 128) }
  s.dropTlbs p (fun vpn b => vpn * 2 ^ b < va + n && va < (vpn + 1) * 2 ^ b)

/-- Frames fit a leaf: whole, aligned, contiguous, owned, and of the tier (24 R382; 25 R391). -/
def State.framesFit (s : State) (p tier sh : Nat) (fs : List Nat) : Bool :=
  let f := fs.headD 1
  f % 2 ^ sh = 0 && fs.length = 2 ^ (sh - 16) &&
    ((List.range fs.length).zip fs).all (fun q => q.2 = f + q.1 * 65536 && s.owns p q.2 && tierOf q.2 = tier)

/-- Moves page k of the region at `start` into the granted frames: a leaf of several pages moves whole, with its first. -/
def State.movePages (s : State) (p tier start k : Nat) (ls : List (Nat × Nat × Nat × Nat)) (fs : List Nat) :
    Except EStop State :=
  match ls.find? (fun l => l.1 = start + k * 65536) with
  | none => .ok s
  | some (va, entry, e, sh) =>
    let mine := (fs.drop k).take (2 ^ (sh - 16))
    if !(s.framesFit p tier sh mine) then .error (.fault cPROT)
    else if s.pendingOn p (inRange (e / 2 ^ 12 % 2 ^ 36 * 2 ^ 12) (2 ^ sh)) then .error .wait
    else .ok (s.movePage p va entry e sh (mine.headD 0))

/-! Rings (13 R270 to R272). -/

/-- A closed ring of no slots. -/
def Ring.none : Ring :=
  { first := 0, banks := 0, slotBytes := 0, slots := [], next := 0, oldest := 0, active := false, src := 0,
    set := .reset, total := 0, owner := 0, cmd := .none }

/-- The ring of a core. -/
def Core.ring (c : Core) (r : Nat) : Ring := aget Ring.none c.rings r
def State.setRing (s : State) (r : Nat) (x : Ring) : State :=
  { s with core := { s.core with rings := aset Ring.none s.core.rings r x } }

/-- The geometry of a subscription: every slot FREE, or DONE for an empty set. -/
def Ring.formed (first cnt slot : Nat) (src : Word) (set : NestSet) (owner : Nat) : Ring :=
  let z := slot * 128
  let total := set.count * set.size
  { first := first, banks := cnt, slotBytes := z,
    slots := List.replicate (if z = 0 then 0 else cnt * 32768 / z) (if total = 0 then .done else .free),
    next := 0, oldest := 0, active := true, src := src, set := set, total := total, owner := owner, cmd := .none }

/-- All bytes of the stream have entered slots. -/
def Ring.ended (r : Ring) : Bool := r.total ≤ r.next * r.slotBytes

/-- SLOTRET turns the k oldest FULL slots. -/
def Ring.giveBack (r : Ring) : Nat → Ring
  | 0 => r
  | k + 1 =>
    let j := r.oldest % r.slots.length
    ({ r with
      slots := r.slots.set j (if r.ended then .done else .free), oldest := r.oldest + 1 }).giveBack k

/-- FULL slots in ring order from the oldest. -/
def Ring.fullSlots (r : Ring) : Nat :=
  (((List.range r.slots.length).map (fun i => r.slots.getD ((r.oldest + i) % r.slots.length) .done)).takeWhile
    (fun x => x = .full)).length

/-! Banks (12 R246). -/

/-- Removes a way from the L1 of the core in focus: its dirty words are written back. -/
def State.dropWay (s : State) (bank : Nat) : State :=
  (s.core.l1.filter (fun l => l.2.way = bank)).foldl (fun s l =>
    let s := s.writeLine s.coreId l.1 l.2
    { s with core := { s.core with l1 := adel s.core.l1 l.1 } }) s

/-- Zeroes a bank of the core in focus and gives it a mode and a ring. -/
def State.switchBank (s : State) (bank : Nat) (mode : BankMode) (ring : Nat) : State :=
  let s := if s.core.modeAt (bank * 0x8000) = .cache then s.dropWay bank else s
  let co := s.core
  let out := fun {α : Type} (u : Nat) (m : List (Nat × α)) => m.filter (fun (e : Nat × α) => e.1 / u ≠ bank)
  let co := { co with
    sram := out 0x8000 co.sram, fe := out 0x2000 co.fe, poison := out 0x2000 co.poison,
    bankMode := aset .scratch co.bankMode bank mode, bankRing := aset 0 co.bankRing bank ring,
    wiped := aput co.wiped bank s.cycle, phased := out 0x8000 co.phased,
    rings := co.rings.filter (fun r => r.2.active || !(r.2.first ≤ bank && bank < r.2.first + r.2.banks)) }
  let s := { s with core := co }
  s.mapWatches (fun _ => true) (fun c w => match w.line with
    | .sram k o => if k = s.coreId && o / 0x8000 = bank then w.observe w.line (origin c (some s.coreId)) else w
    | .phys _ _ _ => w)

/-- The mode of a code. -/
def bankModeOf (m : BitVec 2) : BankMode := if m = 0 then .scratch else if m = 1 then .cache else .fifo

/-! Group slots (15 R299). -/

/-- Updates a group slot of the core in focus. -/
def State.modGroup (s : State) (k : Nat) (f : GroupSlot → GroupSlot) : State :=
  let g := f (aget GroupSlot.reset s.core.groups k)
  { s with core := { s.core with groups := aset GroupSlot.reset s.core.groups k g } }

/-- A GLOAD to a slot was issued after a given one, which it leaves abandoned. -/
def Core.gloadAfter (c : Core) (slot stamp : Nat) : Bool := stamp < (aget GroupSlot.reset c.groups slot).stamp

/-- The latest GLOAD to a slot is still to be performed. -/
def Core.gloading (c : Core) (slot : Nat) : Bool :=
  c.eq.any (fun q => q.2.any (fun x => match x.i with
    | .gload _ _ _ k => k.toNat = slot && x.stamp = (aget GroupSlot.reset c.groups slot).stamp
    | _ => false))

/-! The steps of a command. -/

/-- Columns and rows of a filter bank that an FLOADM covers. -/
def NestSet.filterCols (n : NestSet) : Nat := min (n.boundAt 0) (if n.size = 2 then 64 else 128)
def NestSet.filterRows (n : NestSet) : Nat := min (n.boundAt 1) 128

/-- Steps that a command takes, in ascending order: most often one for an element; of a PMIG, the request of its frames and
then one for each page. Contributions to a destination in an open order take a last one, when all of them have been read.
A set that takes no element in some dimension has no step (10 R211). -/
def Cmd.items (c : Cmd) : Nat :=
  let n := c.sets.headD .reset
  match c.i with
  | .copy _ _ _ _ _ _ _ => (c.sets.getD 1 .reset).count
  | .gather _ _ _ _ _ _ _ _ => n.boundAt 0 * n.boundAt 1
  | .scatter _ _ _ _ _ _ _ op => n.boundAt 0 * n.boundAt 1 + (if op = 0 then 0 else 1)
  | .nmop _ _ _ _ _ _ _ ix => (if ix = 1 then n.boundAt 0 * n.boundAt 1 else n.count) + 1
  | .nmopt _ _ _ _ _ _ cnt => 128 * cnt.toNat
  | .hcwld _ _ _ _ cnt => cnt.toNat
  | .zerom _ _ _ lines => lines.toNat
  | .floadm _ _ _ _ _ => if n.count = 0 then 0 else n.filterCols * n.filterRows
  | .nmfence _ _ => 0
  | .pmig _ _ _ _ pages => if pages = 0 then 0 else 1 + pages.toNat
  | .put _ _ _ _ _ _ _ => max 1 n.count
  | .get _ _ _ _ _ _ _ => n.count
  | _ => 1

/-- The context and dispatch that issued a command still run, here or in a saved image. -/
def State.cmdCtx (s : State) (p : Nat) (c : Cmd) : Option Ctx :=
  if ((s.getPart p).task? c.task).any (fun t => t.order = c.order) then s.taskCtx p c.task else none

/-- Changes the context that issued a command: where its task runs, else the context itself. -/
def State.modCmdCtx (s : State) (p : Nat) (c : Cmd) (f : Ctx → Ctx) : State :=
  match s.cmdCtx p c with
  | some _ => s.modTaskCtx p c.task f
  | none => s.setCtx c.ctx (f (s.getCtx c.ctx))

/-- What a command checks before its first step. One of amount 0 has no element whose base could be misaligned, but a count or
type that does not fit is delivered (DESIGN CHOICE, assumption log 82: 10 R208 completes it without touching the barrier, and R209
delivers what the chapter names). -/
def State.cmdStart (s : State) (c : Cmd) : Except EStop Cmd := do
  let a := fun k => (c.aregs.getD k 0)
  let al := fun (k n : Nat) => c.amount = 0 || (a k).toNat % n = 0
  let n := c.sets.headD .reset
  let isFloat := fun (t : Nat) => match typeClass t with
    | some (.float _) => true
    | _ => false
  match c.i with
  | .copy _ _ _ _ _ _ op =>
    let d := c.sets.getD 1 .reset
    demand (al 0 n.size && al 1 d.size) cALIGN
    demand (n.count = d.count && (op.toNat % 32 = 1 || n.elem = d.elem) &&
      !(op.toNat % 32 = 5 && isFloat d.elem.toNat)) cILLI
    .ok c
  | .gather _ _ _ _ _ _ _ _ =>
    demand (al 0 n.size && al 1 4 && al 2 n.size) cALIGN
    .ok c
  | .scatter _ _ _ _ _ _ _ op =>
    demand (al 0 n.size && al 1 4 && al 2 n.size) cALIGN
    demand (!(op = 5 && isFloat n.elem.toNat)) cILLI
    .ok c
  | .nmop _ _ _ _ _ _ op ix =>
    demand (nmopType op.toNat n.elem.toNat) cILLI
    demand (al 0 n.size && al 1 n.size && (ix = 0 || al 2 4)) cALIGN
    .ok c
  | .nmopt _ _ _ _ _ _ _ =>
    demand (al 0 4 && al 1 4 && al 2 64) cALIGN
    if c.amount = 0 then .ok c
    else
      let r ← s.nmRead (a 2) 64
      if r.2.poisoned r.1 64 then .error (.poison (r.2.poisonPlace r.1 64))
      else .ok { c with data := (r.2.readUnit s.coreId r.1 64).1 }
  | .hcwld _ _ _ _ _ =>
    demand (al 0 32) cALIGN
    .ok c
  | .gload _ _ _ _ =>
    demand (al 0 64) cALIGN
    .ok c
  | .floadm _ _ _ _ _ =>
    demand (arrayType n.elem.toNat && n.elem ≠ 0x10) cILLI
    demand (al 0 n.size) cALIGN
    .ok c
  | .zerom _ _ _ _ =>
    demand (al 0 128) cALIGN
    .ok c
  | .pmig _ _ _ _ _ =>
    demand (al 0 65536) cALIGN
    .ok c
  | .put _ _ _ _ _ op _ =>
    demand (al 0 n.size) cALIGN
    demand (!(op = 5 && isFloat n.elem.toNat)) cILLI
    .ok c
  | .get _ _ _ _ _ op _ =>
    demand (al 0 n.size) cALIGN
    demand (!(op = 5 && isFloat n.elem.toNat)) cILLI
    .ok c
  | _ => .ok c

/-- Bytes as message words. -/
def wordsOf (bs : List Byte) : List Word :=
  (chunks 8 ((bs.length + 7) / 8) bs).map (fun b => wordOf 64 b)

/-- Commands that a QFENCE waits for: issued earlier to a queue of its mask, its own aside. -/
def Core.qfenceWaits (c : Core) (own mask stamp : Nat) : Bool :=
  c.eq.any (fun q => q.1 ≠ own && mask.testBit q.1 && q.2.any (fun x => x.stamp < stamp)) ||
  c.rings.any (fun r => r.2.cmd.any (fun x => x.stamp < stamp && match x.i with
    | .subscr q _ _ _ _ _ _ _ => q.toNat ≠ own && mask.testBit q.toNat
    | _ => false))

/-! Messages to a peer (10 R221; 25 R390). A PUT, or what a GET fetches, goes in pieces that one message can carry. -/

/-- Bytes of a piece. -/
def pieceBytes : Nat := 2 ^ 18

/-- A message of a PUT or GET to its peer, for which the command waits; the last fields of the route are given to `body`:
the partition there, the barrier and the log. -/
def State.toPeer (s : State) (c : Cmd) (peer : BitVec 8) (kind : Nat) (body : Nat → Nat → Nat → List Word) :
    Except EStop (State × Cmd) :=
  let p := s.myPart
  match aget [] (s.getPart p).routes peer.toNat with
  | [port, rpart, bar, log, _] => do
    demand ((s.getPort port).st ≠ 0) cPROT
    .ok (s.post port (2 * p) kind (body rpart bar log), { c with wait := .farEnd port })
  | _ => .error (.fault cPROT)

/-- The tag of a command's messages, by which their answers find it: its queue, its core, and its place in the core's issue
order, so that a late answer meets no later command (assumption log 25). -/
def State.cmdTag (s : State) (c : Cmd) (q : BitVec 4) : Word := BitVec.ofNat 64 (16 * s.coreId + q.toNat + 1024 * c.stamp)

/-- The origins of a set, as message words. -/
def NestSet.originWords (n : NestSet) : List Word := (List.range 6).map (fun d => BitVec.ofNat 64 (aget 0 n.origin d))

/-- The elements of a PUT that are read go to the peer, at their place of the region; the last piece names the barrier
there, with the bytes of the whole PUT (25 R397). `upto` elements are read; those of one piece are all poisoned or none
is (27 R402). -/
def State.sendPiece (s : State) (c : Cmd) (q : BitVec 4) (peer : BitVec 8) (op : BitVec 6) (upto : Nat) :
    Except EStop (State × Cmd) :=
  let n := c.sets.headD .reset
  let last := n.count ≤ upto
  let at_ := c.aregs.getD 1 0 + BitVec.ofNat 64 (upto * n.size - c.data.length)
  (s.toPeer c peer 0x0A (fun rpart bar log =>
    [BitVec.ofNat 64 rpart, BitVec.ofNat 64 s.myPart, s.cmdTag c q, op.zeroExtend 64,
      n.elem.zeroExtend 64] ++ n.originWords ++
    [at_, BitVec.ofNat 64 c.anum, BitVec.ofNat 64 (if last then bar else 0), BitVec.ofNat 64 log,
      BitVec.ofNat 64 c.data.length, if c.bads.headD false then 1 else 0, BitVec.ofNat 64 (upto * n.size)] ++
      wordsOf c.data)).map (fun r => (r.1, { r.2 with data := [], bads := [] }))

/-- A GET asks its peer for the next piece, from element j on. -/
def State.askPiece (s : State) (c : Cmd) (q : BitVec 4) (peer : BitVec 8) (j : Nat) : Except EStop (State × Cmd) :=
  let n := c.sets.headD .reset
  s.toPeer c peer 0x0B (fun rpart _ _ =>
    [BitVec.ofNat 64 rpart, BitVec.ofNat 64 s.myPart, s.cmdTag c q, n.elem.zeroExtend 64] ++
    n.originWords ++ [c.aregs.getD 1 0 + BitVec.ofNat 64 (j * n.size),
      BitVec.ofNat 64 (min pieceBytes ((n.count - j) * n.size))])

/-! Contributions in an open order (10 R215, R216): each is read in its turn, with its destination checked, and applied
then or later. -/

/-- Applies a contribution. -/
def State.applyHeld (s : State) (c : Cmd) (x : Word × List Byte × Bool) : Except EStop State :=
  let ty := (c.sets.headD .reset).elem.toNat
  let k := x.2.1.length
  match c.i with
  | .scatter _ _ _ _ _ _ _ op => do
    let y ← s.eread x.1 k
    y.2.2.ewrite x.1 (toBytes (elemCombine ty op.toNat (ofBytes y.1) (ofBytes x.2.1)) k) (x.2.2 || y.2.1)
  | .nmop _ _ _ _ _ _ op _ =>
    s.nmUpdate x.1 k x.2.2 (fun v => elemCombine ty (if op.toNat ≤ 2 then 2 else op.toNat) v (ofBytes x.2.1))
  | _ => .ok s

/-- Applies one contribution, or none, by an open choice; with `must`, one. -/
def State.applySome (s : State) (c : Cmd) (must : Bool) : Except EStop (State × Cmd) :=
  let k := c.held.length
  match s.oneOf ((if must then [] else [k]) ++ List.range k) with
  | none => .ok (s, c)
  | some (i, t) => match c.held[i]? with
    | none => .ok (t, c)
    | some x => do
      let u ← t.applyHeld c x
      .ok (u, { c with held := c.held.eraseIdx i })

/-- A contribution is read: the last one leaves the choice to the step that follows. -/
def State.hold (s : State) (c : Cmd) (j : Nat) (x : Word × List Byte × Bool) : Except EStop (State × Cmd) :=
  let c := { c with held := c.held ++ [x] }
  if j + 2 < c.items then s.applySome c false else .ok (s, c)

/-! Rows of a filter bank (09 R186): a row is written as a whole. -/

/-- Writes the elements of a row that are read, up to a column; the end of the row zeroes what the set leaves
uncovered. -/
def State.putFilterRow (s : State) (bank row col size : Nat) (bs : List Byte) (whole : Bool) : State :=
  let k := (bank * 128 + row) * 128
  let n := bs.length / size
  s.modArr (fun u =>
    let f := if whole then u.filters.filter (fun e => !(k + col ≤ e.1 && e.1 < k + 128)) else u.filters
    let g := ((List.range n).zip (chunks size n bs)).foldl
      (fun m e => aset 0 m (k + col - n + e.1) (wordOf 16 e.2)) f
    { u with filters := g })

/-! Elements that are only moved. -/

/-- A COPY.cvt of one element (10 R212; 02 R39, R40): between equal types too the value is decoded and encoded again; a
stochastic rounding is RNE. -/
def cvtElem (ty tz : Nat) (fmt : Word) (x : Nat) : Nat :=
  let isInt := fun (t : TypeClass) => match t with
    | .int _ => true
    | _ => false
  match typeClass ty, typeClass tz with
  | some t, some u =>
    (convertTo u (isInt t) (if fmtRm fmt = 5 then 0 else fmtRm fmt) (fmtSat fmt) (t.value x) .none 0).1
  | _, _ => 0

/-- What step j of a command that only moves data, or converts it, writes: the destination, the bytes, and whether they are
poisoned; none where a row is skipped (10 R212 to R215, R221; 27 R402). An element named by a poisoned index is poisoned. -/
def State.moved (s : State) (c : Cmd) (j : Nat) : Except EStop (Option (Word × List Byte × Bool) × State × Cmd) := do
  let a := fun k => (c.aregs.getD k 0)
  let n := c.sets.headD .reset
  let sz := n.size
  let w := n.boundAt 0
  match c.i with
  | .copy _ _ _ _ _ _ op =>
    let d := c.sets.getD 1 .reset
    let x ← s.eread (n.at (a 0) j) sz
    let bs := if op.toNat % 32 = 1 then toBytes (cvtElem n.elem.toNat d.elem.toNat c.fmt (ofBytes x.1)) d.size else x.1
    .ok (some (d.at (a 1) j, bs, x.2.1), x.2.2, c)
  | .gather _ _ _ _ _ _ mode _ =>
    let i ← s.rowIndex c (a 1) j w
    let dst := a 2 + BitVec.ofNat 64 (j * sz)
    match rowNamed (n.boundAt 2) mode.toNat i.2.index with
    | none => .error (.fault cINDEX)
    | some none => .ok (some (dst, List.replicate sz 0, i.2.indexBad), i)
    | some (some r) =>
      -- each table row is fetched once
      let k := r * w + j % w
      match afind i.2.fetched k with
      | some x => .ok (some (dst, x.1, x.2 || i.2.indexBad), i)
      | none =>
        let x ← i.1.eread (n.inRow (a 0) r (j % w)) sz
        .ok (some (dst, x.1, x.2.1 || i.2.indexBad), x.2.2, { i.2 with fetched := aput i.2.fetched k (x.1, x.2.1) })
  | .scatter _ _ _ _ _ _ mode _ =>
    let i ← s.rowIndex c (a 1) j w
    match rowNamed (n.boundAt 2) mode.toNat i.2.index with
    | none => .error (.fault cINDEX)
    | some none => .ok (none, i)
    | some (some r) =>
      let x ← i.1.eread (a 2 + BitVec.ofNat 64 (j * sz)) sz
      .ok (some (n.inRow (a 0) r (j % w), x.1, x.2.1 || i.2.indexBad), x.2.2, i.2)
  | _ => .ok (some (n.at (a 0) j, c.data.take sz, (c.bads.take sz).any id), s,
      { c with data := c.data.drop sz, bads := c.bads.drop sz })

/-- Writes an element that is moved. -/
def State.putMoved (s : State) : Option (Word × List Byte × Bool) → Except EStop State
  | none => .ok s
  | some x => s.ewrite x.1 x.2.1 x.2.2

/-- Whether a command only moves its elements, or converts them. -/
def Cmd.onlyMoves (c : Cmd) : Bool :=
  match c.i with
  | .copy _ _ _ _ _ _ op => op.toNat % 32 ≤ 1
  | .gather _ _ _ _ _ _ _ _ => true
  | .scatter _ _ _ _ _ _ _ op => op = 0
  | .get _ _ _ _ _ op _ => op = 0
  | _ => false

/-- The elements that k steps from j on write, each written after it is read, or none of them. -/
def State.movedRun (s : State) (c : Cmd) (write : Bool) : Nat → Nat → Except EStop (List (Word × List Byte × Bool) × State × Cmd)
  | _, 0 => .ok ([], s, c)
  | j, k + 1 => do
    let x ← s.moved c j
    let t ← if write then x.2.1.putMoved x.1 else .ok x.2.1
    let y ← t.movedRun x.2.2 write (j + 1) k
    .ok (x.1.toList ++ y.1, y.2)

/-- Elements that stand one behind the other. -/
def adjoining : List (Word × List Byte × Bool) → Bool
  | x :: y :: t => y.1 = x.1 + BitVec.ofNat 64 x.2.1.length && adjoining (y :: t)
  | _ => true

/-- A line of memory, or a word of SRAM, that the next elements of a command fill is written as one (12 R255; 27 R402):
the state, the command and the elements; none where no such elements come next, where one of them is poisoned or stops the
command, or where writing one changes what a later one brings. -/
def State.moveWhole (s : State) (c : Cmd) (j : Nat) : Option (State × Cmd × Nat) :=
  if !c.onlyMoves then none
  else match s.moved c j with
  | .ok (some x, _) =>
    let unit := if lwin ≤ x.1.toNat then 4 else 128
    let k := unit / x.2.1.length
    if k < 2 || x.1.toNat % unit ≠ 0 || c.items < j + k then none
    else match s.movedRun c false j k, s.movedRun c true j k with
      | .ok r, .ok q =>
        if r.1 = q.1 && r.1.length = k && adjoining r.1 && r.1.all (fun e => !e.2.2) then
          match r.2.1.ewrite x.1 (r.1.flatMap (fun e => e.2.1)) false with
          | .ok t => some (t, r.2.2, k)
          | .error _ => none
        else none
      | _, _ => none
  | _ => none

/-- Step j of a command. An HCWLD that has written an entry is one since the task-start load (03 R61); one that has written
none yet is not (DESIGN CHOICE, assumption log 81). A GLOAD whose N lies outside 1 to 16 reads the action tables of min(N, 16)
elements, which only PAGE, PROT or poison shows: the checks refuse it (DESIGN CHOICE, assumption log 82: 15 R296 reads none beyond
256 + 1,024n). -/
def State.cmdItem (s : State) (c : Cmd) (j : Nat) : Except EStop (State × Cmd) := do
  let p := s.myPart
  let a := fun k => (c.aregs.getD k 0)
  let n := c.sets.headD .reset
  let sz := n.size
  let w := n.boundAt 0
  -- an element that is only moved
  let move := do
    let x ← s.moved c j
    let t ← x.2.1.putMoved x.1
    .ok (t, x.2.2)
  match c.i with
  | .copy _ _ _ _ _ _ op =>
    let d := c.sets.getD 1 .reset
    if op.toNat % 32 ≤ 1 then move
    else
      let t ← s.ecombine d.elem.toNat (op.toNat % 32) sz (d.at (a 1) j) (n.at (a 0) j)
      .ok (t, c)
  | .gather _ _ _ _ _ _ _ _ => move
  | .scatter _ _ _ _ _ _ _ op =>
    if op = 0 then move
    else if w * n.boundAt 1 ≤ j then s.applySome c true
    else
      let x ← s.moved c j
      match x.1 with
      | none => .ok x.2
      | some e =>
        let l ← x.2.1.eloc e.1 sz .engineRead
        let l ← l.2.eloc e.1 sz .engineWrite
        l.2.hold x.2.2 j e
  | .nmop _ _ _ _ _ _ _ ix =>
    if c.items ≤ j + 1 then s.applySome c true
    else
      let x ← s.eread (a 1 + BitVec.ofNat 64 (j * sz)) sz
      let go := fun (s : State) (c : Cmd) (dst : Word) (bad : Bool) => do
        let l ← s.nmLoc dst sz
        l.2.hold c j (dst, x.1, bad)
      if ix = 0 then go x.2.2 c (n.at (a 0) j) x.2.1
      else
        let i ← x.2.2.rowIndex c (a 2) j w
        match rowNamed (n.boundAt 2) 0 i.2.index with
        | some (some r) => go i.1 i.2 (n.inRow (a 0) r (j % w)) (x.2.1 || i.2.indexBad)
        | _ => .error (.fault cINDEX)
  | .nmopt _ _ _ _ _ alg cnt =>
    let t ← s.nmoptItem c alg.toNat (128 * cnt.toNat) j (a 0) (a 1) (a 2)
    .ok (t, c)
  | .qfence q _ mask => if s.core.qfenceWaits q.toNat mask.toNat c.stamp then .error .wait else .ok (s, c)
  | .subscr _ _ _ _ ring first cnt slot =>
    let r := s.core.ring ring.toNat
    demand (!(r.active && r.owner ≠ c.stamp)) cILLI
    let banks := (List.range cnt.toNat).map (fun i => first.toNat + i)
    demand (banks.all (fun b => s.core.modeAt (b * 0x8000) = .fifo && aget 0 s.core.bankRing b = ring.toNat)) cILLI
    demand (slot ≠ 0 && slot.toNat * 128 ≤ cnt.toNat * 32768) cILLI
    demand ((a 0).toNat % sz = 0) cALIGN
    let lo := s.coreId % 4 * 0x100000 + first.toNat * 0x8000
    demand (s.ctx.views.all (fun v =>
      !(v.2.desc.range < lo + cnt.toNat * 0x8000 && lo < v.2.desc.range + v.2.desc.len))) cPROT
    let r := if r.active then r else Ring.formed first.toNat cnt.toNat slot.toNat (a 0) n c.stamp
    .ok (s.setRing ring.toNat { r with cmd := if r.total = 0 then none else some c }, c)
  | .slotret _ _ ring k =>
    let r := s.core.ring ring.toNat
    demand (k.toNat ≤ r.slots.length) cILLI
    if r.fullSlots < k.toNat then .error .wait else .ok (s.setRing ring.toNat (r.giveBack k.toNat), c)
  | .unsubscr _ _ ring =>
    let r := s.core.ring ring.toNat
    let r' : Ring := { r with slots := r.slots.map (fun _ => .done), active := false, cmd := none }
    -- the stopped SUBSCR leaves its barrier too (assumption log 28)
    let s := s.setRing ring.toNat r'
    match r.cmd.bind Cmd.bar with
    | some b => .ok (if s.scratchAt b then s.deliver b 1 else s, c)
    | none => .ok (s, c)
  | .hcwld _ _ _ first _ =>
    let x ← s.eread (a 0 + BitVec.ofNat 64 (32 * j)) 32
    if x.2.1 then .error (s.epoison (a 0 + BitVec.ofNat 64 (32 * j)) 32)
    else
      let e : BitVec 256 := wordOf 256 x.1
      let k := first.toNat + j
      .ok (x.2.2.modCmdCtx p c (fun x => { x with
        hcw := aset 0 x.hcw k e, hcwGood := aset false x.hcwGood k (hcwOk e), hcwFrom := none }), c)
  | .gload _ _ _ slot =>
    let h ← s.ereadLong (a 0) 4
    let order := min (h.1.headD 0).toNat 16
    let t ← h.2.ereadLong (a 0 + 256) (16 * order)
    let s := t.2
    .ok (if s.core.gloadAfter slot.toNat c.stamp then s
         else s.modGroup slot.toNat (fun g => { g with bytes := h.1 ++ t.1 }), c)
  | .floadm _ _ _ _ bank =>
    let cols := n.filterCols
    let col := j % cols
    let x ← s.eread (n.inRow (a 0) (j / cols) col) sz
    if x.2.1 then .error (s.epoison (n.inRow (a 0) (j / cols) col) sz)
    else
      let bs := c.data ++ x.1
      if col + 1 < cols then .ok (x.2.2, { c with data := bs })
      else .ok (x.2.2.putFilterRow bank.toNat (j / cols) cols sz bs true, { c with data := [] })
  | .pmig _ _ _ tier pages =>
    let ls ← s.leaves p (a 0).toNat ((a 0).toNat + pages.toNat * 65536) pages.toNat
    if j = 0 then
      let req := (s.getPart p).frameReq
      let s := s.modPart p (fun q => { q with frameReq := req + 1 })
      .ok (s.reply p 0x16 [BitVec.ofNat 64 (req + pages.toNat * 2 ^ 32 + tier.toNat * 2 ^ 62), a 0],
        { c with wait := .frames req })
    else
      let t ← s.movePages p tier.toNat (a 0).toNat (j - 1) ls c.frames
      .ok (t, c)
  | .put q _ _ _ peer op _ =>
    if n.count ≤ j then s.sendPiece c q peer op j
    else
      let x ← s.eread (n.at (a 0) j) sz
      let c := { c with data := c.data ++ x.1, bads := c.bads ++ [x.2.1] }
      if c.data.length < pieceBytes && j + 1 < n.count then .ok (x.2.2, c) else x.2.2.sendPiece c q peer op (j + 1)
  | .get _ _ _ _ _ op _ =>
    if op = 0 then move
    else
      let dst := n.at (a 0) j
      let y ← s.eread dst sz
      let v := toBytes (elemCombine n.elem.toNat op.toNat (ofBytes y.1) (ofBytes (c.data.take sz))) sz
      let t ← y.2.2.ewrite dst v (y.2.1 || (c.bads.take sz).any id)
      .ok (t, { c with data := c.data.drop sz, bads := c.bads.drop sz })
  | .bankcfg _ _ bank mode ring =>
    let b := bank.toNat
    demand (s.core.rings.all (fun r => !(r.2.active && r.2.first ≤ b && b < r.2.first + r.2.banks))) cILLI
    if s.pendingOn p (fun l => match l with
        | .sram k o => k = s.coreId && o / 0x8000 = b
        | .phys _ _ _ => false) then .error .wait
    else .ok (s.switchBank b (bankModeOf mode) ring.toNat, c)
  | .zerom _ _ _ _ =>
    let r ← s.eloc (a 0 + BitVec.ofNat 64 (128 * j)) 128 .engineWrite
    match r.1 with
    | .phys pa false page =>
      let d := dieOf s.coreId
      .ok (((r.2.l2Zero d p (pa / 128) page).cleanPoison r.1 128).notify r.1 (some d) (some s.coreId), c)
    | l => .ok (r.2.eput l (List.replicate 128 0) false, c)
  | _ => .ok (s, c)

/-- What stands before a fault at step j, while something of the earlier elements is still on its way: those of a PUT are
sent, those of a row of an FLOADM are written, contributions are applied (10 R209). -/
def State.earlierElements (s : State) (c : Cmd) (j : Nat) : Option (Except EStop (State × Cmd)) :=
  if !c.held.isEmpty then some (s.applySome c true)
  else if c.data.isEmpty then none
  else match c.i with
    | .put q _ _ _ peer op _ => some (s.sendPiece c q peer op j)
    | .floadm _ _ _ _ bank =>
      let n := c.sets.headD .reset
      some (.ok (s.putFilterRow bank.toNat (j / n.filterCols) (j % n.filterCols) n.size c.data false,
        { c with data := [] }))
    | _ => none

/-- A command goes on from step j: the state, the command and the step it has reached. A GET asks for its data first; a
PUT sends what it has read before an element whose poison differs. -/
def State.cmdStep (s : State) (c : Cmd) (j : Nat) : Except EStop (State × Cmd × Nat) :=
  let stay := fun (r : Except EStop (State × Cmd)) => r.map (fun x => (x.1, x.2, j))
  let ask := match c.i with
    | .get q _ _ _ peer _ _ => if c.data.isEmpty then some (s.askPiece c q peer j) else none
    | .put q _ _ _ peer op _ =>
      let n := c.sets.headD .reset
      match s.eread (n.at (c.aregs.getD 0 0) j) n.size with
      | .ok x => if j < n.count && c.bads.head?.any (fun b => b ≠ x.2.1) then some (s.sendPiece c q peer op j) else none
      | .error _ => none
    | _ => none
  match ask, s.moveWhole c j with
  | some r, _ => stay r
  | none, some (t, d, k) => .ok (t, d, j + k)
  | none, none => match s.cmdItem c j with
    | .ok (t, d) => .ok (t, d, if d.held.isEmpty || j + 1 < d.items then j + 1 else j)
    | .error (.fault code) => match s.earlierElements c j with
      | some r => stay r
      | none => .error (.fault code)
    | .error e => .error e

/-- Steps of a command from the one it has reached, at most n of them, while nothing stops it. -/
def State.cmdRun (s : State) (c : Cmd) : Nat → State × Cmd × Option EStop
  | 0 => (s, c, none)
  | n + 1 =>
    if c.items ≤ c.done || c.wait ≠ .none then (s, c, none)
    else
      match s.cmdStep c c.done with
      | .ok (t, d, k) => t.cmdRun { d with done := k } n
      | .error e => (s, c, some e)

/-- Acts as an engine command of a task: with the views of the task. -/
def State.asEngine {α : Type} (s : State) (p task : Nat) (f : State → State × α) : State × α :=
  let vs := s.ctx.views
  let r := f { s with ctx := { s.ctx with views := s.taskViews p task } }
  let t := { r.1 with ctx := { r.1.ctx with views := vs } }
  (r.1.ctx.views.foldl (fun s v => s.setTaskView p task v.1 v.2) t, r.2)

/-- A command goes on, for at most n steps: the core in focus is its core. -/
def State.cmdGo (s : State) (c : Cmd) (n : Nat) : State × Cmd × Option EStop :=
  s.asEngine s.myPart c.task (fun s =>
    if c.done = 0 && c.held.isEmpty && c.data.isEmpty then
      match s.cmdStart c with
      | .ok c => s.cmdRun c n
      | .error e => (s, c, some e)
    else s.cmdRun c n)

/-! Completion and faults (10 R208, R209). -/

/-- What the last step of a command adds: FLOADM zeroes what its set did not cover, and records the type. -/
def State.cmdFinish (s : State) (c : Cmd) : State :=
  match c.i with
  | .floadm _ _ _ _ bank =>
    let n := c.sets.headD .reset
    let cols := n.filterCols
    let rows := if n.count = 0 then 0 else n.filterRows
    s.modArr (fun u => { u with
      filters := u.filters.filter (fun e =>
        !(e.1 / 16384 = bank.toNat && (rows ≤ e.1 / 128 % 128 || cols ≤ e.1 % 128))),
      ftypes := aput u.ftypes bank.toNat (some n.elem.toNat) })
  | _ => s

/-- The subtraction from a command's barrier: an amount of 0 touches nothing, and an object that no longer lies
in a scratchpad bank is counted (assumption log 29). -/
def State.payBar (s : State) (c : Cmd) : State :=
  match c.bar with
  | none => s
  | some b =>
    if c.amount = 0 then s
    else if s.scratchAt b then s.deliver b c.amount
    else s.modPart s.myPart (fun q => { q with engineFaults := q.engineFaults + 1 })

/-- The queue of a core in focus, and what stands at its head. -/
def Core.queue (c : Core) (q : Nat) : List Cmd := aget [] c.eq q
def State.setQueue (s : State) (q : Nat) (l : List Cmd) : State :=
  { s with core := { s.core with eq := aset [] s.core.eq q l } }

/-- The command at the head of a queue completes. -/
def State.completeCmd (s : State) (q : Nat) (c : Cmd) : State :=
  let s := (s.cmdFinish c).setQueue q (s.core.queue q).tail
  match c.i with
  | .subscr _ _ _ _ ring _ _ _ => if (s.core.ring ring.toNat).cmd.isSome then s else s.payBar c
  | _ => s.payBar c

/-- A fault is counted in the partition's engine-fault counter. -/
def State.countFault (s : State) : State :=
  s.modPart s.myPart (fun q => { q with engineFaults := q.engineFaults + 1 })

/-- The element that a command has reached: the page, of a PMIG, whose first step asks for frames (23 R361). -/
def Cmd.element (c : Cmd) : Nat :=
  match c.i with
  | .pmig _ _ _ _ _ => c.done - 1
  | _ => c.done

/-- The deferred record of a fault (23 R361). -/
def Cmd.deferred (c : Cmd) (code : BitVec 8) (b : Nat × Nat) : Deferred :=
  { code := code, pc := c.pc, indices := c.indices, enc := (encode c.i).getD 0, element := c.element,
    aregs := c.aregs, bar := b }

/-- A fault of a command is delivered (10 R209; 06 R114; 11 R232). A ring that the rigger serves keeps its state and its
slots until UNSUBSCR (13 R270, R271). DESIGN CHOICE (assumption log 72): a fault of a command without a barrier is
dropped and counted, PROT of a local address or of a bank's mode included, although R114 excepts PROT there. -/
def State.faultCmd (s : State) (c : Cmd) (code : BitVec 8) : State :=
  let s := match c.i with
    | .gload _ _ _ slot =>
      if s.core.gloadAfter slot.toNat c.stamp || code = cPAGE || code = cPROT then s
      else s.modGroup slot.toNat (fun g => { GroupSlot.reset with st := .failed, check := 6, stamp := g.stamp })
    | .subscr _ _ _ _ ring _ _ _ =>
      let r := s.core.ring ring.toNat
      if r.owner = c.stamp && r.cmd.isNone then s.setRing ring.toNat .none
      else if r.owner = c.stamp then s.setRing ring.toNat { r with cmd := none }
      else s
    | _ => s
  match c.bar with
  | none => s.countFault
  | some b =>
    let s := match s.cmdCtx s.myPart c with
      | none => s.countFault
      | some x =>
        let s := if s.scratchAt b then s.putBar b { s.getBar b with flt := true } else s
        if x.deferred.length < 4 then
          s.modCmdCtx s.myPart c (fun x => { x with deferred := x.deferred ++ [c.deferred code b] })
        else s.countFault
    s.payBar c

/-- A fault of a command goes to the host (06 R114; 23 R365). -/
def State.hostCmd (s : State) (c : Cmd) (code : BitVec 8) (va : Word) (who : Waiter) : State :=
  s.postFault s.myPart s.coreId (c.ctx % 4) (BitVec.ofNat 64 c.task) code va 3 (some who)

/-! Issue (10 R207, R208). -/

/-- A release before an operation (10 R206): every earlier access of the context is performed first, with the results
that its data comes from; entries of performed loads may wait for room in LDQ. -/
def State.released (s : State) (scope : Nat) : Except Stop State := do
  let s := s.settleAll
  s.waitSettled (s.ctx.pend.lq.all (fun o => o.kind.performed) && s.ctx.pend.stq.isEmpty)
  .ok (s.releaseL1 scope)

/-- The promise of a COPY (10 R214). -/
def State.promise (s : State) (b : Nat × Nat) : State :=
  let x := s.getBar b
  let p := (s.cyc + Config.promiseEstimate s.tick) % 2 ^ 32
  let later := decide (x.prom ≠ p ∧ (x.prom + 2 ^ 32 - p) % 2 ^ 32 < 2 ^ 31)
  { s.putBar b { x with prm := true, prom := if later then x.prom else p } with tick := s.tick + 1 }

/-- Commands of a queue that are not complete. -/
def Core.outstanding (c : Core) (q : Nat) : Nat :=
  (c.queue q).length + (c.rings.filter (fun r => r.2.cmd.any (fun x => match x.i with
    | .subscr k _ _ _ _ _ _ _ => k.toNat = q
    | _ => false))).length

/-- The addition to a command's barrier (10 R208). -/
def State.oweBar (s : State) (b : Nat × Nat) (amount : Nat) (promised : Bool) : Except Stop State := do
  require (s.scratchAt b && (s.viewHits b.1 b.2 16).isEmpty) (trap cPROT)
  match s.expect b amount with
  | none => .error (.trap cOVERRUN [] (.ovr b))
  | some s => .ok (if promised then s.promise b else s)

/-- Issues an asynchronous command: the address registers and nest sets it reads, its amount and the scope of
its release (10 R207, R208). The release is of every access that the context has issued: the addition to a barrier is its own
write, which comes after them (14 R278); of a command that adds nothing it takes its place among them, and the command starts
once it is done (10 R207; 14 R279). -/
def State.enqueue (s : State) (i : Instr) (q : BitVec 4) (bar : BitVec 18) (as : List (BitVec 4))
    (sets : List (BitVec 3)) (amount : List NestSet → Nat) (scope : Nat) (promised : Bool := false) :
    Except Stop State := do
  require (s.core.outstanding q.toNat < 32) .hold
  let sets := sets.map (fun n => aget NestSet.reset s.ctx.nest n.toNat)
  let m := amount sets
  let b : Option (Nat × Nat) := if bar = 0x3FFFF then none else some (crewPlace (crewOf s.coreId) (bar.toNat * 16))
  let s ← match b with
    | some b => if m = 0 then .ok s else do
        let s ← s.released scope
        s.oweBar b m promised
    | none => .ok s
  let task := s.ctx.cr.taskid.toNat
  let stamp := s.core.stamp + 1
  let s := s.placeRelease scope
  let c : Cmd := {
    i := i, ctx := s.here, pc := s.ctx.pc, indices := s.indices, aregs := as.map s.readA, sets := sets,
    fmt := s.rd.fmt, bar := b, amount := m, task := task,
    order := (((s.getPart s.myPart).task? task).map Task.order).getD 0, stamp := stamp, after := s.ctx.pend.seq,
    scope := scope, anum := 0, done := 0, wait := .none, data := [], bads := [], index := 0, indexBad := false,
    fetched := [], held := [], frames := [] }
  let s := { s with core := { s.core with stamp := stamp } }
  .ok (s.setQueue q.toNat (s.core.queue q.toNat ++ [c]))

/-- The set that a reading command names takes all its elements. -/
def setBytes (l : List NestSet) : Nat := (l.headD .reset).count * (l.headD .reset).size
/-- Rows of a gather or scatter, in bytes. -/
def rowBytesOf (l : List NestSet) : Nat :=
  let n := l.headD .reset
  n.boundAt 0 * n.boundAt 1 * n.size

end Sys2Proof.Machine
end

