-- ==== Sys2Proof/Machine/Sync.lean ====
section
/-! DEFINITION. The T slot: barriers, waits, spawning, views, the end and the suspension of a task, signals and
notifications (11 R223 to R241; 19 R327 to R332; 22 R348). -/

namespace Sys2Proof.Machine

/-- ILLI of the T slot. -/
def illT : Stop := trapSlot cILLI 7

/-- The place of the object that a T-slot address names: ALIGN, or PROT outside local SRAM, outside a scratchpad
bank, or in a view (11 R223; 19 R334). -/
def State.object (s : State) (a : Word) : Except Stop (Nat × Nat) := do
  require (a.toNat % 16 = 0) (trapR cALIGN [a])
  require (lwin ≤ a.toNat) (trap cPROT)
  match localPlace s.coreId a.toNat with
  | none => .error (trap cPROT)
  | some b =>
    require (s.scratchAt b && (s.viewHits b.1 b.2 16).isEmpty) (trap cPROT)
    .ok b

/-- The turn of an operation on an object, or on 16 bytes of a record, has come; else earlier accesses are performed
first, or the bundle is held while one cannot be (14 R278, R281, R282). -/
def State.clearFor (s : State) (store : Bool) (b : Nat × Nat) : Except Stop State :=
  let object := [(some (Loc.sram b.1 b.2), 16)]
  if s.opTurn store object then .ok s
  else if s.settleAll.opTurn store object then .ok s.settleAll
  else .error (s.settleAll.stuck.getD .hold)

/-- Reads a record of `n` bytes within a line as a load of the context (11 R234, R235; 14 R281). -/
def State.loadRecord (s : State) (va : Word) (n : Nat) : Except Stop (List Byte × State) := do
  let r ← s.resolve va n .load 1
  let us := [(some r.1, n)]
  let t := if r.2.loadTurn us then r.2 else r.2.settleAll
  t.waitSettled (t.loadTurn us)
  require (!(t.readBad t.coreId r.1 n)) (.poison (t.poisonPlace r.1 n))
  .ok (t.readUnit t.coreId r.1 n)

/-- A rejected operation: OVR is set, and OVERRUN raised with its record. -/
def overrun (b : Nat × Nat) (rec : List Word) : Stop := .trap cOVERRUN rec (.ovr b)

/-- An object whose value would reach a register is not poisoned (27 R403). -/
def State.soundObject (s : State) (b : Nat × Nat) : Except Stop Unit :=
  require (!(s.bankBad b.1 b.2 16)) (.poison (s.poisonPlace (.sram b.1 b.2) 16))

/-- BINIT (11 R227). -/
def execBinit (sa : BitVec 6) (cnt : BitVec 12) : State → Host.Outcome State Fault Refusal :=
  run (fun s => do
    let r ← s.readS 7 sa
    let b ← r.2.object r.1
    let s ← r.2.clearFor true b
    let x := s.getBar b
    require (x.ptx = 0 && x.wait = 0)
      (overrun b [r.1, cnt.zeroExtend 64, BitVec.ofNat 64 x.ptx, BitVec.ofNat 64 x.wait])
    .ok (s.newBar b { x with
      ph := 0, ovr := false, flt := false, prm := false, arr := cnt.toNat, pend := cnt.toNat, ptx := 0, prom := 0 }))

/-- BARRIVE (11 R228). -/
def execBarrive (sa : BitVec 6) (cnt : BitVec 12) : State → Host.Outcome State Fault Refusal :=
  run (fun s => do
    let r ← s.readS 7 sa
    let b ← r.2.object r.1
    let s ← r.2.clearFor true b
    let x := s.getBar b
    require (cnt.toNat ≤ x.pend) (overrun b [r.1, cnt.zeroExtend 64, BitVec.ofNat 64 x.pend])
    let s ← s.released 2
    match s.arrive b cnt.toNat with
    | some t => .ok t
    | none => .error (overrun b [r.1, cnt.zeroExtend 64, BitVec.ofNat 64 x.pend]))

/-- BEXPECT (11 R229). -/
def execBexpect (sa sb : BitVec 6) : State → Host.Outcome State Fault Refusal :=
  run (fun s => do
    let r ← s.readS 7 sa
    let v ← r.2.readS 7 sb
    let b ← v.2.object r.1
    let s ← v.2.clearFor true b
    let x := s.getBar b
    let bad := overrun b [r.1, v.1, BitVec.ofNat 64 x.ptx]
    let n := v.1.toInt
    require (decide (0 ≤ (x.ptx : Int) + n ∧ (x.ptx : Int) + n < 2 ^ 32)) bad
    let s ← if n < 0 then s.released 2 else .ok s
    match s.expect b n with
    | some t => .ok t
    | none => .error bad)

/-- The first deferred record, and the first MERGE record, that name an object (11 R232; 19 R341). -/
def State.deferredOn (s : State) (b : Nat × Nat) : Option Deferred := s.ctx.deferred.find? (fun d => d.bar = b)
def State.mergeOn (s : State) (b : Nat × Nat) : Option (Nat × Nat × Nat) :=
  s.ctx.merges.find? (fun m => m.2.2 % 2 ^ 32 ≠ 0xFFFFFFFF && crewPlace (m.2.2 / 2 ^ 32) (m.2.2 % 2 ^ 32) = b)

/-- What BWAIT and BTEST raise before they compare phases. -/
def State.waitTraps (s : State) (b : Nat × Nat) : Except Stop Unit := do
  match s.deferredOn b with
  | some d => .error (.trap cDEFER
      ([d.code.zeroExtend 64, d.pc] ++ (d.indices ++ List.replicate 6 0).take 6 ++
        [BitVec.ofNat 64 d.enc, BitVec.ofNat 64 d.element] ++ (d.aregs ++ List.replicate 4 0).take 4) (.defer b))
  | none => match s.mergeOn b with
    | some m => .error (.trap cMERGE [BitVec.ofNat 64 m.1, BitVec.ofNat 64 m.2.1] (.merge m))
    | none => .ok ()

/-- d = (PH − p) mod 16 (11 R231). -/
def Barrier.distance (x : Barrier) (p : BitVec 4) : Nat := (x.ph + 16 - p.toNat) % 16

/-- A bounded wait of the context in focus has expired. -/
def Status.hasExpired : Status → Bool
  | .blocked _ e _ => e
  | .cleared _ e _ => e
  | _ => false

/-- A completed or stale phase: its status, with the acquire of a completed one. -/
def State.phaseStatus (s : State) (d : Nat) : Word × State := if d ≤ 8 then (0, s.acquire 2) else (2, s)

/-- The object at an address was zeroed with its bank while the context waited on it, and no operation has completed a
phase there since (12 R247). -/
def State.zeroedWait (s : State) (a : Word) : Option (Nat × Nat) :=
  let since := match s.ctx.status with
    | .blocked n _ _ => some n
    | .cleared n _ _ => some n
    | _ => none
  match since, localPlace s.coreId a.toNat with
  | some n, some b =>
    let co := s.getCore b.1
    if lwin ≤ a.toNat && (afind co.wiped (b.2 / 0x8000)).any (fun c => n ≤ c) && !(aget false co.phased b.2) then some b
    else none
  | _, _ => none

/-- A wait on the phase of an object: it ends with the completion check (11 R225, R231), which may complete the phase
itself; a wait that has expired keeps its status (11 R241). A wait whose own check completes its phase is evaluated again,
with the check that ends it (DESIGN CHOICE, log 81: R223 and R231 do not say whether that is a second check). -/
def State.waitPhase (s : State) (b : Nat × Nat) (sd : BitVec 6) (ph : BitVec 4) : Except Stop State :=
  let d := (s.getBar b).distance ph
  let e := ((s.checkBar b).getBar b).distance ph
  if s.ctx.status.hasExpired then (s.checkBar b).writeS 7 sd 1
  else if d ≠ 0 then
    let x := s.phaseStatus d
    (x.2.checkBar b).writeS 7 sd x.1
  else if e ≠ 0 then
    let x := (s.checkBar b).phaseStatus e
    (x.2.checkBar b).writeS 7 sd x.1
  else .error .block

/-- BWAIT (11 R231): on an object that was zeroed under it, it goes on waiting (12 R247). -/
def execBwait (sd sa : BitVec 6) (ph : BitVec 4) (_to : BitVec 10) : State → Host.Outcome State Fault Refusal :=
  run (fun s => do
    let r ← s.readS 7 sa
    match r.2.zeroedWait r.1 with
    | some _ => if r.2.ctx.status.hasExpired then r.2.writeS 7 sd 1 else .error .block
    | none => do
      let b ← r.2.object r.1
      let s ← r.2.clearFor false b
      s.soundObject b
      s.waitTraps b
      s.waitPhase b sd ph)

/-- BTEST (11 R231). -/
def execBtest (sd sa : BitVec 6) (ph : BitVec 4) : State → Host.Outcome State Fault Refusal :=
  run (fun s => do
    let r ← s.readS 7 sa
    let b ← r.2.object r.1
    let s ← r.2.clearFor false b
    s.soundObject b
    s.waitTraps b
    let d := (s.getBar b).distance ph
    if d = 0 then (s.checkBar b).writeS 7 sd 3
    else
      let x := s.phaseStatus d
      (x.2.checkBar b).writeS 7 sd x.1)

/-- The promise of an object is due (11 R233). -/
def State.promiseDue (s : State) (x : Barrier) : Bool := (s.cyc % 2 ^ 32 + 2 ^ 32 - x.prom) % 2 ^ 32 < 2 ^ 31

/-- SLEEPB (11 R233): its completion check may complete the phase whose promise it sleeps on (11 R225). -/
def execSleepb (sa : BitVec 6) : State → Host.Outcome State Fault Refusal :=
  run (fun s => do
    let r ← s.readS 7 sa
    let b ← r.2.object r.1
    let s ← r.2.clearFor false b
    let x := s.getBar b
    if !x.prm then .ok ((s.acquire 2).checkBar b)
    else if !((s.checkBar b).getBar b).prm then .ok ((s.checkBar b).acquire 2)
    else if s.promiseDue x then
      .error (trapR cCRAB [r.1, BitVec.ofNat 64 x.prom, BitVec.ofNat 64 (s.cyc % 2 ^ 32)])
    else .error .block)

/-! Tasks. -/

/-- The fields of a job-slice record (19 R327). -/
def jobOf (bs : List Byte) : Job :=
  let f := fun (o n : Nat) => ofBytes ((bs.drop o).take n)
  { entry := BitVec.ofNat 64 (f 0 8), arg := BitVec.ofNat 64 (f 8 8), deadline := BitVec.ofNat 64 (f 0x10 8),
    budget := BitVec.ofNat 64 (f 0x18 4), vwin := f 0x1C 1, tiles := f 0x1D 1, flags := f 0x1E 2,
    firstop := BitVec.ofNat 64 (f 0x20 8), hcwtab := BitVec.ofNat 64 (f 0x28 8), join := f 0x30 4, vtab := f 0x34 4 }

/-- A crew-window offset names `n` bytes of SRAM. -/
def crewNames (off n : Nat) : Bool := off < 0x400000 && off % 0x100000 + n ≤ 0xC0000

/-- The status with which a record that breaks a rule ends (19 R328; 03 R54). -/
def Job.refused (j : Job) (root : Bool) : Option Nat :=
  if 12 < j.vwin || 16 < j.tiles then some 0x8D
  else if j.entry.toNat % 2 = 1 then some 0x81
  else if j.flags / 4 ≠ 0 then some 0x82
  else if root then none
  else if j.join ≠ 0xFFFFFFFF && (j.join % 16 ≠ 0 || !(crewNames j.join 24)) then some 0x82
  else if j.vtab % 32 ≠ 0 || (j.vtab ≠ 0 && !(crewNames j.vtab 32)) then some 0x82
  else none

/-- The first free task entry of a partition, with the TASKID that taking it gives (22 R348). -/
def Part.freeEntry (q : Part) : Option (Nat × Nat) :=
  let n := 1024 * ((List.range 16).filter (fun b => q.berths.testBit b)).length
  match (List.range n).find? (fun k => (afind q.tasks k).isNone) with
  | none => none
  | some k =>
    let g := aget 0 q.gens k
    let g := if g + 1 < 2 ^ 17 then g + 1 else 1
    some (k, g * 0x4000 + k)

/-- Takes an entry for a task, and readies it, or ends it at once when its record is refused. -/
def State.enterTask (s : State) (p k : Nat) (t : Task) (root : Bool) : State :=
  let s := s.modPart p (fun q => { q with tasks := aput q.tasks k t, gens := aset 0 q.gens k (t.id / 0x4000) })
  match t.job.refused root with
  | some st => s.finishTask p t.id st true
  | none => s.makeReady p t.id (if root then s.hostClock else (s.getDie (dieOf s.coreId)).clock)

/-- A new task. -/
def Task.fresh (id : Nat) (job : Job) (deadline : Word) (queue crews : Nat) (tag : Option Word) (parent : Option Nat)
    (crew : Nat) (views : List (Nat × View)) : Task :=
  { id := id, job := job, st := .ready, queue := queue, crews := crews, tag := tag, parent := parent, families := [],
    crew := crew, views := views, decls := [], stat := 0, merges := [], cont := none, overtake := 0, order := 0,
    deadline := deadline, seen := [] }

/-- TSPAWN (11 R234): −1 where a view fits nowhere, −2 without a free entry. -/
def execTspawn (sd sa : BitVec 6) : State → Host.Outcome State Fault Refusal :=
  run (fun s => do
    let r ← s.readS 7 sa
    let s := r.2
    require (r.1.toNat % 64 = 0) (trapR cALIGN [r.1])
    let s ← s.released 3
    let x ← s.loadRecord r.1 64
    let job := jobOf x.1
    let s := x.2
    let p := s.ctx.part
    let me := s.ctx.cr.taskid.toNat
    let crew := crewOf s.coreId
    match (s.getPart p).reserveViews crew s.ctx.viewDecls with
    | none => s.writeS 7 sd (-1)
    | some (q, views) =>
      match q.freeEntry with
      | none => s.writeS 7 sd (-2)
      | some (k, id) => do
        let s ← s.storeBytes (r.1 + 0x38) (toBytes (id + me * 2 ^ 32) 8) .store 2 9
        let deadline := if job.deadline = 0 then s.crd.deadl else job.deadline
        let boss := (s.getPart p).task? me
        let x := (s.modPart p (fun q' => { q' with viewUse := q.viewUse, backingUse := q.backingUse })).blankViews p views
        let t := Task.fresh id job deadline ((boss.map Task.queue).getD 0) ((boss.map Task.crews).getD 0) none (some me)
          crew x.2
        let s := x.1
        let s := s.modPart p (fun q => q.modTask me (fun b => { b with
          families := appendChild id job.join job.vtab crew (job.flags.testBit 1) b.families }))
        (s.enterTask p k t false).writeS 7 sd (BitVec.ofNat 64 id))

/-- A valid view descriptor (19 R332). -/
def viewOk (bs : List Byte) (others : List ViewDesc) : Option ViewDesc :=
  let f := fun (o n : Nat) => ofBytes ((bs.drop o).take n)
  let d : ViewDesc := { range := f 0 4, len := f 4 4, type := f 8 1, op := f 9 1 }
  let isInt := isIntType d.type
  let typed := match elemTypeOf d.type with
    | none => false
    | some .i64 => false
    | some .b4 => false
    | some .b6 => false
    | some .dyn => false
    | some _ => true
  if 4 ≤ d.len && d.len ≤ 65536 && crewNames d.range d.len && d.range % 4 = 0 && d.len % 4 = 0 && typed &&
    d.range % d.width = 0 && d.len % d.width = 0 && d.op ≤ 7 && (isInt || !(4 ≤ d.op && d.op ≤ 6)) &&
    (bs.drop 10).all (fun b => b = 0) &&
    others.all (fun o => !(o.range < d.range + d.len && d.range < o.range + o.len)) then some d else none

/-- TVIEW (11 R235). -/
def execTview (view : BitVec 3) (sa : BitVec 6) : State → Host.Outcome State Fault Refusal :=
  run (fun s => do
    let r ← s.readS 7 sa
    let s := r.2
    if r.1 = 0 then .ok { s with ctx := { s.ctx with viewDecls := adel s.ctx.viewDecls view.toNat } }
    else
      require (r.1.toNat % 32 = 0) (trapR cALIGN [r.1])
      let x ← s.loadRecord r.1 32
      let s := x.2
      match viewOk x.1 ((s.ctx.viewDecls.filter (fun v => v.1 ≠ view.toNat)).map Prod.snd) with
      | none => .error illT
      | some d => .ok { s with ctx := { s.ctx with viewDecls := aput s.ctx.viewDecls view.toNat d } })

/-- Performs what the context has issued, whatever room LDQ has: its entries are discarded with the task. Each turn performs a
load, if one is left. -/
def State.settleEnd (s : State) : Nat → State
  | 0 => (s.modPend (fun p => { p with ldq := [] })).finishIssued
  | n + 1 => ((s.modPend (fun p => { p with ldq := [] })).finishIssued).settleEnd n

/-- The context in focus has array work that is not done: a drain, or a repeat (09 R188, R191). -/
def State.arrayWork (s : State) : Bool :=
  s.core.arr.queue.any (fun d => d.1 = s.here) || s.core.arr.repeat_.any (fun r => r.ctx = s.here)

/-- Writes every result that is still to come. -/
def State.completeAll (s : State) : State :=
  let p := s.ctx.pend
  ((p.reinject.map (fun r => (r.2.1, r.2.2))) ++ p.flight).foldl (fun s q => s.complete q.1 q.2)
    (s.modPend (fun p => { p with flight := [], reinject := [] }))

/-- The conditions of TEND and TSUSPEND that do not concern families (11 R236): what the bundles so far have issued, this
one's other slots among them, runs to completion; a fault of a repeat comes first. -/
def State.lastWork (s : State) : Except Stop State := do
  let p := s.ctx.pend
  require (p.claims.length ≤ p.sdq.length) (trapSlot cQORDER 7)
  let r := s.quiesce
  match r.2 with
  | some e => .error e.1
  | none => .ok ()
  let s := r.1.completeAll.settleEnd p.lq.length
  s.waitSettled (s.ctx.pend.lq.isEmpty && s.ctx.pend.stq.isEmpty && !(s.arrayWork))
  .ok s

/-- The first issue of a TEND: the open family of the running task closes (19 R329). -/
def State.closing (s : State) : State :=
  s.modPart s.ctx.part (fun q => q.modTask s.ctx.cr.taskid.toNat (fun t => { t with families := closeLast t.families }))

/-- The families of the running task. -/
def State.families (s : State) : List Family :=
  (((s.getPart s.ctx.part).task? s.ctx.cr.taskid.toNat).map Task.families).getD []

/-- TEND after the other slots: it waits until its families are done (11 R236, R237; 19 R330), and the core's other
contexts issue meanwhile, or children of the family on this core would never end (DEDUCED, log 31: R236 says that the bundle
holds, and 16 R307 and 20 R344 that every run reaches its end). -/
def State.tend (s : State) : Except Stop State := do
  let s ← s.lastWork
  require s.families.isEmpty .block
  match s.ctx.merges with
  | m :: _ => .error (.trap cMERGE [BitVec.ofNat 64 m.1, BitVec.ofNat 64 m.2.1] (.merge m))
  | [] => .ok (s.endTask 0 false)

/-- TEND: its first issue closes the open family, whether or not it can end the task yet. -/
def execTend : State → Host.Outcome State Fault Refusal := fun s =>
  run (fun s => do
    let t ← s.tend
    .ok { t with evt := .ended }) s.closing

/-- The place of a continuation record (11 R238), none of whose words lies in a view (19 R334); its first 16 bytes are
tested as an object's. -/
def State.recordPlace (s : State) (a : Word) : Except Stop (Nat × Nat) := do
  let b ← s.object a
  require (crewOffset b ≠ 0 && (s.viewHits b.1 b.2 0x18).isEmpty) (trap cPROT)
  .ok b

/-- Writes the hardware's fields of a record. -/
def State.writeRecord (s : State) (b : Nat × Nat) (live : Nat) : State :=
  let c := s.ctx
  let word := fld c.cr.taskid.toNat 0 32 + fld c.cr.vwin.toNat 0 5 * 2 ^ 40 + fld c.cr.twin.toNat 0 5 * 2 ^ 45 +
    (if s.core.arr.claim = some s.ctxId then 2 ^ 50 else 0)
  let regs := (liveRegs live).map (fun n => bytesOf (aget 0 c.r.s n))
  s.bankWrite b.1 (b.2 + 0x18) (toBytes word 8 ++ bytesOf c.cr.deadl ++ regs.flatten) (some s.coreId)

/-- TSUSPEND (11 R238). -/
def execTsuspend (sa sb : BitVec 6) : State → Host.Outcome State Fault Refusal :=
  run (fun s => do
    let x ← s.readS 7 sa
    let y ← x.2.readS 7 sb
    let s := y.2
    let o ← s.object x.1
    let b ← s.recordPlace y.1
    let s ← s.clearFor true o
    let s ← s.clearFor true b
    let s ← s.clearFor true (b.1, b.2 + 16)
    let live := s.bankNat (b.1, b.2 + 8) 8
    let ctl := s.bankNat (b.1, b.2 + 0x10) 4
    require (s.bankNat b 8 % 2 = 0 && !(live.testBit 0) && !(live.testBit 62) && ctl / 32 = 0) illT
    let size := 0x28 + 8 * (liveRegs live).length
    require (b.2 / 0x8000 = (b.2 + size - 1) / 0x8000 && (s.viewHits b.1 b.2 size).isEmpty) (trap cPROT)
    let s ← s.lastWork
    let s := s.releaseL1 3
    let s := s.writeRecord b live
    let p := s.ctx.part
    let id := s.ctx.cr.taskid.toNat
    let crew := crewOf s.coreId
    let off := crewOffset b
    let link := fun (s : State) (v : Nat) => s.bankWrite b.1 (b.2 + 0x14) (toBytes v 4) (some s.coreId)
    let s := (s.saveTask).freeCtx
    let s := s.modPart p (fun q => q.modTask id (fun t => { t with st := .suspended, stat := 0 }))
    let t := if ctl.testBit 4 then
        let count := s.bankNat (o.1, o.2 + 12) 4
        let wait := s.bankNat o 4
        if 0 < count then
          (s.bankWrite o.1 o.2 (toBytes (wait + (count - 1) * 2 ^ 96) 16) (some s.coreId)).enqueueRecord crew off 0
        else (link s wait).bankWrite o.1 o.2 (toBytes off 16) (some s.coreId)
      else
        let x := s.getBar o
        let d := x.distance (BitVec.ofNat 4 ctl)
        if d = 0 then (link s x.wait).finishBar o { x with wait := off }
        else (s.enqueueRecord crew off (if d ≤ 8 then 0 else 2)).checkBar o
    .ok { t with evt := .ended })

/-- TSIGNAL (11 R239). -/
def execTsignal (sa : BitVec 6) : State → Host.Outcome State Fault Refusal :=
  run (fun s => do
    let r ← s.readS 7 sa
    let b ← r.2.object r.1
    let s ← r.2.clearFor true b
    let s ← s.released 3
    match s.signal b with
    | some t => .ok t
    | none => .error (trapR cOVERRUN [r.1, 0, BitVec.ofNat 64 (s.bankNat (b.1, b.2 + 12) 4)]))

/-- TNOTIFY (11 R240). -/
def execTnotify (sa : BitVec 6) : State → Host.Outcome State Fault Refusal :=
  run (fun s => do
    let r ← s.readS 7 sa
    let s := r.2
    let p := s.ctx.part
    require ((s.getPart p).credit < 64 || (s.getPart p).credit < 64 + Config.extraCredit) .hold
    let s ← s.released 4
    let t := s.modPart p (fun q => { q with credit := q.credit + 1 })
    .ok (t.reply p 0x05 [BitVec.ofNat 64 p, s.ctx.cr.taskid, BitVec.ofNat 64 s.cyc, r.1]))

end Sys2Proof.Machine
end

