-- ==== Sys2Proof/Machine/Cox.lean ====
section
/-! DEFINITION. The cox: root tasks, the choice of a task for a free context, its start, the folds of the merge
unit, and the host's replies to faults and halts (03 R54, R56, R61; 19 R327 to R342; 22 R348 to R357; 23 R365; 07
R132). -/

namespace Sys2Proof.Machine

/-! Root tasks. -/

/-- ROOT_TASK: the host's message is accepted or rejected; a record that fails gets no TASKID and ends with its status (22
R350; assumption log 25). -/
def execRootTask (p queue : BitVec 4) (crews : BitVec 16) (tag : BitVec 64) (rec : BitVec 512) :
    State → Host.Outcome State Fault Refusal :=
  event (fun s =>
    let q := s.getPart p.toNat
    let refuse := fun (status : Nat) => s.sendCompletion p.toNat tag 0 status 0
    if s.recovery then refuse 0x42
    else if !q.formed then s
    else if crews = 0 || crews.toNat &&& q.berths ≠ crews.toNat then refuse 0x43
    else if !((aget 1 q.tqcfg queue.toNat).testBit 0) then refuse 0x44
    else match q.freeEntry with
      | none => refuse 0x41
      | some (k, id) =>
        let job := jobOf (bytesOf rec)
        let deadline := if job.deadline = 0 then BitVec.allOnes 64 else job.deadline
        match job.refused true with
        | some status => refuse status
        | none => s.enterTask p.toNat k (Task.fresh id job deadline queue.toNat crews.toNat (some tag) none 0 []) true)

/-! The choice (22 R353 to R357). -/

/-- The places for a window of a size among n units, clear of the windows of the core's busy contexts: bases below n. An
empty window holds nothing (03 R54). -/
def State.places (s : State) (core n size : Nat) (win : Ctx → Nat × Nat) : List Nat :=
  (List.range (min n (n + 1 - size))).filter (fun b => [0, 1, 2, 3].all (fun x =>
    let c := s.getCtx (4 * core + x)
    c.status = .idle || size = 0 || (win c).2 = 0 || !(b < (win c).1 + (win c).2 && (win c).1 < b + size)))

def Ctx.vectorWindow (c : Ctx) : Nat × Nat := (fld c.cr.vwin.toNat 5 5, fld c.cr.vwin.toNat 0 5)
def Ctx.tileWindow (c : Ctx) : Nat × Nat := (twinBase c.cr.twin, twinCount c.cr.twin)

/-- A context is free: no task runs there. -/
def State.isFree (s : State) (k : Nat) : Bool := (s.getCtx k).status = .idle

/-- A ready task fits a free context (22 R353). -/
def State.fits (s : State) (t : Task) (k : Nat) : Bool :=
  let core := k / 4
  t.admits (crewOf core) && !((s.places core 24 t.job.vwin Ctx.vectorWindow).isEmpty) &&
    !((s.places core 16 t.job.tiles Ctx.tileWindow).isEmpty) &&
    (t.job.flags % 2 = 0 || (s.getCore core).arr.claim.isNone)

/-- The candidates for a free context, ranked. -/
def State.taskCandidates (s : State) (q : Part) (k : Nat) : List Task := q.ranked (fun t => s.fits t k)

/-- The probe of a task's FIRSTOP in the partition's slices of the context's die (22 R353). -/
def State.probeHits (s : State) (p k : Nat) (t : Task) : Bool :=
  let a := t.job.firstop
  a ≠ 0 && a.toNat < lwin && match (s.focus (k / 4) (k % 4)).translate p a.toNat .load false with
    | .ok ((pa, e), _) => !(e.testBit 5) &&
      ((afind (s.getDie (dieOf (k / 4))).tags (pa / 128)).any (fun x => x.part = p))
    | .error _ => false

/-- The chosen one of ranked candidates (22 R353). -/
def State.choose (s : State) (p k : Nat) (slack : Word) (cs : List Task) : Option Task :=
  match cs with
  | [] => none
  | h :: _ =>
    match cs.find? (fun t => t.overtake ≥ 4) with
    | some t => some t
    | none =>
      match cs.find? (fun t => t.deadline.toNat ≤ h.deadline.toNat + slack.toNat && s.probeHits p k t) with
      | some t => some t
      | none => some h

/-- The window of a crew at a choice: the top-ranked task that admits the crew and fits no free context of it, and since
when. Once it has lasted for SLACK, it stays until that task has started (22 R357). -/
def State.reservation (s : State) (q : Part) (crew : Nat) : Option (Nat × Nat) :=
  match q.foremost crew with
  | none => none
  | some h =>
    let fits := ((List.range 16).map (fun i => 16 * crew + i)).any (fun k => s.isFree k && s.fits h k)
    match (afind q.reserve crew).filter (fun x => x.1 = h.id) with
    | some x => if fits && s.cyc - x.2 < q.slack.toNat then none else some x
    | none => if fits then none else some (h.id, s.cyc)

/-- The choice for a free context: the partition after it, and the task. -/
def State.choice (s : State) (p k : Nat) : Part × Option Task :=
  let q := (s.getPart p).turnOver
  let crew := k / 16
  match s.taskCandidates q k with
  | [] => (q, none)
  | cs =>
    let r := s.reservation q crew
    let q : Part := { q with reserve := match r with
      | some x => aput q.reserve crew x
      | none => adel q.reserve crew }
    let cs := match r with
      | some (id, since) => if q.slack.toNat ≤ s.cyc - since then cs.filter (fun t => t.id = id) else cs
      | none => cs
    match s.choose p k q.slack cs with
    | none => (q, none)
    | some t =>
      let passed := (cs.takeWhile (fun x => x.id ≠ t.id)).map Task.id
      (passed.foldl (fun q id => q.modTask id (fun x => { x with overtake := x.overtake + 1 })) q, some t)

/-! The start (03 R54, R56, R61; 09 R180; 11 R238; 22 R354). -/

/-- A place for a window, whichever of the free ones: which one is open (03 R54). -/
def State.pickPlace (s : State) (l : List Nat) : Nat × State :=
  match l with
  | [] => (0, s)
  | [b] => (b, s)
  | b :: _ =>
    let r := s.fresh
    (l.getD (r.1.toNat % l.length) b, r.2)

/-- Registers that another partition used last, or none, read zero (03 R56). -/
def State.clearForeign (s : State) (p : Nat) (vs ts : List Nat) : State :=
  let co := s.core
  let vs' := vs.filter (fun v => aget none co.vlast v ≠ some p)
  let ts' := ts.filter (fun t => aget none co.tlast t ≠ some p)
  { s with core := { co with
    vregs := co.vregs.filter (fun r => !(vs'.contains r.1)),
    vlast := vs.foldl (fun m v => aput m v (some p)) co.vlast,
    tiles := if ts'.isEmpty then co.tiles else co.tiles.filter (fun b => !(ts'.contains (b.1 / 16384))),
    tlast := ts.foldl (fun m t => aput m t (some p)) co.tlast } }

/-- The array claim is granted to the context in focus (09 R180; 15 R299). -/
def State.grantClaim (s : State) (p : Nat) : State :=
  let u := s.core.arr
  let fresh : ArrayUnit := { ArrayUnit.reset with claim := some s.ctxId, part := some p }
  if u.part = some p then
    s.modArr (fun u => { fresh with
      weights := u.weights, wscales := u.wscales, wtypes := u.wtypes, active := u.active,
      filters := u.filters, fscales := u.fscales, ftypes := u.ftypes })
  else { s with core := { s.core with arr := fresh, groups := [] } }

/-- A load of bytes finds no slot of a ring that is to be waited for (13 R272). -/
def State.bytesReady (s : State) (va : Word) (n : Nat) : Bool :=
  (List.range n).all (fun i => match s.resolve (va + BitVec.ofNat 64 i) 1 .load 1 with
    | .ok r => r.2.slotsReady r.1 1
    | .error _ => true)

/-- Loads HCW entries from entry n of the table on, as a load of the task: a fault waits for the host there, and a slot of a
ring that is not full blocks (03 R61; 13 R272). -/
def State.loadTable (s : State) (a : Word) (n : Nat) : Nat → State
  | 0 => { s with ctx := { s.ctx with startLoad := none, hcwFrom := some (a, s.ctx.part), status := .ready } }
  | m + 1 =>
    if !(s.bytesReady (a + BitVec.ofNat 64 (32 * n)) 32) then
      { s with ctx := { s.ctx with startLoad := some (a, n), status := .blocked s.cycle false none } }
    else match s.loadBytes (a + BitVec.ofNat 64 (32 * n)) 32 .load 1 33 with
    | .ok r =>
      let e : BitVec 256 := wordOf 256 r.1
      let c := r.2.ctx
      ({ r.2 with ctx := { c with
        hcw := aset 0 c.hcw n e, hcwGood := aset false c.hcwGood n (hcwOk e), hcwFrom := none } }).loadTable a (n + 1) m
    | .error (.host c va k _) =>
      let u := s.postFault s.ctx.part s.coreId s.ctxId s.ctx.cr.taskid c va k (some (.context s.here))
      { u with ctx := { u.ctx with startLoad := some (a, n), status := .hostWait none } }
    | .error (.poison loc) => s.consume loc
    | .error (.trap c _ _) => s.endTask (0x80 ||| c).toNat true
    | .error _ => s

/-- The HCW table at a start (03 R61). -/
def State.startTable (s : State) (a : Word) (last : Nat) : State :=
  let p := s.ctx.part
  if a = 0 then
    if last = p then s else { s with ctx := { s.ctx with hcw := [], hcwGood := [], hcwFrom := none } }
  else if s.ctx.hcwFrom = some (a, p) then s
  else s.loadTable a 0 512

/-- The registers of a task at its start: a root's or child's, or a continuation's (03 R56; 11 R238). A continuation's STAT
starts with the flags of the joins made while its task was suspended (DESIGN CHOICE, assumption log 82: 19 R339 puts them into the
saved state, and 02 R47, 03 R56 and 11 R238 start STAT at zero). -/
def Task.startRegs (t : Task) : Regs :=
  match t.cont with
  | none => { Regs.reset with a := aset 0 [] 0 t.job.arg }
  | some c =>
    { Regs.reset with
      a := aset 0 [] 0 c.record, stat := t.stat.zeroExtend 64,
      s := ((liveRegs c.live.toNat).zip c.saved).foldl (fun m r => aset 0 m r.1 r.2) [] }

/-- The context in focus starts a task (22 R354): an acquire at MODULE scope of what was released when the task became
ready. The context is ready once its table is loaded (03 R51, R61). A continuation whose record is poisoned consumes the poison
as its registers are loaded (27 R403). -/
def State.startTask (s : State) (p : Nat) (t : Task) : State :=
  let s := (s.noteSeen t.seen).acquire 3
  let v := s.pickPlace (s.places s.coreId 24 t.job.vwin Ctx.vectorWindow)
  let w := v.2.pickPlace (s.places s.coreId 16 t.job.tiles Ctx.tileWindow)
  let s := w.2.clearForeign p ((List.range (32 * t.job.vwin)).map (fun i => 32 * v.1 + i))
    ((List.range t.job.tiles).map (fun i => w.1 + i))
  let s := if t.job.flags % 2 = 1 then s.grantClaim p else s
  let old := s.ctx
  let entry := (t.cont.map Cont.entry).getD t.job.entry
  let s := s.modPart p (fun q => { q.modTask t.id (fun x => { x with
      st := .running s.here, overtake := 0, cont := none }) with
    misscnt := if t.deadline.toNat < s.cyc then q.misscnt + 1 else q.misscnt,
    reserve := q.reserve.filter (fun r => r.2.1 ≠ t.id) })
  let s : State := { s with ctx := { Ctx.reset with
    pc := entry, npc := entry, r := t.startRegs,
    cr := { CtrlRegs.reset with
      taskid := BitVec.ofNat 64 t.id, deadl := t.deadline, budget := t.job.budget,
      vwin := BitVec.ofNat 64 (v.1 * 32 + t.job.vwin), twin := BitVec.ofNat 64 (w.1 * 32 + t.job.tiles) },
    hcw := old.hcw, hcwGood := old.hcwGood, hcwFrom := old.hcwFrom, views := t.views, viewDecls := t.decls,
    merges := t.merges, status := .ready, part := p } }
  match t.cont.bind Cont.bad with
  | some loc => s.consume loc
  | none => (s.startTable t.job.hcwtab old.part).nowReady

/-- The context of a crew that the cox fills next: the first free one for which it chooses a task (22 R354). -/
def State.nextFree (s : State) (p crew : Nat) : Option Nat :=
  ((List.range 16).map (fun i => 16 * crew + i)).find? (fun k => s.isFree k && (s.choice p k).2.isSome)

/-- TASK_START: the cox starts a chosen task on a free context, unless a save is pending (22 R353 to R357; 23
R367). -/
def execTaskStart (k : BitVec 8) : State → Host.Outcome State Fault Refusal :=
  event (fun s =>
    let p := s.partOf (k.toNat / 16)
    let q := s.getPart p
    if q.preState ≠ 0 || q.hvState ≠ 0 || s.nextFree p (k.toNat / 16) ≠ some k.toNat then s
    else
      let r := s.choice p k.toNat
      let s := s.setPart p r.1
      match r.2 with
      | none => s
      | some t => (s.onCtx k.toNat (fun s => s.startTask p t)).modPart p Part.turnOver)

/-- VIEW_FOLD: the merge unit takes the next step of a task's families (19 R336 to R342; 22 R352). -/
def execViewFold (p : BitVec 4) (task : BitVec 32) : State → Host.Outcome State Fault Refusal :=
  event (fun s =>
    if (s.getPart p.toNat).hvState ≠ 0 then s else (s.foldStep p.toNat task.toNat).getD s)

/-! The host's replies (23 R365). -/

/-- The context in focus goes on after a fault: trap entry, the load of its table, or its bundle. -/
def State.resumeCtx (s : State) : State :=
  match s.ctx.status, s.ctx.startLoad with
  | .hostWait (some t), _ => (s.finishEntry t).nowReady
  | .hostWait none, some (a, n) =>
    let t := s.loadTable a n (512 - n)
    if t.ctx.status = .ready then t.goReady else t
  | .hostWait none, none => s.goReady
  | _, _ => s

/-- A slot that waits for the host goes on, of the family with a first member (19 R340). -/
def unpause (first slot : Nat) (l : List Family) : List Family :=
  l.map (fun f => match f.members.head?, afind f.steps slot with
    | some m, some x => if m = first then f.step slot { x with paused := false } else f
    | _, _ => f)

/-- A command of a core and a ring's command, changed. -/
def State.modHead (s : State) (c q : Nat) (f : Cmd → Cmd) : State :=
  let co := s.getCore c
  match aget [] co.eq q with
  | [] => s
  | d :: t => s.setCore c { co with eq := aput co.eq q (f d :: t) }
def State.modRingCmd (s : State) (c r : Nat) (f : Cmd → Cmd) : State :=
  let co := s.getCore c
  match afind co.rings r with
  | some x => s.setCore c { co with rings := aput co.rings r { x with cmd := x.cmd.map f } }
  | none => s

/-! The areas of a save (23 R368 to R370). Places in them are counted through the context area, of 2 MiB, and the core
area behind it. -/

/-- The virtual address of a place in the areas of the context in focus. -/
def State.savePlace (s : State) (p off : Nat) : Word :=
  baseVA (s.getPart p).savebase + BitVec.ofNat 64 (
    if off < 0x200000 then s.ctx.cr.taskid.toNat % 0x4000 * 0x200000 + off
    else 0x800000000 + s.coreId * 0x200000 + (off - 0x200000))

/-- What a save writes beyond the frame, in pieces of one page and of at most 16,384 bytes: layouts are open (23 R362,
R368; DESIGN CHOICE, assumption log 32). -/
def saveImage (n : Nat) : List (Nat × List Byte) :=
  (Config.saveImage n).filter (fun w => 0x82000 ≤ w.1 && w.1 + w.2.length ≤ 0x400000 && !(w.2.isEmpty) &&
    w.2.length ≤ 16384 && w.1 / 65536 = (w.1 + w.2.length - 1) / 65536)

/-- The physical place of a core's emergency area, and whether it lies in memory that the partition owns (23 R370). -/
def State.emergencyArea (s : State) (p core : Nat) : Nat :=
  (s.getPart p).embase.toNat / 2 ^ 21 % 2 ^ 27 * 0x200000 + core * 0x200000
def State.emergencyOk (s : State) (p core : Nat) : Bool :=
  let a := s.emergencyArea p core
  (s.getPart p).embase.toNat / 2 ^ 21 % 2 ^ 27 ≠ 0 && s.owns p a && s.owns p (a + 0x1FFFFF)

/-- A write into the emergency area of the core in focus, untranslated. -/
def State.emergencyPut (s : State) (p off : Nat) (bs : List Byte) : State :=
  s.eput (.phys (s.emergencyArea p s.coreId + off) false .none) bs false

/-- The context in focus goes to its core's emergency area, whole, and the fault to the host (23 R369, R370): an area in use
is waited for; one that cannot be used makes the fault unrecoverable (27 R405). -/
def State.toEmergency (s : State) (p : Nat) (img : List (Nat × List Byte)) (cause : BitVec 8) (va : Word) : State :=
  if s.core.emergency.any (fun x => x ≠ s.ctxId) then s
  else if !(s.emergencyOk p s.coreId) then s.resetPart p
  else
    let s := (img.filter (fun w => w.1 < 0x200000)).foldl (fun s w => s.emergencyPut p w.1 w.2) s
    ({ s with core := { s.core with emergency := some s.ctxId } }).postFault p s.coreId s.ctxId s.ctx.cr.taskid cause va 6
      (some (.save s.here))

/-- The save of a context waits for the host. -/
def Part.saveWaits (q : Part) (k : Nat) : Bool := q.faults.any (fun f => f.2.2 = .save k)

/-- The writes that the save of the context in focus has still to make. -/
def Part.writesOf (q : Part) (k : Nat) : List (Nat × List Byte) :=
  (q.saveWrites.filter (fun w => w.1 = k)).map Prod.snd
def Part.setWrites (q : Part) (k : Nat) (ws : List (Nat × List Byte)) : Part :=
  { q with saveWrites := q.saveWrites.filter (fun w => w.1 ≠ k) ++ ws.map (fun w => (k, w.1, w.2)) }

/-- The save of the context in focus makes its next write; one that faults sends the whole context to the emergency area,
from where it is copied once the host has answered (23 R369). -/
def State.saveWrite (s : State) (p : Nat) : State :=
  let k := s.here
  match (s.getPart p).writesOf k with
  | [] => s
  | (off, bs) :: t =>
    if (s.getPart p).saveWaits k then s
    else
      let va := s.savePlace p off
      let copied := s.core.emergency = some s.ctxId
      match s.translate p va.toNat .engineWrite false with
      | .ok ((pa, e), u) =>
        let data := if copied && off < 0x200000 then
            u.dieBytes (dieOf s.coreId) (s.emergencyArea p s.coreId + off) bs.length else bs
        let u := (u.eput (.phys pa (e.testBit 5) ⟨e.testBit 7, e.testBit 6⟩) data false).modPart p (fun q => q.setWrites k t)
        if copied && t.isEmpty then { u with core := { u.core with emergency := none } } else u
      | .error c =>
        if copied then s.postFault p s.coreId s.ctxId s.ctx.cr.taskid c va 6 (some (.save k))
        else
          -- the write that faults, and those behind it, are copied again with the rest
          let img := saveImage s.tick ++ (off, bs) :: t
          let u := s.toEmergency p img c va
          if u.core.emergency = some s.ctxId then ({ u with tick := u.tick + 1 }).modPart p (fun q => q.setWrites k img)
          else u

/-- The save of the context in focus that the hypervisor asks for: its areas lie at an address of the hypervisor, in memory
that is not the module's, and whether a write there faults is open (23 R370, R372; DESIGN CHOICE, assumption log 32). -/
def State.hvWrite (s : State) (p : Nat) : State :=
  let r := s.fresh
  let s := r.2
  let here := s.core.emergency = some s.ctxId
  let guests := !(((s.getPart p).writesOf s.here).isEmpty)
  if r.1.getLsbD 0 then
    if here && guests then s
    else if here then
      s.postFault p s.coreId s.ctxId s.ctx.cr.taskid cPAGE (baseVA (s.getPart p).hvbase) 6 (some (.save s.here))
    else s.toEmergency p (saveImage s.tick) cPAGE (baseVA (s.getPart p).hvbase)
  else
    ({ s with core := { s.core with
      emergency := if here && !guests then none else s.core.emergency } }).modPart p (fun q =>
        { q with hvSaved := q.hvSaved ++ [s.here] })

/-- A page of the areas of the context in focus that a restore cannot read (23 R371). -/
def State.restoreFault (s : State) (p : Nat) : Option (BitVec 8 × Word) :=
  ((List.range 64).map (fun i => s.savePlace p (65536 * i))).findSome? (fun a =>
    match s.translate p a.toNat .engineRead false with
    | .error c => some (c, a)
    | .ok _ => none)

/-- The context in focus is put back; a fault on its area waits for the host (23 R371). -/
def State.restoreHere (s : State) (p : Nat) : State :=
  match s.restoreFault p with
  | some (c, va) => s.postFault p s.coreId s.ctxId s.ctx.cr.taskid c va 6 (some (.save s.here))
  | none => (s.modPart p (fun q => { q with saved := adel q.saved s.here })).nowReady

/-- A save or a restore of a context that waited for the host goes on (23 R365, R369, R371): a guest's save makes its next
write in its turn. -/
def State.retrySave (s : State) (p k : Nat) : State :=
  let q := s.getPart p
  if q.hvState = 1 && (q.writesOf k).isEmpty && !(q.hvSaved.contains k) then s.onCtx k (fun s => s.hvWrite p)
  else if q.preState = 3 && q.hvState = 0 then s.onCtx k (fun s => s.restoreHere p)
  else s

/-- RESUME: what met the fault goes on (23 R365). Its access walks the tables again (24 R380): a TLB may drop an entry at any
time, and here every entry of the partition goes. -/
def execResume (p : BitVec 4) (n : Nat) : State → Host.Outcome State Fault Refusal :=
  event (fun s =>
    let p := p.toNat
    match afind (s.getPart p).faults n with
    | none => s
    | some (_, w) =>
      let s := (s.modPart p (fun q => { q with faults := adel q.faults n })).dropTlbs p (fun _ _ => true)
      let go := fun (d : Cmd) => { d with wait := if d.wait = .host then CmdWait.none else d.wait }
      match w with
      | .context k => s.onCtx k State.resumeCtx
      | .command c q => s.modHead c q go
      | .rigger c r => s.modRingCmd c r go
      | .merge id first slot =>
        s.modPart p (fun q => q.modTask id (fun t => { t with families := unpause first slot t.families }))
      | .save k => s.retrySave p k)

/-- A task ends without TEND, wherever it stands. -/
def State.dropTask (s : State) (p id status : Nat) : State :=
  match (s.getPart p).task? id with
  | none => s
  | some t => match t.st with
    | .running k =>
      if (s.getCtx k).cr.taskid.toNat = id then s.onCtx k (fun s => s.endTask status true) else s
    | .finished _ _ => s
    | _ => (s.releaseTask t).finishTask p id status true

/-- A command that the host aborts leaves its queue and its barrier, and its task ends. -/
def State.abortCmd (s : State) (p status : Nat) (d : Cmd) : State :=
  (s.onCtx d.ctx (fun s => s.payBar d)).dropTask p d.task status

/-- ABORT: the task ends with status 0x86 or 0x87; an aborted merge or save is contained (23 R365; 27 R405). -/
def execAbort (p : BitVec 4) (n : Nat) : State → Host.Outcome State Fault Refusal :=
  event (fun s =>
    let p := p.toNat
    match afind (s.getPart p).faults n with
    | none => s
    | some (cause, w) =>
      let s := s.modPart p (fun q => { q with faults := adel q.faults n })
      let status := (0x80 ||| cause).toNat
      match w with
      | .context k => s.onCtx k (fun s => match s.ctx.status with
          | .hostWait _ => s.endTask status true
          | _ => s)
      | .command c q => match aget [] (s.getCore c).eq q with
          | [] => s
          | d :: t => (s.setCore c { s.getCore c with eq := aset [] (s.getCore c).eq q t }).abortCmd p status d
      | .rigger c r => match (afind (s.getCore c).rings r).bind Ring.cmd with
          | none => s
          | some d =>
            let co := s.getCore c
            let ring := aget Ring.none co.rings r
            (s.setCore c { co with rings := aput co.rings r { ring with cmd := none } }).abortCmd p status d
      | .merge id _ _ => s.contain p id
      | .save k => s.contain p (s.getCtx k).cr.taskid.toNat)

/-- HALT_DECISION: the host resumes or discards a halted context; a decision that names none is counted in the
host port's error counter (07 R132; 22 R351; 25 R391). -/
def execHaltDecision (p : BitVec 4) (task : BitVec 32) (discard : Bool) : State → Host.Outcome State Fault Refusal :=
  event (fun s =>
    let halted := s.ctxKeys.find? (fun k =>
      let c := s.getCtx k
      c.part = p.toNat && c.status = .halted && c.cr.taskid.toNat = task.toNat)
    match halted with
    | none => s.setPort 0 { s.getPort 0 with errors := (s.getPort 0).errors + 1 }
    | some k => s.onCtx k (fun s =>
        if discard then s.endTask 0x40 true else s.goReady))

end Sys2Proof.Machine
end

