-- ==== Sys2Proof/Machine/EngineSlot.lean ====
section
/-! DEFINITION. The E slot except PHLIVE (10 R207 to R221; 12 R246), and the events of the engines: a command
completes or faults, a rigger fills a slot, a group slot is validated, and what a far end or the host answers. -/

namespace Sys2Proof.Machine

/-- ECFG (10 R210). -/
def execEcfg (nset dim : BitVec 3) (fsel : BitVec 1) (val : BitVec 29) : State → Host.Outcome State Fault Refusal :=
  run (fun s =>
    let n := aget NestSet.reset s.ctx.nest nset.toNat
    let d := dim.toNat
    let n : NestSet :=
      if d < 6 then
        if fsel = 0 then { n with bound := aset 1 n.bound d val.toNat }
        else { n with stride := aset 0 n.stride d val.toInt }
      else if fsel = 0 then { n with elem := bf val.toNat 0 5 }
      else { n with origin := aset 0 n.origin (fld val.toNat 26 3) (fld val.toNat 0 26) }
    .ok { s with ctx := { s.ctx with nest := aset NestSet.reset s.ctx.nest nset.toNat n } })

/-- COPY (10 R213, R214): its amount is the bytes it writes. -/
def execCopy (q : BitVec 4) (bar : BitVec 18) (sset dset : BitVec 3) (asrc adst : BitVec 4) (op : BitVec 6) :
    State → Host.Outcome State Fault Refusal :=
  run (fun s => s.enqueue (.copy q bar sset dset asrc adst op) q bar [asrc, adst] [sset, dset]
    (fun l => setBytes l.tail) 3 (op.getLsbD 5))

/-- GATHER (10 R215). -/
def execGather (q : BitVec 4) (bar : BitVec 18) (nset : BitVec 3) (atab ai ad : BitVec 4) (mode : BitVec 3)
    (op : BitVec 6) : State → Host.Outcome State Fault Refusal :=
  run (fun s => s.enqueue (.gather q bar nset atab ai ad mode op) q bar [atab, ai, ad] [nset] rowBytesOf 3)

/-- SCATTER (10 R215). -/
def execScatter (q : BitVec 4) (bar : BitVec 18) (nset : BitVec 3) (atab ai ad : BitVec 4) (mode : BitVec 3)
    (op : BitVec 6) : State → Host.Outcome State Fault Refusal :=
  run (fun s => s.enqueue (.scatter q bar nset atab ai ad mode op) q bar [atab, ai, ad] [nset] rowBytesOf 3)

/-- NMOP (10 R216). -/
def execNmop (q : BitVec 4) (bar : BitVec 18) (nset : BitVec 3) (ad asrc ai : BitVec 4) (op : BitVec 4)
    (ix : BitVec 1) : State → Host.Outcome State Fault Refusal :=
  run (fun s => s.enqueue (.nmop q bar nset ad asrc ai op ix) q bar [ad, asrc, ai] [nset]
    (if ix = 1 then rowBytesOf else setBytes) 3)

/-- NMFENCE (10 R217). -/
def execNmfence (q : BitVec 4) (bar : BitVec 18) : State → Host.Outcome State Fault Refusal :=
  run (fun s => s.enqueue (.nmfence q bar) q bar [] [] (fun _ => 1) 3)

/-- NMOPT (10 R218). -/
def execNmopt (q : BitVec 4) (bar : BitVec 18) (ap ag am alg : BitVec 4) (cnt : BitVec 20) :
    State → Host.Outcome State Fault Refusal :=
  run (fun s => s.enqueue (.nmopt q bar ap ag am alg cnt) q bar [ap, ag, am] [] (fun _ => cnt.toNat * 512) 3)

/-- QFENCE (10 R217). -/
def execQfence (q : BitVec 4) (bar : BitVec 18) (mask : BitVec 16) : State → Host.Outcome State Fault Refusal :=
  run (fun s => s.enqueue (.qfence q bar mask) q bar [] [] (fun _ => 1) 0)

/-- SUBSCR (10 R219; 13 R270, R271): a ring without a subscription has one from here on. -/
def execSubscr (q : BitVec 4) (bar : BitVec 18) (asrc : BitVec 4) (nset : BitVec 3) (ring : BitVec 4)
    (first : BitVec 5) (cnt : BitVec 4) (slot : BitVec 16) : State → Host.Outcome State Fault Refusal :=
  run (fun s => do
    let s ← s.enqueue (.subscr q bar asrc nset ring first cnt slot) q bar [asrc] [nset] (fun _ => 1) 3
    let n := aget NestSet.reset s.ctx.nest nset.toNat
    .ok (if (s.core.ring ring.toNat).active then s
      else s.setRing ring.toNat (.formed first.toNat cnt.toNat slot.toNat (s.readA asrc) n s.core.stamp)))

/-- SLOTRET (10 R219; 13 R271). -/
def execSlotret (q : BitVec 4) (bar : BitVec 18) (ring : BitVec 4) (k : BitVec 16) :
    State → Host.Outcome State Fault Refusal :=
  run (fun s => s.enqueue (.slotret q bar ring k) q bar [] [] (fun _ => 1) 0)

/-- UNSUBSCR (10 R219; 13 R271). -/
def execUnsubscr (q : BitVec 4) (bar : BitVec 18) (ring : BitVec 4) : State → Host.Outcome State Fault Refusal :=
  run (fun s => s.enqueue (.unsubscr q bar ring) q bar [] [] (fun _ => 1) 0)

/-- HCWLD (10 R220). -/
def execHcwld (q : BitVec 4) (bar : BitVec 18) (an : BitVec 4) (first : BitVec 9) (cnt : BitVec 10) :
    State → Host.Outcome State Fault Refusal :=
  run (fun s => s.enqueue (.hcwld q bar an first cnt) q bar [an] [] (fun _ => cnt.toNat * 32) 0)

/-- The array claim that GLOAD and FLOADM need (03 R49). -/
def State.claimed (s : State) : Except Stop Unit := require (s.core.arr.claim = some s.ctxId) (trapSlot cILLI 6)

/-- GLOAD (10 R220; 15 R299): the slot shows VALIDATING from here on. -/
def execGload (q : BitVec 4) (bar : BitVec 18) (an : BitVec 4) (slot : BitVec 2) :
    State → Host.Outcome State Fault Refusal :=
  run (fun s => do
    s.claimed
    let s ← s.enqueue (.gload q bar an slot) q bar [an] [] (fun _ => 1) 0
    .ok (s.modGroup slot.toNat (fun _ => { GroupSlot.reset with
      st := .validating, stamp := s.core.stamp, loader := some s.ctxId })))

/-- FLOADM (10 R220; 09 R187): LBANK is set here. -/
def execFloadm (q : BitVec 4) (bar : BitVec 18) (an : BitVec 4) (nset : BitVec 3) (bank : BitVec 1) :
    State → Host.Outcome State Fault Refusal :=
  run (fun s => do
    s.claimed
    let s ← s.enqueue (.floadm q bar an nset bank) q bar [an] [nset] setBytes 0
    .ok (s.modArr (fun u => { u with lbank := bank.toNat })))

/-- PMIG (10 R221). -/
def execPmig (q : BitVec 4) (bar : BitVec 18) (an : BitVec 4) (tier : BitVec 2) (pages : BitVec 30) :
    State → Host.Outcome State Fault Refusal :=
  run (fun s => s.enqueue (.pmig q bar an tier pages) q bar [an] [] (fun _ => pages.toNat * 65536) 3)

/-- PUT (10 R221; 25 R397): a route entry that names a barrier gives the arrival number. -/
def execPut (q : BitVec 4) (bar : BitVec 18) (al ar : BitVec 4) (peer : BitVec 8) (op : BitVec 6) (nset : BitVec 3) :
    State → Host.Outcome State Fault Refusal :=
  run (fun s => do
    let s ← s.enqueue (.put q bar al ar peer op nset) q bar [al, ar] [nset] setBytes 4
    match aget [] (s.getPart s.myPart).routes peer.toNat with
    | [port, rpart, b, log, n] =>
      if b = 0 then .ok s
      else
        let l := (s.core.queue q.toNat).dropLast ++
          ((s.core.queue q.toNat).getLast?.map (fun c => { c with anum := n })).toList
        .ok ((s.setQueue q.toNat l).modPart s.myPart (fun p => { p with
          routes := aset [] p.routes peer.toNat [port, rpart, b, log, (n + 1) % 2 ^ 32] }))
    | _ => .ok s)

/-- GET (10 R221). -/
def execGet (q : BitVec 4) (bar : BitVec 18) (al ar : BitVec 4) (peer : BitVec 8) (op : BitVec 6) (nset : BitVec 3) :
    State → Host.Outcome State Fault Refusal :=
  run (fun s => s.enqueue (.get q bar al ar peer op nset) q bar [al, ar] [nset] setBytes 4)

/-- BANKCFG (12 R246). -/
def execBankcfg (q : BitVec 4) (bar : BitVec 18) (bank : BitVec 5) (mode : BitVec 2) (ring : BitVec 4) :
    State → Host.Outcome State Fault Refusal :=
  run (fun s => s.enqueue (.bankcfg q bar bank mode ring) q bar [] [] (fun _ => 1) 0)

/-- ZEROM (10 R221). -/
def execZerom (q : BitVec 4) (bar : BitVec 18) (an : BitVec 4) (lines : BitVec 32) :
    State → Host.Outcome State Fault Refusal :=
  run (fun s => s.enqueue (.zerom q bar an lines) q bar [an] [] (fun _ => lines.toNat * 128) 3)

/-! Events of the engines. -/

/-- The context that issued the GLOAD of a slot has yet to come to its next bundle, which still reads VALIDATING (15
R301). -/
def State.justLoaded (s : State) (c slot : Nat) : Bool :=
  (aget GroupSlot.reset (s.getCore c).groups slot).loader.any (fun x => (s.getCtx (4 * c + x)).isReady)

/-- Whether a command is one that a subscription of its queue does not hold back: those that end it, or hand its slots
back (13 R271). -/
def Cmd.serves (c : Cmd) : Bool :=
  match c.i with
  | .slotret _ _ _ _ => true
  | .unsubscr _ _ _ => true
  | .subscr _ _ _ _ _ _ _ _ => true
  | _ => false

/-- The subscriptions of a queue that a rigger still serves and that were issued before a number. -/
def Core.subscribed (c : Core) (q stamp : Nat) : Bool :=
  c.rings.any (fun r => r.2.cmd.any (fun x => x.stamp < stamp && match x.i with
    | .subscr k _ _ _ _ _ _ _ => k.toNat = q
    | _ => false))

/-- A command's turn: the accesses that its issue released are performed, and those of the commands issued before it to
its queue: a rigger still reads for its SUBSCR (10 R207). -/
def State.mayStart (s : State) (p c q : Nat) (d : Cmd) : Bool :=
  (d.serves || !((s.getCore c).subscribed q d.stamp)) &&
  (d.done ≠ 0 || match s.cmdCtx p d with
    | some x => x.pend.lq.all (fun o => d.after < o.seq || o.kind.performed) && x.pend.stq.all (fun o => d.after < o.seq)
    | none => true)

/-- Acts on the command at the head of a queue, on its core and context. -/
def State.atHead (s : State) (c q : Nat) (f : State → Cmd → State) : State :=
  match ((s.getCore c).queue q).head? with
  | none => s
  | some d =>
    let early := match d.i with
      | .gload _ _ _ slot => s.justLoaded c slot.toNat
      | _ => false
    if early || !(s.mayStart (s.partOf (crewOf c)) c q d) then s else s.onCtx (4 * c + d.ctx % 4) (fun s => f s d)

/-- Replaces the head of a queue. -/
def State.putHead (s : State) (q : Nat) (d : Cmd) : State := s.setQueue q (d :: (s.core.queue q).tail)

/-- The head command of a queue takes at most n steps; it completes when none is left. -/
def State.advanceCmd (s : State) (q : Nat) (d : Cmd) (n : Nat) : State :=
  if d.wait ≠ .none then s
  else
    let r := s.cmdGo d n
    match r.2.2 with
    | none =>
      if r.2.1.items ≤ r.2.1.done && r.2.1.wait = .none then r.1.completeCmd q r.2.1 else r.1.putHead q r.2.1
    | some .wait => r.1.putHead q r.2.1
    | some _ => s

/-- COMMAND_COMPLETE: the head command of a queue is performed as far as it can be, and completes (10 R208). -/
def execCommandComplete (c : BitVec 6) (q : BitVec 4) : State → Host.Outcome State Fault Refusal :=
  event (fun s => s.atHead c.toNat q.toNat (fun s d => s.advanceCmd q.toNat d (2 * d.items + 2)))

/-- ENGINE_FAULT: the head command of a queue meets a fault (10 R209; 06 R114). -/
def execEngineFault (c : BitVec 6) (q : BitVec 4) : State → Host.Outcome State Fault Refusal :=
  event (fun s => s.atHead c.toNat q.toNat (fun s d =>
    if d.wait ≠ .none then s
    else
      let r := s.cmdGo d (2 * d.items + 2)
      let d' := r.2.1
      match r.2.2 with
      | some (.fault code) =>
        let t := r.1
        ((t.setQueue q.toNat (t.core.queue q.toNat).tail).faultCmd d' code)
      | some (.host code va) =>
        let t := r.1.putHead q.toNat { d' with wait := .host }
        t.hostCmd d' code va (.command t.coreId q.toNat)
      | some (.poison loc) => (r.1.postError s.myPart 2 s.coreId loc).contain s.myPart d.task
      | _ => s))

/-- The bytes that a rigger writes from a place of a bank upward: the elements from e on, then zeros; the element that
stops it. It writes the whole slot, what a drain has put there too (DESIGN CHOICE, assumption log 81: 13 R273 leaves open
whether such bytes are kept). A word that elements have filled whole is as poisoned as they are; `tainted` says that one of
those before in the same word was (27 R402). -/
def State.fillFrom (s : State) (r : Ring) (off e : Nat) (tainted : Bool) : Nat → State × Option (EStop × Nat)
  | 0 => (s, none)
  | k + 1 =>
    let n := r.set.size
    let sofar := tainted && off % 4 ≠ 0
    if r.set.count ≤ e then
      let s := s.bankWrite s.coreId off (List.replicate ((k + 1) * n) 0) none
      (if off % 4 = 0 then s else s.setBank s.coreId (off / 4) sofar, none)
    else
      match s.eread (r.set.at r.src e) n with
      | .error x => (s, some (x, e))
      | .ok (bs, bad, t) =>
        let bad := bad || sofar
        let t := t.bankWrite s.coreId off bs none
        let t := if bad then t.markBank s.coreId off n
          else if n < 4 && (off + n) % 4 = 0 then t.setBank s.coreId (off / 4) false else t
        t.fillFrom r (off + n) (e + 1) bad k

/-- The fill of slot j of a ring ends (13 R271). -/
def State.filled (s : State) (k : Nat) (r : Ring) (j : Nat) : State :=
  let r : Ring := { r with slots := r.slots.set j .full, next := r.next + 1 }
  if r.ended then
    let s := s.setRing k { r with
      slots := r.slots.map (fun x => if x = .free then .done else x), cmd := none }
    match r.cmd with
    | some c => s.payBar c
    | none => s
  else s.setRing k r

/-- RIGGER_FILL: the rigger starts the fill of the next slot in ring order, or ends it (13 R271, R273), behind the
subscriptions issued before to its queue (10 R207). The bytes of one fill are read at one moment (DESIGN CHOICE, assumption
log 81: 13 R273 leaves open, byte by byte, whether a store after the issue is seen). -/
def execRiggerFill (c : BitVec 6) (ring : BitVec 4) : State → Host.Outcome State Fault Refusal :=
  event (fun s =>
    let r := (s.getCore c.toNat).ring ring.toNat
    match r.cmd with
    | none => s
    | some d =>
      let behind := match d.i with
        | .subscr q _ _ _ _ _ _ _ => (s.getCore c.toNat).subscribed q.toNat d.stamp
        | _ => false
      if d.wait ≠ .none || r.ended || r.slots.isEmpty || behind then s
      else s.onCtx (4 * c.toNat + d.ctx % 4) (fun s =>
        let j := r.next % r.slots.length
        match r.slots.getD j .done with
        | .free => s.setRing ring.toNat { r with slots := r.slots.set j .filling }
        | .filling =>
          let n := r.set.size
          let x := s.asEngine s.myPart d.task (fun s =>
            s.fillFrom r (r.first * 0x8000 + j * r.slotBytes) (r.next * r.slotBytes / n) false (r.slotBytes / n))
          match x.2 with
          | none => x.1.filled ring.toNat r j
          | some (.fault code, e) => x.1.faultCmd { d with done := e } code
          | some (.host code va, _) =>
            let t := x.1.setRing ring.toNat { r with cmd := some { d with wait := .host } }
            t.hostCmd d code va (.rigger t.coreId ring.toNat)
          | some _ => s
        | _ => s))

/-- GROUP_VALIDATION: the checks of a held descriptor run to their end (15 R300); a slot whose GLOAD was stopped before it
held one stays VALIDATING (15 R299). -/
def execGroupValidation (c : BitVec 6) (slot : BitVec 2) : State → Host.Outcome State Fault Refusal :=
  event (fun s =>
    let co := s.getCore c.toNat
    let g := aget GroupSlot.reset co.groups slot.toNat
    if g.st = .validating && !g.bytes.isEmpty && !(co.gloading slot.toNat) && !(s.justLoaded c.toNat slot.toNat) then
      s.setCore c.toNat { co with groups := aset GroupSlot.reset co.groups slot.toNat g.validate }
    else s)

/-- GET_DATA: the data of a GET arrives, in one message or several: the command goes on when all that it asked for is there
(10 R221; 25 R390). -/
def execGetData (c : BitVec 6) (q : BitVec 4) (data : List (BitVec 8)) (poisoned : Bool) :
    State → Host.Outcome State Fault Refusal :=
  event (fun s => s.atHead c.toNat q.toNat (fun s d => match d.i with
    | .get _ _ _ _ _ _ _ =>
      let n := d.sets.headD .reset
      let asked := min pieceBytes ((n.count - d.done) * n.size)
      let bs := d.data ++ data
      if d.wait.atPeer && bs.length ≤ asked then
        s.putHead q.toNat { d with
          wait := if bs.length = asked then .none else d.wait, data := bs,
          bads := d.bads ++ List.replicate data.length poisoned }
      else s
    | _ => s))

/-- FAR_END_ACK: the far end acknowledges a PUT or refuses a PUT or GET: status 0 done, 1 PAGE, else PROT (10
R221). -/
def execFarEndAck (c : BitVec 6) (q : BitVec 4) (status : BitVec 2) : State → Host.Outcome State Fault Refusal :=
  event (fun s => s.atHead c.toNat q.toNat (fun s d =>
    if !d.wait.atPeer then s
    else if status = 0 then match d.i with
      | .put _ _ _ _ _ _ _ =>
        let d := { d with wait := .none }
        if d.items ≤ d.done then s.completeCmd q.toNat d else s.putHead q.toNat d
      | _ => s
    else (s.setQueue q.toNat (s.core.queue q.toNat).tail).faultCmd d (if status = 1 then cPAGE else cPROT)))

/-- The queue of a core whose head waits for a frame request of a partition. -/
def State.frameWaiter (s : State) (p req : Nat) : Option (Nat × Nat) :=
  s.coreKeys.findSome? (fun c =>
    if s.partOf (crewOf c) = p then
      ((s.getCore c).eq.find? (fun q => q.2.head?.any (fun d => d.wait = .frames req))).map (fun q => (c, q.1))
    else none)

/-- FRAME_GRANT: the host grants a PMIG its frames, or refuses (24 R382; 25 R391). -/
def execFrameGrant (p : BitVec 4) (req : BitVec 32) (refused : Bool) (frames : List (BitVec 64)) :
    State → Host.Outcome State Fault Refusal :=
  event (fun s => match s.frameWaiter p.toNat req.toNat with
    | none => s
    | some (c, q) => s.atHead c q (fun s d =>
        let unfit := match d.i with
          | .pmig _ _ _ tier pages => frames.length ≠ pages.toNat ||
              frames.any (fun f => f.toNat % 65536 ≠ 0 || !(s.owns p.toNat f.toNat) || tierOf f.toNat ≠ tier.toNat)
          | _ => true
        if refused || unfit then (s.setQueue q (s.core.queue q).tail).faultCmd d cPROT
        else s.putHead q { d with wait := .none, frames := frames.map BitVec.toNat }))

/-- The engine does a part of a command: no event of the opcode table, but what lies between its issue and its
completion (14 R292). -/
def State.engineStep (s : State) (c q : Nat) : State :=
  s.atHead c q (fun s d =>
    if d.done + 1 < d.items || 1 < d.held.length then s.advanceCmd q d 1 else s)

end Sys2Proof.Machine
end

