-- ==== Sys2Proof/Machine/Landing.lean ====
section
/-! DEFINITION. The events that finish what earlier bundles issued: loads and stores performed (10 R194 to R196),
results and moves completed (08 R155; 09 R179), shadows and replayed results landed (03 R65; 23 R363). -/

namespace Sys2Proof.Machine

/-- A load whose data enters LDQ, or that only orders. -/
def LoadKind.queued : LoadKind → Bool
  | .queue => true
  | .vector _ _ => true
  | .stream _ => true
  | .ready _ => true
  | .fence _ _ => true
  | _ => false

/-- A load whose result is a scalar register. -/
def LoadKind.scalar : LoadKind → Bool
  | .reg _ _ => true
  | .amo _ _ _ _ _ _ _ => true
  | .chunk _ _ _ => true
  | _ => false

/-- Performs a load of the context in focus of a kind whose turn has come; which of several is open (14 R284). -/
def State.performIf (s : State) (p : LoadKind → Bool) : State :=
  match s.oneOf (s.loadsReady.filter (fun o => p o.kind)) with
  | some (o, s) => s.performOrConsume o
  | none => s

/-- LOAD_DATA_RETURN: the data of the oldest queued load enters LDQ (10 R194). -/
def execLoadDataReturn (k : BitVec 8) : State → Host.Outcome State Fault Refusal :=
  event (fun s => s.onCtx k.toNat (fun s => s.performIf LoadKind.queued))

/-- SCOREBOARD_RESULT_WRITE: a load or an atomic gives its scalar result (10 R196, R201). -/
def execScoreboardResultWrite (k : BitVec 8) : State → Host.Outcome State Fault Refusal :=
  event (fun s => s.onCtx k.toNat (fun s => s.performIf LoadKind.scalar))

/-- STORE_PERFORM: a store whose turn has come is performed once its data is there (10 R195); which of several is open
(14 R284). One that meets a fault only now is stopped as at its issue, and stays pending (10 R193). -/
def execStorePerform (k : BitVec 8) : State → Host.Outcome State Fault Refusal :=
  event (fun s => s.onCtx k.toNat (fun s => match s.oneOf s.storesReady with
    | some (o, t) => match t.reachStore o with
      | .ok u => u
      | .error e => if s.ctx.isReady || s.ctx.isBlocked then t.stopWith e else s
    | none => s))

/-- V_SLOT_COMPLETE: the oldest V slot in flight writes its result and its flags (08 R155). -/
def execVSlotComplete (k : BitVec 8) : State → Host.Outcome State Fault Refusal :=
  event (fun s => s.onCtx k.toNat (fun s => s.completeFirst true))

/-- X_MOVE_COMPLETE: the oldest move in flight writes its tile or register; with none, an LDT whose turn has come
writes its tile (09 R177, R179). -/
def execXMoveComplete (k : BitVec 8) : State → Host.Outcome State Fault Refusal :=
  event (fun s => s.onCtx k.toNat (fun s =>
    if (firstFlight false s.ctx.pend.flight).isSome then s.completeFirst false
    else s.performIf (fun x => match x with
      | .tile _ => true
      | _ => false)))

/-- SHADOW_LAND: the shadows whose bundles have been counted land (03 R65). -/
def execShadowLand (k : BitVec 8) : State → Host.Outcome State Fault Refusal :=
  event (fun s => s.onCtx k.toNat State.landShadows)

/-- Two results write one register, tile or scalar. -/
def Flight.meets (f g : Flight) : Bool :=
  f.regs.any (fun r => g.regs.contains r) || (f.tile?.isSome && f.tile? = g.tile?) ||
    (f.scalar?.isSome && f.scalar? = g.scalar?)

/-- The first re-injected result that may land by now: writes to one register land in entry order (23 R363). -/
def dueReplay (now : Nat) : List (Nat × Nat × Flight) → List (Nat × Nat × Flight) → Option (Nat × Nat × Flight)
  | _, [] => none
  | before, r :: t =>
    if r.1 ≤ now && !(before.any (fun b => b.2.2.meets r.2.2)) then some r else dueReplay now (before ++ [r]) t

/-- The re-injected result of a context that may land by now: none while its cycles are not yet counted (23 R371). -/
def Pending.due (p : Pending) (now : Nat) : Option (Nat × Nat × Flight) :=
  if p.paused then none else dueReplay now [] p.reinject

/-- REPLAY_LAND: a re-injected result lands once its cycles have passed (23 R363). -/
def execReplayLand (k : BitVec 8) : State → Host.Outcome State Fault Refusal :=
  event (fun s => s.onCtx k.toNat (fun s =>
    match s.ctx.pend.due s.cycle with
    | some r => (s.modPend (fun p => { p with
        reinject := p.reinject.filter (fun x => x.2.1 ≠ r.2.1) })).complete r.2.1 r.2.2
    | none => s))

end Sys2Proof.Machine
end

