-- ==== Sys2Proof/Machine/Sources.lean ====
section
/-! DEFINITION. The scalar registers that an instruction reads and writes (03 R50, R57), and what a bundle takes from LDQ
(03 R58). -/

namespace Sys2Proof.Machine

/-! What an instruction reads and writes. -/

/-- The scalar registers that an instruction reads; a V slot's stand in its entry. -/
def sourcesOf : Instr → List (BitVec 6)
  | .bc _ sa _ => [sa]
  | .jr sa => [sa]
  | .callr sa => [sa]
  | .ret => [63]
  | .loop sa _ _ => [sa]
  | .sleepu sa => [sa]
  | .mwait _ sa => [sa]
  | .add _ sa sb => [sa, sb]
  | .sub _ sa sb => [sa, sb]
  | .mul _ sa sb => [sa, sb]
  | .mulh _ sa sb => [sa, sb]
  | .mulhu _ sa sb => [sa, sb]
  | .div _ sa sb => [sa, sb]
  | .divu _ sa sb => [sa, sb]
  | .rem _ sa sb => [sa, sb]
  | .remu _ sa sb => [sa, sb]
  | .and _ sa sb => [sa, sb]
  | .or _ sa sb => [sa, sb]
  | .xor _ sa sb => [sa, sb]
  | .andn _ sa sb => [sa, sb]
  | .shl _ sa sb => [sa, sb]
  | .shr _ sa sb => [sa, sb]
  | .sar _ sa sb => [sa, sb]
  | .rotr _ sa sb => [sa, sb]
  | .min _ sa sb => [sa, sb]
  | .max _ sa sb => [sa, sb]
  | .minu _ sa sb => [sa, sb]
  | .maxu _ sa sb => [sa, sb]
  | .seq _ sa sb => [sa, sb]
  | .slt _ sa sb => [sa, sb]
  | .sltu _ sa sb => [sa, sb]
  | .selz sd sa sb => [sd, sa, sb]
  | .clz _ sa => [sa]
  | .ctz _ sa => [sa]
  | .popc _ sa => [sa]
  | .brev _ sa => [sa]
  | .fshr sd sa sb => [sd, sa, sb]
  | .addi _ sa _ => [sa]
  | .andi _ sa _ => [sa]
  | .ori _ sa _ => [sa]
  | .xori _ sa _ => [sa]
  | .slti _ sa _ => [sa]
  | .sltiu _ sa _ => [sa]
  | .fshri _ sa sb _ => [sa, sb]
  | .shli _ sa _ => [sa]
  | .shri _ sa _ => [sa]
  | .sari _ sa _ => [sa]
  | .muli _ sa _ => [sa]
  | .sins sd _ => [sd]
  | .bfx _ sa _ _ => [sa]
  | .bfxu _ sa _ _ => [sa]
  | .bfi sd sa _ _ => [sd, sa]
  | .crw sa _ => [sa]
  | .setvl _ sa _ => [sa]
  | .st _ sv _ _ => [sv]
  | .vldq _ ss _ _ _ => [ss]
  | .vstq _ ss _ _ => [ss]
  | .vgathq _ sb _ _ _ _ => [sb]
  | .vscatq _ sb _ _ _ _ => [sb]
  | .amo _ sd sa op _ _ _ => if op = 9 then [sd, sa] else [sa]
  | .femark _ sc _ _ => [sc]
  | .qopen _ _ sp => [sp]
  | .qskip _ st _ _ => [st]
  | .movsv _ sa _ => [sa]
  | .binit sa _ => [sa]
  | .barrive sa _ => [sa]
  | .bwait _ sa _ _ => [sa]
  | .bexpect sa sb => [sa, sb]
  | .sleepb sa => [sa]
  | .tspawn _ sa => [sa]
  | .tview _ sa => [sa]
  | .tsuspend sa sb => [sa, sb]
  | .tsignal sa => [sa]
  | .tnotify sa => [sa]
  | .btest _ sa _ => [sa]
  | _ => []

/-- The scalar register that an instruction writes. -/
def resultOf : Instr → Option (BitVec 6)
  | .call _ => some 63
  | .callr _ => some 63
  | .mwait sd _ => some sd
  | .add sd _ _ => some sd
  | .sub sd _ _ => some sd
  | .mul sd _ _ => some sd
  | .mulh sd _ _ => some sd
  | .mulhu sd _ _ => some sd
  | .div sd _ _ => some sd
  | .divu sd _ _ => some sd
  | .rem sd _ _ => some sd
  | .remu sd _ _ => some sd
  | .and sd _ _ => some sd
  | .or sd _ _ => some sd
  | .xor sd _ _ => some sd
  | .andn sd _ _ => some sd
  | .shl sd _ _ => some sd
  | .shr sd _ _ => some sd
  | .sar sd _ _ => some sd
  | .rotr sd _ _ => some sd
  | .min sd _ _ => some sd
  | .max sd _ _ => some sd
  | .minu sd _ _ => some sd
  | .maxu sd _ _ => some sd
  | .seq sd _ _ => some sd
  | .slt sd _ _ => some sd
  | .sltu sd _ _ => some sd
  | .selz sd _ _ => some sd
  | .clz sd _ => some sd
  | .ctz sd _ => some sd
  | .popc sd _ => some sd
  | .brev sd _ => some sd
  | .fshr sd _ _ => some sd
  | .addi sd _ _ => some sd
  | .andi sd _ _ => some sd
  | .ori sd _ _ => some sd
  | .xori sd _ _ => some sd
  | .slti sd _ _ => some sd
  | .sltiu sd _ _ => some sd
  | .fshri sd _ _ _ => some sd
  | .shli sd _ _ => some sd
  | .shri sd _ _ => some sd
  | .sari sd _ _ => some sd
  | .muli sd _ _ => some sd
  | .sli sd _ => some sd
  | .sins sd _ => some sd
  | .bfx sd _ _ _ => some sd
  | .bfxu sd _ _ _ => some sd
  | .bfi sd _ _ _ => some sd
  | .crr sd _ => some sd
  | .setvl sd _ _ => some sd
  | .ld _ sd _ _ _ => some sd
  | .amo _ sd _ _ _ _ _ => some sd
  | .amoChunk _ sd _ _ _ => some sd
  | .qstat _ sd _ => some sd
  | .movvs sd _ _ => some sd
  | .bwait sd _ _ _ => some sd
  | .tspawn sd _ => some sd
  | .btest sd _ _ => some sd
  | _ => none

/-- Fields of an entry that are read, each with its code. -/
def Hcw.readCodes (h : Hcw) : List (Nat × Nat) :=
  ((List.range 4).zip h.src).filter (fun q => h.reads.getD q.1 false)

/-- The scalar registers that an instruction of the context in focus reads. -/
def State.scalarsRead (s : State) : Instr → List Nat
  | .vh idx _ => ((hcwOf (aget 0 s.ctx.hcw idx.toNat)).readCodes.filter (fun q => 448 ≤ q.2)).map (fun q => q.2 - 448)
  | i => (sourcesOf i).map BitVec.toNat

/-! Pops of LDQ (03 R58). -/

/-- The entries of LDQ that an instruction pops. -/
def State.popsOf (s : State) : Instr → Nat
  | .vh idx _ =>
    let h := hcwOf (aget 0 s.ctx.hcw idx.toNat)
    (([0, 1, 2, 3] : List Nat).map (h.pops s.rd.vtype s.rd.vl.toNat)).foldl (· + ·) 0
  | i => ((sourcesOf i).filter (fun n => n = 62)).length

/-- The entries that the slots of a bundle pop. -/
def State.popsOfAll (s : State) (is : List Instr) : Nat := (is.map s.popsOf).foldl (· + ·) 0

/-- The number of a slot (04 R67). -/
def slotNumber : Slot → Nat
  | .c => 0
  | .s => 1
  | .a => 2
  | .v => 3
  | .m => 4
  | .x => 5
  | .e => 6
  | .t => 7

/-- A scalar operand as a slot of the waiting bundle would read it: a pop takes the entry after those of the lower
slots (03 R58). -/
def State.operand (s : State) (slot : Nat) (n : BitVec 6) : Option Word :=
  if n = 62 then
    let before := s.popsOfAll (s.waiting.filter (fun i => i.slot.any (fun q => slotNumber q < slot)))
    match s.ctx.pend.ldq[before]? with
    | some (.scalar v) => some v
    | _ => none
  else some (if n = 0 then 0 else aget 0 s.rd.s n.toNat)

end Sys2Proof.Machine
end

