-- ==== Sys2Proof/Machine/Waits.lean ====
section
/-! DEFINITION. The events that end a wait, and the spent budget (03 R52, R53; 07 R124, R127; 11 R231, R233). -/

namespace Sys2Proof.Machine

/-- The wait of the context in focus ends: its bundle issues again. -/
def State.wake (s : State) (expired : Bool) (result : Option Word) : State :=
  match s.ctx.status with
  | .blocked n e w =>
    ({ s with ctx := { s.ctx with status := .cleared n (e || expired) (w.orElse (fun _ => result)) } }).claimIssue
  | _ => s

/-- How long the context in focus has been blocked, in cycles. -/
def State.waited (s : State) : Nat :=
  match s.ctx.status with
  | .blocked n _ _ => s.cycle - n
  | _ => 0

/-- BLOCK_CLEAR: the condition has cleared and the context is ready (03 R52). The step offers it when the waiting
bundle would issue. -/
def execBlockClear (k : BitVec 8) : State → Host.Outcome State Fault Refusal :=
  event (fun s => s.onCtx k.toNat (fun s => s.wake false none))

/-- The SLEEPU of the waiting bundle has reached its target. -/
def State.sleepOver (s : State) : Bool :=
  s.waiting.any (fun i => match i with
    | .sleepu sa => match s.operand 0 sa with
      | some t => decide (t.toNat ≤ s.cyc)
      | none => false
    | _ => false)

/-- SLEEPU_TARGET: CYC reaches the target of a SLEEPU (07 R124). -/
def execSleepuTarget (k : BitVec 8) : State → Host.Outcome State Fault Refusal :=
  event (fun s => s.onCtx k.toNat (fun s => if s.sleepOver then s.wake false none else s))

/-- The bounded BWAIT of the waiting bundle has run out: its phase is not complete, and its cycles have passed. -/
def State.bwaitOver (s : State) : Bool :=
  s.waiting.any (fun i => match i with
    | .bwait _ sa ph tmo =>
      tmo ≠ 0 && decide (tmo.toNat * 64 ≤ s.waited) && match s.operand 7 sa with
        | some a => (s.zeroedWait a).isSome || match s.object a with
          | .ok b => (s.getBar b).distance ph = 0
          | .error _ => false
        | none => false
    | _ => false)

/-- BWAIT_TIMEOUT: a bounded BWAIT expires with status 1 (11 R231, R241). -/
def execBwaitTimeout (k : BitVec 8) : State → Host.Outcome State Fault Refusal :=
  event (fun s => s.onCtx k.toNat (fun s => if s.bwaitOver then s.wake true none else s))

/-- The context in focus waits in an MWAIT whose status is open, with a timeout operand that satisfies p. -/
def State.inMwait (s : State) (p : Nat → Bool) : Bool :=
  s.ctx.watch.st = .set && (match s.ctx.status with
    | .blocked _ _ w => w.isNone
    | _ => false) &&
  s.waiting.any (fun i => match i with
    | .mwait _ sa => match s.operand 0 sa with
      | some t => p t.toNat
      | none => false
    | _ => false)

/-- The context in focus waits in an MWAIT whose watch has seen a write or is lost: its status is settled (07 R127). -/
def State.settledMwait (s : State) : Bool :=
  (match s.ctx.status with
    | .blocked _ _ w => w.isNone && s.ctx.watch.st ≠ .set
    | _ => false) &&
  s.waiting.any (fun i => match i with
    | .mwait _ _ => true
    | _ => false)

/-- MWAIT_TIMEOUT: the cycles of an MWAIT have passed (07 R127). -/
def execMwaitTimeout (k : BitVec 8) : State → Host.Outcome State Fault Refusal :=
  event (fun s => s.onCtx k.toNat (fun s =>
    if s.inMwait (fun t => t ≠ 0 && decide (t ≤ s.waited)) then s.wake false (some (s.ctx.watch.result 2)) else s))

/-- SPURIOUS_WAKE: an MWAIT wakes with status SPUR (07 R127). -/
def execSpuriousWake (k : BitVec 8) : State → Host.Outcome State Fault Refusal :=
  event (fun s => s.onCtx k.toNat (fun s =>
    if s.inMwait (fun t => t = 0 || decide (s.waited < t)) && (s.getPart s.ctx.part).preState ≠ 1 then
      s.wake false (some (s.ctx.watch.result 4))
    else s))

/-- The object whose promise the SLEEPB of the waiting bundle has seen pass, with its address. -/
def State.promisePassed (s : State) : Option (Word × Barrier) :=
  s.waiting.findSome? (fun i => match i with
    | .sleepb sa => match s.operand 7 sa with
      | some a => match s.object a with
        | .ok b => let x := s.getBar b
          if x.prm && s.promiseDue x then some (a, x) else none
        | .error _ => none
      | none => none
    | _ => none)

/-- SLEEPB_PROMISE_DUE: the promised cycle passes with PRM still set, and CRAB is raised (11 R233); where other slots of
the bundle may still wait, the bundle is tried again, and CRAB is raised when none of them does (11 R241). -/
def execSleepbPromiseDue (k : BitVec 8) : State → Host.Outcome State Fault Refusal :=
  event (fun s => s.onCtx k.toNat (fun s => match s.promisePassed with
    | some (a, x) =>
      if 1 < s.waiting.length then s.wake false none
      else (s.stopWith (trapR cCRAB [a, BitVec.ofNat 64 x.prom, BitVec.ofNat 64 (s.cyc % 2 ^ 32)])).nowReady
    | none => s))

/-- The slice of the context in focus is spent, in USER mode (03 R53). -/
def State.spent (s : State) : Bool :=
  s.ctx.mode = .user && s.ctx.cr.budget ≠ 0 && s.ctx.cr.budget.ule s.ctx.cr.bused

/-- BUDGET_EXHAUSTED: the next USER bundle of the context raises BUDGET, and the selector switches (03 R51, R53). -/
def execBudgetExhausted (k : BitVec 8) : State → Host.Outcome State Fault Refusal :=
  event (fun s => s.onCtx k.toNat (fun s =>
    if s.ctx.isReady && s.spent then
      let t := s.stopWith (trapR cBUDGET [s.ctx.cr.bused, s.ctx.cr.budget])
      if t.core.selected = t.ctxId then t.selectNext else t
    else s))

end Sys2Proof.Machine
end

