-- ==== Sys2Proof/Machine/Preempt.lean ====
section
/-! DEFINITION. Pre-emption: save points, saves and restores by the host and by the hypervisor (07 R128, R129; 03
R52; 23 R366 to R374). A saved context stays in its place and issues nothing; what its save does not name is
cleared; what the save writes into the areas is open (assumption log 32). -/

namespace Sys2Proof.Machine

/-! PHINT and PHLIVE. -/

/-- PHLIVE names state for the PHINT of its bundle (10 R222; 23 R367). -/
def execPhlive (chunks tiles : BitVec 16) (accs sgroups : BitVec 8) : State → Host.Outcome State Fault Refusal :=
  run (fun s => .ok { s with ctx := { s.ctx with live := some (chunks.toNat, tiles.toNat, accs.toNat, sgroups.toNat) } })

/-- PHINT: with a request pending in USER mode, the context stands at its save point after the bundle (07 R128). -/
def execPhint (groups : BitVec 24) : State → Host.Outcome State Fault Refusal :=
  run (fun s =>
    let q := s.getPart s.ctx.part
    .ok (if s.ctx.mode = .user && q.preState = 1 && q.hvState = 0 then
        { s with ctx := { s.ctx with status := .saving (some (groups, s.ctx.live)) } }
      else s))

/-! The save of a context. -/

/-- The numbers below n that a mask names. -/
def named (n m : Nat) : List Nat := (List.range n).filter m.testBit

/-- Vector registers of the window that no group of a hinted save names read zero from here on (23 R368). -/
def State.keepVectors (s : State) (groups : BitVec 24) : State :=
  let b := vwinBase s.ctx.cr.vwin
  let n := vwinSize s.ctx.cr.vwin
  { s with core := { s.core with
    vregs := s.core.vregs.filter (fun r => !(b ≤ r.1 && r.1 < b + n && !(groups.getLsbD ((r.1 - b) / 16)))) } }

/-- Tiles, accumulators and scalar registers that a PHLIVE does not name read zero from here on. -/
def State.keepNamed (s : State) (tiles accs sgroups : Nat) : State :=
  let b := twinBase s.ctx.cr.twin
  let n := twinCount s.ctx.cr.twin
  let gone := ((List.range n).filter (fun t => !(tiles.testBit t))).map (fun t => b + t)
  let s := { s with core := { s.core with tiles := s.core.tiles.filter (fun x => !(gone.contains (x.1 / 16384))) } }
  let s := s.modRegs (fun r => { r with s := r.s.filter (fun x => sgroups.testBit (x.1 / 8)) })
  if s.core.arr.claim = some s.ctxId then s.modArr (fun u => { u with
    acc := u.acc.filter (fun x => accs.testBit (x.1 / 16384)),
    accState := u.accState.filter (fun x => accs.testBit x.1) })
  else s

/-- Every SRAM chunk of 48 KiB. -/
def allChunks : Nat := 0xFFFF

/-- What the context in focus keeps of its watch, loop buffers and streams over a save (23 R368; 07 R118; 18
R324). -/
def Ctx.kept (c : Ctx) : Ctx :=
  { c with
    watch := if c.watch.st = .set then { c.watch with st := .dropped, waiting := false } else c.watch,
    loops := { c.loops with buffer := [] }, loopsHandler := { c.loopsHandler with buffer := [] },
    streams := c.streams.map (fun q => (q.1, { q.2 with copy := none })), fetched := none }

/-- A context's own commands are done, subscriptions and slot returns excepted, and its array work too (23 R369). -/
def State.saveClear (s : State) (k : Nat) : Bool :=
  let co := s.getCore (k / 4)
  !(co.eq.any (fun q => q.2.any (fun d => d.ctx = k && (match d.i with
      | .subscr _ _ _ _ _ _ _ _ => false
      | .slotret _ _ _ _ => false
      | _ => true)))) &&
    !(co.arr.queue.any (fun d => d.1 = k)) && !(co.arr.repeat_.any (fun r => r.ctx = k))

/-- The context stands at a save point (23 R367): hinted, forced, blocked, halted, or waiting on the host outside
trap entry (23 R374). -/
def Ctx.atPoint (c : Ctx) : Bool :=
  match c.status with
  | .saving _ => true
  | .blocked _ _ _ => true
  | .halted => true
  | .hostWait none => true
  | _ => false

/-- The cycles that results to come still take are counted on from the context's next bundle (23 R371). -/
def Pending.pause (p : Pending) (now : Nat) : Pending :=
  if p.paused then p else { p with paused := true, reinject := p.reinject.map (fun r => (r.1 - now, r.2)) }

/-- The context in focus is held by a save of a partition (23 R367, R368). -/
def State.holdCtx (s : State) (p : Nat) : State :=
  let k := s.here
  let hint := match s.ctx.status with
    | .saving h => h
    | _ => none
  let s := match hint with
    | some (g, some (_, t, a, sg)) => (s.keepVectors g).keepNamed t a sg
    | some (g, none) => s.keepVectors g
    | none => s
  let chunks := match hint with
    | some (_, some (c, _)) => c
    | _ => allChunks
  let status := match s.ctx.status with
    | .halted => Status.halted
    | .hostWait x => Status.hostWait x
    | _ => Status.ready
  let s := { s with ctx := { s.ctx.kept with status := status, pend := s.ctx.pend.pause s.cycle } }
  s.modPart p (fun q => { q with saved := aput q.saved k chunks })

/-- Saves context k of a partition if it stands at a save point and its work is done (23 R367 to R369); then the save makes
its writes, one at a time. -/
def State.guestStep (s : State) (p k : Nat) : State :=
  let q := s.getPart p
  let c := s.getCtx k
  if q.preState ≠ 1 || q.hvState ≠ 0 || c.part ≠ p then s
  else if (afind q.saved k).isSome then s.onCtx k (fun s => s.saveWrite p)
  else if !c.atPoint || !(s.saveClear k) then s
  else ({ s with tick := s.tick + 1 }).onCtx k (fun t =>
    (t.holdCtx p).modPart p (fun q => q.setWrites k (saveImage s.tick)))

/-- What a wait or its end keeps over a hypervisor's save: the cycles it has lasted, but a BWAIT or SLEEPB waits afresh (23
R372, R374). While it is held these stand for the cycle it began in. -/
def State.heldStatus (s : State) : Status :=
  let afresh := s.waiting.any (fun i => match i with
    | .bwait _ _ _ _ => true
    | .sleepb _ => true
    | _ => false)
  match s.ctx.status with
  | .blocked n x w => if afresh then .blocked 0 false w else .blocked (s.cycle - n) x w
  | .cleared n x w => .cleared (s.cycle - n) x w
  | t => t

/-- The same after it: a wait goes on from now. -/
def State.goOnWaiting (s : State) : Status :=
  match s.ctx.status with
  | .blocked n x w => .blocked (s.cycle - n) x w
  | .cleared n x w => .cleared (s.cycle - n) x w
  | t => t

/-- A hypervisor's save stops context k at a bundle boundary, once its work is done, and writes it; its loop record stays
(DESIGN CHOICE, assumption log 81: 07 R118 starts it afresh after a pre-emption, 23 R372 resumes everything where it
stood). -/
def State.hvStep (s : State) (p k : Nat) : State :=
  let q := s.getPart p
  if q.hvState ≠ 1 || (s.getCtx k).part ≠ p || q.hvSaved.contains k || q.saveWaits k || !(s.saveClear k) then s
  else s.onCtx k (fun s =>
    let t := s.hvWrite p
    if !((t.getPart p).hvSaved.contains k) then t
    else { t with ctx := { t.ctx with
      status := t.heldStatus, pend := t.ctx.pend.pause t.cycle,
      -- its MWAIT goes on, and finds the watch lost (07 R127)
      watch := if t.ctx.watch.st = .set then { t.ctx.watch with st := .dropped } else t.ctx.watch,
      streams := t.ctx.streams.map (fun q => (q.1, { q.2 with copy := none })) } })

/-- The next part of the save of a context. -/
def State.saveCtx (s : State) (p k : Nat) : State :=
  if (s.getPart p).hvState = 0 then s.guestStep p k else s.hvStep p k

/-- The contexts of a partition where a task runs. -/
def State.busy (s : State) (p : Nat) : List Nat :=
  s.ctxKeys.filter (fun k => (s.getCtx k).status ≠ .idle && (s.getCtx k).part = p && s.partOf (k / 16) = p)

/-- A context may issue and its events may happen: no save holds it. -/
def State.isHeld (s : State) (k : Nat) : Bool :=
  let q := s.getPart (s.getCtx k).part
  q.hvState ≥ 2 || (afind q.saved k).isSome || q.hvSaved.contains k

/-! Commands (23 R366, R367, R371 to R373). -/

/-- A pre-emption request reaches a context: an MWAIT wakes with status PREEMPT, with TIMEOUT where its cycles have passed, or
as its watch has settled it (07 R127; 23 R371: what the watch has seen is not lost); any other blocked bundle does not issue, and its context stands at its save point (03 R52; 07 R129). -/
def State.requestSave (s : State) : State :=
  if s.inMwait (fun t => t ≠ 0 && decide (t ≤ s.waited)) then s.wake false (some (s.ctx.watch.result 2))
  else if s.inMwait (fun _ => true) then s.wake false (some (s.ctx.watch.result 3))
  else if s.settledMwait then s.wake false none
  else if s.ctx.isBlocked then { s with ctx := { s.ctx with status := .saving none } }
  else s

/-- The guest's save command takes effect. -/
def State.guestSave (s : State) (p : Nat) : State :=
  if (s.getPart p).preState ≠ 0 then s
  else
    let s := s.modPart p (fun q => { q with
      preState := 1, preFail := false, preForced := false, preSince := s.cyc })
    (s.busy p).foldl (fun s k => (s.onCtx k State.requestSave).saveCtx p k) s

/-- Puts back the saved contexts of a partition that do not wait for the host (23 R371). -/
def State.restoreAll (s : State) (p : Nat) : State :=
  (((s.getPart p).saved.map Prod.fst).filter (fun k => !((s.getPart p).saveWaits k))).foldl
    (fun s k => s.onCtx k (fun s => s.restoreHere p)) s

/-- The guest's restore command takes effect. -/
def State.guestRestore (s : State) (p : Nat) : State :=
  if (s.getPart p).preState ≠ 2 then s
  else (s.modPart p (fun q => { q with preState := 3 })).restoreAll p

/-- A guest's command: those that come while the hypervisor holds the partition wait, in their order (23 R373). -/
def State.guestCommand (s : State) (p cmd : Nat) : State :=
  if (s.getPart p).hvState ≠ 0 then s.modPart p (fun q => { q with guestCmds := q.guestCmds ++ [cmd] })
  else if cmd = 1 then s.guestSave p
  else s.guestRestore p

/-- PRECTL_SAVE (23 R366, R367). -/
def execPrectlSave (p : BitVec 4) : State → Host.Outcome State Fault Refusal :=
  event (fun s => s.guestCommand p.toNat 1)

/-- PRECTL_RESTORE (23 R371). -/
def execPrectlRestore (p : BitVec 4) : State → Host.Outcome State Fault Refusal :=
  event (fun s => s.guestCommand p.toNat 2)

/-- The hypervisor's save command: every context stops at its next bundle boundary (23 R372, R373). -/
def State.hvSave (s : State) (p : Nat) : State :=
  if (s.getPart p).hvState ≠ 0 then s else s.modPart p (fun q => { q with hvState := 1, hvSince := s.cyc })

/-- The hypervisor's restore command: everything resumes where it stood, and STOLEN grows (23 R372). -/
def State.hvRestore (s : State) (p : Nat) : State :=
  if (s.getPart p).hvState ≠ 2 then s else s.modPart p (fun q => { q with hvState := 3 })

/-- HV_SAVE. -/
def execHvSave (p : BitVec 4) : State → Host.Outcome State Fault Refusal := event (fun s => s.hvSave p.toNat)
/-- HV_RESTORE. -/
def execHvRestore (p : BitVec 4) : State → Host.Outcome State Fault Refusal := event (fun s => s.hvRestore p.toNat)

/-- BOUND in CYC units. -/
def Part.bound (q : Part) : Nat := fld q.pbound.toNat 0 20 * 4000

/-- PREEMPT_BOUND_EXPIRY: from here on contexts are saved at forced points (23 R367). -/
def execPreemptBoundExpiry (p : BitVec 4) : State → Host.Outcome State Fault Refusal :=
  event (fun s =>
    let q := s.getPart p.toNat
    if q.preState = 1 && q.hvState = 0 && q.bound ≤ s.cyc - q.preSince then
      s.modPart p.toNat (fun q => { q with preForced := true })
    else s)

/-- PREEMPT_FAIL: a context has reached no save point within 2 × BOUND (23 R367). -/
def execPreemptFail (p : BitVec 4) : State → Host.Outcome State Fault Refusal :=
  event (fun s =>
    let q := s.getPart p.toNat
    if q.preState = 1 && q.hvState = 0 && 2 * q.bound ≤ s.cyc - q.preSince &&
      (s.busy p.toNat).any (fun k => (afind q.saved k).isNone && !((s.getCtx k).atPoint)) then
      s.modPart p.toNat (fun q => { q with preFail := true })
    else s)

/-- A pre-emption state message, to the physical function and to the partition (25 R391). -/
def State.sendPreempt (s : State) (p st : Nat) (hv : Bool) : State :=
  let q := s.getPart p
  let body := [BitVec.ofNat 64 (p + st * 2 ^ 8 + (if q.preFail then 2 ^ 11 else 0) + (if hv then 2 ^ 12 else 0)),
    BitVec.ofNat 64 s.cyc]
  (s.send 0x18 body).reply p 0x18 body

/-- The core state that a save leaves out reads zero, and cache-way banks are written back and emptied (23 R368). -/
def State.settleCore (s : State) (c chunks : Nat) : State :=
  let ls := (s.getCore c).l1.map Prod.fst
  let s := ls.foldl (fun s l => s.l1Evict c l) s
  let co := s.getCore c
  let keep := fun (b : Nat) => chunks.testBit (b / 0xC000)
  s.setCore c { co with
    sram := co.sram.filter (fun x => keep x.1), fe := co.fe.filter (fun x => keep (4 * x.1)),
    poison := co.poison.filter (fun x => keep (4 * x.1)) }

/-- The chunks that the saved contexts of a core name, together (23 R368). -/
def Part.savedChunks (q : Part) (c : Nat) : Nat :=
  (q.saved.filter (fun x => x.1 / 4 = c)).foldl (fun m x => m ||| x.2) 0

/-- Vector registers, tiles and accumulators of a core that lie in no window of a saved context, or that no saved
context claims, are named by no save: they read zero from here on (23 R368). -/
def State.dropUnnamed (s : State) (p c : Nat) : State :=
  let crs := (((s.getPart p).saved.map Prod.fst).filter (fun k => k / 4 = c)).map (fun k => (s.getCtx k).cr)
  let co := s.getCore c
  let co := { co with
    vregs := co.vregs.filter (fun r => crs.any (fun x =>
      vwinBase x.vwin ≤ r.1 && r.1 < vwinBase x.vwin + vwinSize x.vwin)),
    tiles := co.tiles.filter (fun r => crs.any (fun x =>
      twinBase x.twin ≤ r.1 / 16384 && r.1 / 16384 < twinBase x.twin + twinCount x.twin)) }
  s.setCore c (if co.arr.claim.isSome then co else { co with arr := { co.arr with acc := [], accState := [] } })

/-- A guest's save is done: every busy context of the partition is held and written, and no emergency area is in use. -/
def State.allSaved (s : State) (p : Nat) : Bool :=
  (s.busy p).all (fun k => (afind (s.getPart p).saved k).isSome) && (s.getPart p).saveWrites.isEmpty &&
    (s.partCores p).all (fun c => (s.getCore c).emergency.isNone)

/-- The core state after a guest's save: what no save named reads zero, but that the banks of a core of which no context was
saved keep what they hold for the partition's next tasks (12 R244; 00 R13; DESIGN CHOICE, assumption log 32); cache-way banks are
emptied in any case. -/
def State.settleSaved (s : State) (p c : Nat) : State :=
  let chunks := if (s.getPart p).saved.any (fun x => x.1 / 4 = c) then (s.getPart p).savedChunks c else allChunks
  (s.settleCore c chunks).dropUnnamed p c

/-- A guest save that a hypervisor's save finds in progress: its pending writes become replay entries of their contexts, and
writes again after the hypervisor's restore (23 R362, R372). -/
def State.freezeWrites (s : State) (p : Nat) : State :=
  let ws := (s.getPart p).saveWrites
  (ws.foldl (fun s w => s.onCtx w.1 (fun s => s.modPend (fun q => { q with replay := q.replay ++ [.save w.2.1 w.2.2] }))) s).modPart
    p (fun q => { q with saveWrites := [] })
def State.thawWrites (s : State) (p : Nat) : State :=
  (s.busy p).foldl (fun s k => s.onCtx k (fun s =>
    let ws := s.ctx.pend.replay.filterMap (fun r => match r with
      | .save off bs => some (k, off, bs)
      | _ => none)
    let s := s.modPend (fun q => { q with replay := q.replay.filter (fun r => match r with
      | .save _ _ => false
      | _ => true) })
    s.modPart p (fun q => { q with saveWrites := q.saveWrites ++ ws }))) s

/-- Every context of the partition is stopped and written, and the work that the save waits for is done (23 R369, R372). -/
def State.hvClear (s : State) (p : Nat) : Bool :=
  (s.busy p).all (fun k => (s.getPart p).hvSaved.contains k && s.saveClear k)

/-- The hypervisor's save is complete: cores and slices are written back (23 R369, R372). -/
def State.hvHold (s : State) (p : Nat) : State :=
  let s := (s.partCores p).foldl (fun s c => s.settleCore c allChunks) (s.freezeWrites p)
  ((s.flushSlices p).modPart p (fun q => { q with hvState := 2 })).sendPreempt p 2 true

/-- The hypervisor's restore is complete: everything resumes where it stood, STOLEN has grown, and the guest's commands that
waited take effect (23 R372, R373). -/
def State.hvResume (s : State) (p : Nat) : State :=
  let q := s.getPart p
  let gone := s.cyc - q.hvSince
  let s := (s.busy p).foldl (fun s k => s.onCtx k (fun s => { s with ctx := { s.ctx with status := s.goOnWaiting } })) s
  let s := (s.thawWrites p).modPart p (fun q => { q with
    hvState := 0, stolen := q.stolen + BitVec.ofNat 64 gone, preSince := q.preSince + gone, guestCmds := [], hvSaved := [] })
  let s := s.sendPreempt p 0 true
  let s := if (s.getPart p).preState = 3 then s.restoreAll p else s
  q.guestCmds.foldl (fun s c => s.guestCommand p c) s

/-- PREEMPT_STATE_REACHED: the partition reaches SAVED or RUNNING, for the hypervisor first (23 R366, R369, R371,
R372). -/
def execPreemptStateReached (p : BitVec 4) : State → Host.Outcome State Fault Refusal :=
  event (fun s =>
    let p := p.toNat
    let q := s.getPart p
    if q.hvState = 1 then
      if s.hvClear p then s.hvHold p else s
    else if q.hvState = 3 then s.hvResume p
    else if q.hvState ≠ 0 then s
    else if q.preState = 1 && s.allSaved p then
      ((s.partCores p).foldl (fun s c => s.settleSaved p c) s).modPart p (fun q =>
        { q with preState := 2, preForced := false }) |>.sendPreempt p 2 false
    else if q.preState = 3 && q.saved.isEmpty then
      (s.modPart p (fun q => { q with preState := 0 })).sendPreempt p 0 false
    else s)

end Sys2Proof.Machine
end

