-- ==== Sys2Proof/Machine/Tenants.lean ====
section
/-! DEFINITION. What the host does to partitions: shootdowns and zeroing (24 R381, R383), supervisor registers (03
R60; 22 R349; 23 R366, R370; 24 R385; 25 R398; 27 R405, R407; 28 R409, R414), forming, dissolving and resetting
partitions (24 R384; 27 R405, R406), and the memory that the fabric and the host touch (12 R254, R257; 14 R287,
R291). -/

namespace Sys2Proof.Machine

/-! Shootdown and zeroing. -/

/-- log2 of a page size by its code: 64 KiB, 2 MiB, 1 GiB (assumption log 25). -/
def pageBits (size : BitVec 2) : Nat := if size = 0 then 16 else if size = 1 then 21 else 30

/-- A message of a virtual function: before a start is complete it is rejected with status 0x42, by an answer of its kind (28
R408, R409; assumption log 25). -/
def served (p : BitVec 4) (kind : Nat) (f : State → State) : State → Host.Outcome State Fault Refusal :=
  event (fun s => if s.recovery then s.reply p.toNat kind [0x42] else f s)

/-- SHOOT: every translation of the partition that overlaps the range is dropped, and PTROOT takes effect with ALL
(24 R381, R385). -/
def execShoot (p : BitVec 4) (base : BitVec 64) (size : BitVec 2) (count : Nat) (all : Bool) :
    State → Host.Outcome State Fault Refusal :=
  served p 0x06 (fun s =>
    let lo := base.toNat
    let hi := lo + count * 2 ^ pageBits size
    let s := s.dropTlbs p.toNat (fun vpn sh => all || (vpn * 2 ^ sh < hi && lo < (vpn + 1) * 2 ^ sh))
    s.modPart p.toNat (fun q => { q with shoots := q.shoots + 1, ptroot := if all then q.ptrootNext else q.ptroot }))

/-- An access of a partition that used a translation is still to be performed. -/
def State.translatedPending (s : State) (p : Nat) : Bool :=
  s.pendingOn p (fun l => match l with
    | .phys _ _ _ => true
    | .sram _ _ => false)

/-- What the partition has stored is performed everywhere: the dirty words of its L1s are written back, and its module writes
applied. -/
def State.performStores (s : State) (p : Nat) : State :=
  ((s.partCores p).foldl (fun s c => s.l1Release c) s).drainBytes (s.owns p)

/-- SHOOTDONE: sent once every access that used a dropped entry is performed: what an L1 or the die network still holds is
performed first (24 R381). -/
def execShootdone (p : BitVec 4) : State → Host.Outcome State Fault Refusal :=
  event (fun s =>
    let q := s.getPart p.toNat
    if q.shoots = 0 || s.translatedPending p.toNat then s
    else ((s.performStores p.toNat).modPart p.toNat (fun q => { q with shoots := q.shoots - 1 })).reply p.toNat 0x07 [BitVec.ofNat 64 p.toNat])

/-- The lines of a range leave the partition's slices. -/
def State.dropRange (s : State) (p a n : Nat) : State :=
  [0, 1, 2, 3].foldl (fun s d =>
    ((s.getDie d).tags.filter (fun t => t.2.part = p && a ≤ t.1 * 128 && t.1 * 128 < a + n)).foldl
      (fun s t => s.evictLine d t.1) s) s

/-- Every byte of memory that a predicate names reads zero, at every die, without poison. -/
def State.zeroMemory (s : State) (hit : Nat → Bool) : State :=
  let s := s.drainBytes hit
  let s := [0, 1, 2, 3].foldl (fun s d =>
    s.setDie d { s.getDie d with own := (s.getDie d).own.filter (fun b => !(hit b.1)) }) s
  { s with
    mem := s.mem.filter (fun b => !(hit b.1)), poison := s.poison.filter (fun l => !(hit (32 * l.1))) }

/-- Every watch on a line of memory that a predicate names sees a write from afar (07 R126). -/
def State.notifyRange (s : State) (hit : Nat → Bool) : State :=
  s.mapWatches (fun _ => true) (fun _ w => match w.line with
    | .phys a _ _ => if hit a then w.observe w.line 3 else w
    | .sram _ _ => w)

/-- ZMAP: the range is being zeroed, and its leaves give PAGE until ZDONE (24 R383). -/
def execZmap (p : BitVec 4) (frame : BitVec 48) (size : BitVec 2) : State → Host.Outcome State Fault Refusal :=
  served p 0x08 (fun s =>
    let n := 2 ^ pageBits size
    let a := frame.toNat
    if !(s.owns p.toNat a && s.owns p.toNat (a + n - 1)) || a % n ≠ 0 then
      s.reply p.toNat 0x09 [BitVec.ofNat 64 p.toNat, BitVec.ofNat 64 a, 1]
    else (s.dropRange p.toNat a n).modPart p.toNat (fun q => { q with zeroing := q.zeroing ++ [(a, n)] }))

/-- ZDONE: every zero of the oldest ZMAP is performed (24 R383). -/
def execZdone (p : BitVec 4) : State → Host.Outcome State Fault Refusal :=
  event (fun s => match (s.getPart p.toNat).zeroing with
    | [] => s
    | (a, n) :: t =>
      let hit := fun (x : Nat) => a ≤ x && x < a + n
      let s := ((s.zeroMemory hit).dropRange p.toNat a n).notifyRange hit
      (s.modPart p.toNat (fun q => { q with zeroing := t })).reply p.toNat 0x09
        [BitVec.ofNat 64 p.toNat, BitVec.ofNat 64 a, 0])

/-! Forming and ending partitions. -/

/-- M3 takes the digest of a partition number and a value. -/
def State.measureEvent (s : State) (bs : List Byte) : State :=
  { s with measure := s.measure.set 3 (extended (s.measure.getD 3 0) (sha256 bs)) }

/-- The lowest berth of a mask. -/
def lowestBerth (m : Nat) : Nat := ((List.range 16).find? m.testBit).getD 0

/-- Some formed partition holds a berth of a mask, or a berth is marked off (27 R407). -/
def State.berthsTaken (s : State) (m : Nat) : Bool :=
  s.parts.any (fun p => p.2.formed && p.2.berths &&& m ≠ 0) || m &&& (s.health.toNat / 2 ^ 48) ≠ 0

/-- A virtual function is mapped to a partition (01 R16). -/
def State.functionTaken (s : State) (vf : Nat) : Bool := s.parts.any (fun p => p.2.formed && p.2.vf = vf)

/-- FORM (24 R384; 12 R253; 28 R411): its banks are reset, its queues empty, its dedup key fresh; the answer says
0, or 1 when it is refused. -/
def execForm (berths : BitVec 16) (vf : BitVec 8) : State → Host.Outcome State Fault Refusal :=
  event (fun s =>
    let m := berths.toNat
    let p := lowestBerth m
    if m = 0 || s.berthsTaken m || s.functionTaken vf.toNat || s.recovery then s.send 0x12 [BitVec.ofNat 64 m, 1]
    else
      let part : Part := { Part.reset with formed := true, berths := m, vf := vf.toNat, key := Config.randomKey s.tick }
      let s := { s.setPart p part with tick := s.tick + 1 }
      let s := (s.resetPart p).measureEvent (BitVec.ofNat 8 p :: toBytes m 2)
      s.send 0x12 [BitVec.ofNat 64 m, 0, BitVec.ofNat 64 p])

/-- The cores and contexts of a partition keep nothing of it. -/
def State.wipeCores (s : State) (p : Nat) : State :=
  (s.partCores p).foldl (fun s c =>
    let s := s.setCore c { Core.reset with stamp := (s.getCore c).stamp }
    [0, 1, 2, 3].foldl (fun s x => s.setCtx (4 * c + x) Ctx.reset) s) s

/-- DISSOLVE (24 R384): its work is discarded, its slices, key and translations go, and its memory is zeroed. -/
def execDissolve (p : BitVec 4) : State → Host.Outcome State Fault Refusal :=
  event (fun s =>
    let q := s.getPart p.toNat
    if !q.formed then s.send 0x12 [BitVec.ofNat 64 p.toNat, 1]
    else
      let s := s.resetPart p.toNat
      let s := s.dropTlbs p.toNat (fun _ _ => true)
      let hit := fun (a : Nat) => s.owns p.toNat a
      let s := (s.zeroMemory hit).wipeCores p.toNat
      (s.setPart p.toNat Part.reset).send 0x12 [BitVec.ofNat 64 p.toNat, 0])

/-- RESET (25 R391; 27 R405): TASKID 0 resets the partition; a root's number tears down its tree in compatibility
mode. In recovery a virtual function's is rejected (28 R408). -/
def execReset (p : BitVec 4) (pf : Bool) (task : BitVec 32) : State → Host.Outcome State Fault Refusal :=
  event (fun s =>
    let q := s.getPart p.toNat
    let answer := fun (s : State) (status : Nat) => s.post 0 (if pf then 32 else 2 * p.toNat + 1) 0x1A
      [BitVec.ofNat 64 (p.toNat + task.toNat * 2 ^ 32), BitVec.ofNat 64 status]
    if s.recovery && !pf then s.reply p.toNat 0x1A [0x42]
    else if !q.formed then answer s 1
    else if task = 0 then answer (s.resetPart p.toNat) 0
    else match q.task? task.toNat with
      | some t => if q.compat && t.parent.isNone then answer (s.tearDown p.toNat task.toNat) 0 else answer s 1
      | none => answer s 1)

/-- A write of CONTAIN (27 R405; 28 R411): ignored while the partition holds a task. -/
def State.writeContain (s : State) (p : Nat) (compat : Bool) : State :=
  let q := s.getPart p
  if !q.formed || !(q.tasks.isEmpty) then s
  else (s.setPart p { q with compat := compat }).measureEvent (BitVec.ofNat 8 p :: toBytes (if compat then 1 else 0) 8)

/-- CONTAIN_WRITE. -/
def execContainWrite (p : BitVec 4) (compat : Bool) : State → Host.Outcome State Fault Refusal :=
  event (fun s => s.writeContain p.toNat compat)

/-! Supervisor registers. -/

/-- Bits [56:21] of a base register, [47:21] of EMBASE, [47:12] of PTROOT. -/
def maskBits (v : Word) (lo n : Nat) : Word := BitVec.ofNat 64 (fld v.toNat lo n * 2 ^ lo)

/-- A write of PWRCTL (28 R414). -/
def State.writePower (s : State) (v : Word) : State :=
  let cap := fld v.toNat 20 4
  let limit := fld v.toNat 0 12
  { s with cap := min cap 12, limit := max 800 (min limit 2000) }

/-- A write of PRECTL (23 R366): HV through a virtual function is ignored, and the physical function commands for the
hypervisor alone (24 R384; assumption log 49). -/
def State.writePrectl (s : State) (p : Nat) (pf : Bool) (v : Word) : State :=
  let cmd := fld v.toNat 0 2
  if cmd ≠ 1 && cmd ≠ 2 then s
  else if pf then (if !(v.getLsbD 3) then s else if cmd = 1 then s.hvSave p else s.hvRestore p)
  else s.guestCommand p cmd

/-- A route entry of a partition from the value that the physical function writes: the port (0 empties the entry), the
partition there, whether a barrier is named, its place and the base of the log there; the arrival counter starts at 0 (25
R387, R397; assumption log 49). -/
def routeEntry (v : Nat) : List Nat :=
  if fld v 0 4 = 0 then []
  else [fld v 0 4, fld v 4 4, if v.testBit 8 then fld v 9 22 + 1 else 0, fld v 31 22, 0]

/-- The supervisor registers of a partition that its bound virtual function alone reaches (24 R384): the physical function
reaches PRECTL and HVBASE for the hypervisor (23 R366), CONTAIN (27 R405) and the route table (25 R387); that it reaches
PRECTL and HVBASE, and that one it does not reach reads 0 and keeps its value, is assumption log 49. -/
def boundOnly (reg : Nat) : Bool := reg < 0x1C0 && reg ≠ 0x1A0 && reg ≠ 0x1A3

/-- Writes a supervisor register; a register that only the hardware writes keeps its value, and so does one that the
function does not reach. The route table stands behind the registers, entry n at 0x200 + n (assumption log 49). -/
def State.writeReg (s : State) (p : Nat) (pf : Bool) (reg : Nat) (v : Word) : State :=
  let q := s.getPart p
  if pf && boundOnly reg then s
  else if 0x180 ≤ reg && reg ≤ 0x18F then s.setPart p { q with tqcfg := aset 1 q.tqcfg (reg - 0x180) (fld v.toNat 0 2) }
  else if 0x200 ≤ reg && reg ≤ 0x2FF then
    (if pf then s.setPart p { q with routes := aset [] q.routes (reg - 0x200) (routeEntry v.toNat) } else s)
  else match reg with
  | 0x190 => s.setPart p { q with slack := maskBits v 0 32 }
  | 0x1A0 => s.writePrectl p pf v
  | 0x1A1 => s.setPart p { q with pbound := maskBits v 0 20 }
  | 0x1A2 => s.setPart p { q with savebase := maskBits v 21 36 }
  | 0x1A3 => s.setPart p { q with hvbase := maskBits v 21 36 }
  | 0x1A5 => s.setPart p { q with embase := maskBits v 21 27 }
  | 0x1B0 => s.setPart p { q with ptrootNext := maskBits v 12 36 }
  | 0x1B1 => s.setPart p { q with vbase := maskBits v 21 36 }
  | 0x1B2 => s.setPart p { q with vbsize := maskBits v 0 16 }
  | 0x1D0 => if pf then s.writeContain p (v.getLsbD 0) else s
  | 0x1D4 => if pf then s.writePower v else s
  | _ => s

/-- REGISTER_WRITE; in recovery only the physical function is served (28 R408, R409). -/
def execRegisterWrite (p : BitVec 4) (pf : Bool) (reg : BitVec 12) (val : BitVec 64) :
    State → Host.Outcome State Fault Refusal :=
  event (fun s =>
    if s.recovery && !pf then s.reply p.toNat 0x10 [0x42]
    else if (s.getPart p.toNat).formed || (0x1C0 ≤ reg.toNat && reg.toNat < 0x200) then s.writeReg p.toNat pf reg.toNat val
    else s)

/-- The status half of a stream (25 R398). -/
def LinkStream.status (l : LinkStream) (st : Nat) : Nat :=
  (if l.keyexh then 2 ^ 11 else 0) + (if l.keylate then 2 ^ 10 else 0) + aget 0 l.slots 1 % 4 * 2 ^ 8 +
    aget 0 l.slots 0 % 4 * 2 ^ 6 + l.cur % 2 * 2 ^ 5 + st % 4 * 2 ^ 3

/-- LNKSTAT of a port. -/
def Port.status (q : Port) : Nat := min q.retrain 255 * 2 ^ 32 + q.rx.status q.st * 2 ^ 16 + q.tx.status q.st

/-- PRECTL as it reads: the hypervisor's state through the physical function while it holds the partition. -/
def Part.prectl (q : Part) (pf : Bool) : Nat :=
  let hv := pf && decide (q.hvState ≠ 0)
  (if q.preFail then 2 ^ 7 else 0) + (if hv then q.hvState else q.preState) * 2 ^ 4 + (if hv then 2 ^ 3 else 0)

/-- Reads a supervisor register; module registers read 0 through a virtual function, those of the bound virtual function
read 0 through the physical function, and one that does not exist reads an open value. -/
def State.readReg (s : State) (p : Nat) (pf : Bool) (reg : Nat) : Word × State :=
  let q := s.getPart p
  let now := fun (v : Word) => (v, s)
  let phys := fun (v : Nat) => (if pf then BitVec.ofNat 64 v else 0, s)
  if pf && boundOnly reg then (0, s)
  else if 0x180 ≤ reg && reg ≤ 0x18F then now (BitVec.ofNat 64 (aget 1 q.tqcfg (reg - 0x180)))
  else if 0x1C0 ≤ reg && reg ≤ 0x1CC then phys (s.getPort (reg - 0x1C0)).status
  else match reg with
  | 0x190 => now q.slack
  | 0x191 => now (BitVec.ofNat 64 q.misscnt.toNat)
  | 0x1A0 => now (BitVec.ofNat 64 (q.prectl pf))
  | 0x1A1 => now q.pbound
  | 0x1A2 => now q.savebase
  | 0x1A3 => now q.hvbase
  | 0x1A4 => now q.stolen
  | 0x1A5 => now q.embase
  | 0x1B0 => now q.ptrootNext
  | 0x1B1 => now q.vbase
  | 0x1B2 => now q.vbsize
  | 0x1B3 => now (BitVec.ofNat 64 q.berths)
  | 0x1D0 => now (if q.compat then 1 else 0)
  | 0x1D1 => phys s.health.toNat
  | 0x1D2 => phys s.cecnt.toNat
  | 0x1D3 => phys s.uecnt.toNat
  | 0x1D4 => phys (s.rating * 2 ^ 24 + s.cap * 2 ^ 20 + s.limit)
  | 0x1D5 => phys s.startstat.toNat
  | _ => s.fresh

/-- REGISTER_READ: the reply carries the register and its value (25 R390); in recovery a virtual function's is rejected (28
R408). -/
def execRegisterRead (p : BitVec 4) (pf : Bool) (reg : BitVec 12) : State → Host.Outcome State Fault Refusal :=
  event (fun s =>
    let r := s.readReg p.toNat pf reg.toNat
    if s.recovery && !pf then s.reply p.toNat 0x11 [0x42]
    else r.2.post 0 (if pf then 32 else 2 * p.toNat + 1) 0x11 [BitVec.ofNat 64 (p.toNat + reg.toNat * 2 ^ 8), r.1])

/-! The fabric. -/

/-- DEDUP_PROBE: an idle dirty line that owns its entry is probed (12 R254): 1,024 fclk are 2,048 CYC units. -/
def execDedupProbe (d : BitVec 2) (line : BitVec 41) : State → Host.Outcome State Fault Refusal :=
  event (fun s =>
    let die := s.getDie d.toNat
    match afind die.tags line.toNat with
    | none => s
    | some t =>
      let fresh := ((afind die.entries t.entry).map L2Entry.hv).getD false
      if t.dirty && t.kind = .own && !t.hot && t.dd && !fresh && 2048 ≤ s.cyc - t.idle then s.probe d.toNat line.toNat
      else s)

/-- HOT_CLEAR: a HOT line idle for 4,096 fclk is HOT no more, and a dirty one is probed (12 R257). -/
def execHotClear (d : BitVec 2) (line : BitVec 41) : State → Host.Outcome State Fault Refusal :=
  event (fun s =>
    let die := s.getDie d.toNat
    match afind die.tags line.toNat with
    | none => s
    | some t =>
      if t.hot && 8192 ≤ s.cyc - t.idle then
        let s := s.setDie d.toNat { die with tags := aput die.tags line.toNat { t with hot := false } }
        if t.dirty then s.probe d.toNat line.toNat else s
      else s)

/-- MODULE_WRITE_APPLY: a die applies one of the writes it may apply; which one is open (14 R287, R288). -/
def execModuleWriteApply (d : BitVec 2) : State → Host.Outcome State Fault Refusal :=
  event (fun s => match s.oneOf ((s.getDie d.toNat).inbox.filter (s.applicable d.toNat)) with
    | some (w, t) => t.applyWrite d.toNat w
    | none => s)

/-- A host's bytes at an address that is memory, in pieces that stay within a line: performed at the home die
(14 R291). -/
def State.hostWrite (s : State) (pa : Nat) (bs : List Byte) : State :=
  (linePieces pa bs bs.length).foldl (fun s ps =>
    let a := (ps.head?.map Prod.fst).getD pa
    let d := homeDie a
    let l := Loc.phys a false .none
    let s := (s.l2Touch d (a / 128) false).dieWrite d ps
    let s := { s with hostClock := clockJoin s.hostClock (s.getDie d).clock }
    (s.cleanPoison l ps.length).notify l none none) s

/-- HOST_MEMORY_ACCESS (14 R291; 27 R402): a read of poisoned data, or of no memory, is answered with error status, and any
access in recovery is rejected (28 R408).
The answer is no message of 25 R390: it stands here under kind 0x100 (assumption log 25). -/
def execHostMemoryAccess (write : Bool) (addr : BitVec 48) (size : Nat) (data : List (BitVec 8)) :
    State → Host.Outcome State Fault Refusal :=
  event (fun s =>
    let a := addr.toNat
    let n := if write then data.length else size
    let there := n ≠ 0 && (s.berthOf a).isSome && (s.berthOf (a + n - 1)).isSome
    if s.recovery then s.send 0x100 [addr.zeroExtend 64, 0x42]
    else if !there then s.send 0x100 [addr.zeroExtend 64, 1]
    else if write then (s.hostWrite a data).send 0x100 [addr.zeroExtend 64, 0]
    else if s.poisoned (.phys a false .none) n then s.send 0x100 [addr.zeroExtend 64, 1]
    else
      let bs := (List.range n).map (fun i => s.dieByte (homeDie (a + i)) (a + i))
      s.send 0x100 ([addr.zeroExtend 64, 0] ++ bs.map (fun b => b.zeroExtend 64)))

end Sys2Proof.Machine
end

