-- ==== Sys2Proof/Machine/Link.lean ====
section
/-! DEFINITION. Gnouno Link: sealing, acceptance and retry of flits (25 R388 to R394), training in full (R395),
compression (R396), the messages that arrive (R390, R391), and what a PUT or a GET does at its peer (R397; 14 R290;
10 R221). -/

namespace Sys2Proof.Machine

/-! A PUT or a GET at the peer. -/

/-- A partition as a peer reaches it, by the die of its lowest berth: with no view, no L1 and no TLB of a core. -/
def State.asPeerState (s : State) (p : Nat) : State :=
  let t := s.focus (4 * lowestBerth (s.getPart p).berths) 0
  { t with ctx := { t.ctx with views := [] }, core := { t.core with tlb := [], l1 := [] } }
/-- Acts for a peer on a partition. -/
def State.asPeer {α : Type} (s : State) (p : Nat) (f : State → State × α) : State × α :=
  let t := s.focus (4 * lowestBerth (s.getPart p).berths) 0
  let r := f (s.asPeerState p)
  let u := { r.1 with ctx := { r.1.ctx with views := t.ctx.views }, core := { r.1.core with tlb := t.core.tlb, l1 := t.core.l1 } }
  (u.focus s.coreId s.ctxId, r.2)

/-- One element of an incoming PUT; a local window is no place for it (assumption log 33). -/
def State.peerElem (s : State) (ty op : Nat) (dst : Word) (bs : List Byte) (bad : Bool) : Except EStop State :=
  if lwin ≤ dst.toNat then .error (.fault cPROT)
  else if op = 0 then s.ewrite dst bs bad
  else do
    let y ← s.eread dst bs.length
    y.2.2.ewrite dst (toBytes (elemCombine ty op (ofBytes y.1) (ofBytes bs)) bs.length) (bad || y.2.1)

/-- The elements of an incoming PUT in order; those before a fault stand (10 R209). -/
def State.peerElems (s : State) (ty op : Nat) (dst : Word) (bad : Bool) : List (List Byte) → State × Option EStop
  | [] => (s, none)
  | bs :: t => match s.peerElem ty op dst bs bad with
    | .ok u => u.peerElems ty op (dst + BitVec.ofNat 64 bs.length) bad t
    | .error e => (s, some e)

/-- The elements of an incoming PUT: those that are only moved go by line, so that a whole line is written as one (12 R255). -/
def putElems (m : PutMsg) : List (List Byte) :=
  if m.op = 0 then (linePieces m.addr.toNat m.data m.data.length).map (fun l => l.map Prod.snd)
  else
    let n := max 1 (typeWidth m.elem.toNat / 8)
    chunks n (m.data.length / n) m.data

/-- Bytes that a GET asks for, in pieces that stay within a codeword, each with whether it is poisoned. -/
def State.peerBytes (s : State) (va : Word) (n : Nat) : Nat → Except EStop (List (List Byte × Bool) × State)
  | 0 => .ok ([], s)
  | k + 1 =>
    if n = 0 then .ok ([], s)
    else if lwin ≤ va.toNat then .error (.fault cPROT)
    else do
      let m := min n (32 - va.toNat % 32)
      let x ← s.eread va m
      let y ← x.2.2.peerBytes (va + BitVec.ofNat 64 m) (n - m) k
      .ok ((x.1, x.2.1) :: y.1, y.2)

/-- Pieces joined as far as a message can carry them and their poison agrees (25 R390; 27 R402). -/
def joinPieces : List (List Byte × Bool) → List (List Byte × Bool)
  | [] => []
  | x :: t => match joinPieces t with
    | y :: r => if x.2 = y.2 && x.1.length + y.1.length ≤ pieceBytes then (x.1 ++ y.1, x.2) :: r else x :: y :: r
    | [] => [x]

/-- The status of an answer: 1 PAGE, 2 PROT. -/
def EStop.status : EStop → Nat
  | .host c _ => if c = cPAGE then 1 else 2
  | _ => 2

/-- A PUT or GET that faults at the peer: the peer's host is told, and the answer says which fault (10 R221). -/
def State.refusePeer (s : State) (p port : Nat) (tag va : Word) (e : EStop) : State :=
  let cause := if e.status = 1 then cPAGE else cPROT
  let va := match e with
    | .host _ a => a
    | _ => va
  (s.postFault p (4 * lowestBerth (s.getPart p).berths) 0 0 cause va 3 none).post port (2 * p + 1) 0x0D
    [tag, BitVec.ofNat 64 e.status]

/-- The arrival record (25 R397). -/
def arrivalRecord (m : PutMsg) (cyc : Nat) : List Byte :=
  ((List.range 6).map (fun d => toBytes ((m.origins.getD d 0).toNat % 2 ^ 26) 4)).flatten ++
    [m.port.zeroExtend 8, m.spart, m.elem, m.op] ++ bytesOf m.anum ++ toBytes m.total 8 ++
    bytesOf (m.addr - BitVec.ofNat 64 (m.total - m.data.length)) ++
    toBytes cyc 8 ++ toBytes 0 8

/-- Writes the arrival record: in a scratchpad bank of the crew of the partition's lowest berth, or it is dropped
and counted (25 R397; assumption log 33). -/
def State.recordArrival (s : State) (p : Nat) (m : PutMsg) : State :=
  let off := m.logBase.toNat + 64 * (m.anum.toNat % 64)
  let b := crewPlace (lowestBerth (s.getPart p).berths) off
  if off < 0x400000 && off / 0x8000 = (off + 63) / 0x8000 && s.scratchAt b then
    s.bankWrite b.1 b.2 (arrivalRecord m s.cyc) none
  else s.setPort m.port.toNat { s.getPort m.port.toNat with errors := (s.getPort m.port.toNat).errors + 1 }

/-- A PUT whose bytes have been performed: its record and its count (25 R397; 11 R229). Of several messages of a PUT, the
last one names the barrier. -/
def State.arrived (s : State) (p : Nat) (m : PutMsg) : State :=
  match m.barrier with
  | none => s
  | some o =>
    let s := s.recordArrival p m
    let b := crewPlace (lowestBerth (s.getPart p).berths) o.toNat
    if s.scratchAt b then s.deliver b m.total
    else s.modPart p (fun q => { q with engineFaults := q.engineFaults + 1 })

/-- A PUT's data is performed, at every die before that of the next (14 R290), as far as its first fault. -/
def State.peerWrite (s : State) (p : Nat) (m : PutMsg) : State × Option EStop :=
  let r := s.asPeer p (fun s => s.peerElems m.elem.toNat m.op.toNat m.addr m.poisoned (putElems m))
  (r.1.spread (r.1.getDie (lowestBerth (s.getPart p).berths / 4)).clock [0, 1, 2, 3], r.2)

/-- What a GET asks for, in the pieces that its answer's messages carry. -/
def State.peerRead (s : State) (p : Nat) (addr : Word) (size : Nat) : State × Except EStop (List (List Byte × Bool)) :=
  s.asPeer p (fun s => match s.peerBytes addr size (size + 1) with
    | .ok (xs, t) => (t, .ok (joinPieces xs))
    | .error e => (s, .error e))

/-- A message of a GET's answer: how many bytes it carries, whether they are poisoned, and the bytes (assumption log 25). -/
def getDataBody (tag : Word) (x : List Byte × Bool) : List Word :=
  [tag, BitVec.ofNat 64 x.1.length, if x.2 then 1 else 0] ++ wordsOf x.1

/-- PUT_MESSAGE (25 R397; 14 R290): its writes are applied at every die before those of the next; in recovery it is rejected
(28 R408). -/
def execPutMessage (p : BitVec 4) (m : PutMsg) : State → Host.Outcome State Fault Refusal :=
  event (fun s =>
    let p := p.toNat
    let answer := fun (s : State) (status : Nat) => s.post m.port.toNat (2 * p + 1) 0x0D [m.tag, BitVec.ofNat 64 status]
    if s.recovery then answer s 0x42
    else if !(s.getPart p).formed then answer s 2
    else
      let r := s.peerWrite p m
      match r.2 with
      | some e => r.1.refusePeer p m.port.toNat m.tag m.addr e
      | none => answer (r.1.arrived p m) 0)

/-- GET_REQUEST (10 R221; 14 R290): the answer goes in as many messages as its data takes; in recovery it is rejected (28
R408). -/
def execGetRequest (p : BitVec 4) (port : BitVec 4) (tag addr : BitVec 64) (size : Nat) :
    State → Host.Outcome State Fault Refusal :=
  event (fun s =>
    let p := p.toNat
    if s.recovery then s.post port.toNat (2 * p + 1) 0x0D [tag, 0x42]
    else if !(s.getPart p).formed then s.post port.toNat (2 * p + 1) 0x0D [tag, 2]
    else
      let r := s.peerRead p addr size
      match r.2 with
      | .ok xs => xs.foldl (fun s x => s.post port.toNat (2 * p + 1) 0x0C (getDataBody tag x)) r.1
      | .error e => r.1.refusePeer p port.toNat tag addr e)

/-! Ports that go down. -/

/-- The queues whose head waits on the far end of a port, the one that its message went to: core, queue, partition and
task. -/
def State.waitingOn (s : State) (port : Nat) : List (Nat × Nat × Nat × Nat) :=
  (s.coreKeys.map (fun c => (s.getCore c).eq.filterMap (fun q => match q.2.head? with
    | some d => if d.wait.peerPort? = some port then some (c, q.1, s.partOf (crewOf c), d.task) else none
    | none => none))).flatten

/-- PUT and GET commands that wait on a port are delivered with PROT, and what they have still to send is dropped (25 R394,
R395). -/
def State.lostCommands (s : State) (port : Nat) : State :=
  let s := { s with out := s.out.filter (fun m => !(m.port = port && (m.kind = 0x0A || m.kind = 0x0B))) }
  (s.waitingOn port).foldl (fun s w =>
    s.atHead w.1 w.2.1 (fun s d => (s.setQueue w.2.1 (s.core.queue w.2.1).tail).faultCmd d cPROT)) s

/-- REPLACE is set, and one notice sent (27 R407). -/
def State.requestReplacement (s : State) : State :=
  if s.health.getLsbD 0 then s
  else
    let h := s.health ||| 1
    { s with health := h }.send 0x19 [h, BitVec.ofNat 64 s.cyc]

/-- Every formed partition is reset. -/
def State.resetAll (s : State) : State :=
  ((s.parts.filter (fun q => q.2.formed)).map Prod.fst).foldl (fun s p => s.resetPart p) s

/-- The unrecoverable fault of a port that carries every partition's traffic, contained for each by its mode: reset, or the
teardown of every root (27 R405). -/
def State.containAll (s : State) : State :=
  ((s.parts.filter (fun q => q.2.formed)).map Prod.fst).foldl (fun s p =>
    if (s.getPart p).compat then
      ((((s.getPart p).tasks.map Prod.snd).filter (fun t => t.parent.isNone)).map Task.id).foldl (fun s r => s.tearDown p r) s
    else s.resetPart p) s

/-- A port is down (25 R394): the commands that wait on it, the partitions whose traffic it carries (27 R405), and a
replacement when it has been down twice (27 R407). -/
def State.portDown (s : State) (port : Nat) : State :=
  let q := s.getPort port
  let ws := s.waitingOn port
  let s := (s.setPort port { q with st := 0, downs := q.downs + 1, failedTrainings := 0 }).lostCommands port
  let s := if port = 0 then s.containAll else ws.foldl (fun s w => s.contain w.2.2.1 w.2.2.2) s
  if 2 ≤ q.downs + 1 then s.requestReplacement else s

/-! Sealing (25 R392, R393). -/

/-- The 16 bytes of a header (25 R388). -/
def flitHeader (f : Flit) : List Byte :=
  bytesOf f.seq ++ bytesOf f.ack ++ [f.type, f.ks, f.vc, f.cmp] ++ bytesOf f.len ++ bytesOf f.crd

/-- The IV: the salt, then the counter, most significant byte first (25 R392). -/
def LinkStream.iv (l : LinkStream) (slot ctr : Nat) : BitVec 96 :=
  Config.linkSalt (aget 0 l.keys slot) ++ BitVec.ofNat 64 ctr

/-- A payload under the key stream of a slot's counter. -/
def LinkStream.crypt (l : LinkStream) (slot ctr : Nat) (bs : List Byte) : List Byte :=
  gcmCrypt (Config.linkKey (aget 0 l.keys slot)) (l.iv slot ctr) bs

/-- The tag of a flit. -/
def LinkStream.tagOf (l : LinkStream) (slot ctr : Nat) (header bs : List Byte) : BitVec 128 :=
  gcmTag (Config.linkKey (aget 0 l.keys slot)) (l.iv slot ctr) header bs

/-- The state of a key slot: 0 EMPTY, 1 LIVE, 2 RETIRED. -/
def LinkStream.slotAt (l : LinkStream) (k : Nat) : Nat := aget 0 l.slots k
/-- The counter of the slot in use. -/
def LinkStream.counter (l : LinkStream) : Nat := aget 0 l.counters l.cur
/-- The counter of the slot in use has reached the switch point. -/
def LinkStream.due (l : LinkStream) : Bool := l.switchPoint ≤ l.counter
/-- The last counter value that a key may use, for a MARKER only (25 R393). -/
def lastCounter : Nat := 2 ^ 40 - 1

/-- A flit of a type with a payload. -/
def plainFlit (type vc len : Nat) (payload : List Byte) : Flit :=
  { seq := 0, ack := 0, type := BitVec.ofNat 8 type, ks := 0, vc := BitVec.ofNat 8 vc, cmp := 0,
    len := BitVec.ofNat 16 len, crd := 0, payload := wordOf 1792 payload, tag := 0 }

/-- Seals a new flit under the slot in use: it enters the retry buffer and goes on the wire (25 R392 to R394). It returns
credit of one channel, and the port still owes a flit while another's stands (25 R389). -/
def State.seal (s : State) (port : Nat) (f : Flit) : State :=
  let q := s.getPort port
  let l := q.tx
  let back := q.owed.headD (0, 0)
  let n := min back.2 1023
  let f := { f with
    seq := l.seq, ack := if f.type = 3 then q.rx.seq else q.rx.last, ks := BitVec.ofNat 8 l.cur,
    crd := BitVec.ofNat 16 (back.1 + n * 64) }
  let plain := bytesOf f.payload
  let f := { f with
    payload := wordOf 1792 (l.crypt l.cur l.counter plain), tag := l.tagOf l.cur l.counter (flitHeader f) plain }
  let l' := { l with
    seq := l.seq + 1, counters := aset 0 l.counters l.cur (l.counter + 1), retry := l.retry ++ [f],
    ackedAt := if l.retry.isEmpty then s.cyc else l.ackedAt }
  let owed := aset 0 q.owed back.1 (back.2 - n)
  let s := s.setPort port { q with tx := l', owed := owed, owes := !owed.isEmpty }
  { s with wire := s.wire ++ [(port, f)] }

/-- A port may seal: it is up, its keys last and its retry buffer has room (25 R394). -/
def Port.open (q : Port) : Bool := q.st = 2 && !q.tx.keyexh && q.tx.retry.length < 512

/-- At the switch point: a MARKER under the slot in use, and every later flit under the other, when that is LIVE;
else KEYLATE (25 R393). The slot left is RETIRED (assumption log 34). -/
def State.switchKey (s : State) (port : Nat) : State :=
  let q := s.getPort port
  let l := q.tx
  let other := 1 - l.cur
  if !(l.due && q.open) then s
  else if l.slotAt other = 1 then
    let s := s.seal port (plainFlit 2 0 0 [])
    let q := s.getPort port
    s.setPort port { q with tx := { q.tx with cur := other, slots := aset 0 q.tx.slots l.cur 2 } }
  else s.setPort port { q with tx := { l with keylate := true } }

/-- Seals a flit that may be sent now; none when the stream stands still. -/
def State.sendFlit (s : State) (port : Nat) (f : Flit) : Option State :=
  let s := if (s.getPort port).tx.due then s.switchKey port else s
  let q := s.getPort port
  if q.open && q.tx.counter < lastCounter then some (s.seal port f) else none

/-! The coding of a payload (25 R396). -/

/-- h(w): the XOR of the bytes of a word. -/
def hashWord (w : Word) : Nat := ((bytesOf w).foldl (fun a b => a ^^^ b) (0 : Byte)).toNat

/-- The tokens of at most `k` words that fit `room` bytes of data, each with its data; the table after them and the words
left. An END token follows where no further word comes or fits (25
R396). -/
def codeTokens (t : List (Nat × Word)) (room : Nat) : Nat → List Word → List (Nat × List Byte) × List (Nat × Word) × List Word
  | 0, ws => ([], t, ws)
  | _ + 1, [] => ([(3, [])], t, [])
  | k + 1, w :: ws =>
    let tok : Nat × List Byte :=
      if w = 0 then (0, []) else if aget 0 t (hashWord w) = w then (1, [BitVec.ofNat 8 (hashWord w)]) else (2, bytesOf w)
    if room < tok.2.length then ([(3, [])], t, w :: ws)
    else
      let r := codeTokens (if tok.1 = 2 then aset 0 t (hashWord w) w else t) (room - tok.2.length) k ws
      (tok :: r.1, r.2)

/-- The groups of at most `n` tag bytes that code words into `room` bytes: the payload, the table after it and the words
left. After the last word an END token follows, in a group of its own where the words end with a whole group and a byte is
left. -/
def codeWords (t : List (Nat × Word)) (room : Nat) : Nat → List Word → List Byte × List (Nat × Word) × List Word
  | 0, ws => ([], t, ws)
  | n + 1, ws =>
    if room = 0 then ([], t, ws)
    else
      let g := codeTokens t (room - 1) 4 ws
      let bs := BitVec.ofNat 8 (g.1.foldr (fun x a => x.1 + 4 * a) 0) :: (g.1.map Prod.snd).flatten
      if g.1.any (fun x => x.1 = 3) then (bs, g.2)
      else
        let r := codeWords g.2.1 (room - bs.length) n g.2.2
        (bs ++ r.1, r.2)

/-- The words of a message, its first one included (25 R390). -/
def Msg.words (m : Msg) : List Word := BitVec.ofNat 64 (m.kind + m.body.length * 2 ^ 8) :: m.body

/-- The next flit of a message (25 R388 to R390): plain, with 28 of its words, or coded, with as many as fit; how many words
it carries, and the sender's table after it (25 R396). -/
def Msg.flit (m : Msg) (coded : Bool) (t : List (Nat × Word)) : Flit × Nat × List (Nat × Word) :=
  let ws := m.words.drop m.sealed
  let c : List Byte × List (Nat × Word) × List Word :=
    if coded then codeWords t 224 224 ws else (((ws.take 28).map bytesOf).flatten, t, ws.drop 28)
  let n := ws.length - c.2.2.length
  ({ plainFlit 1 (m.vc + (if m.sealed = 0 then 64 else 0) + (if c.2.2.isEmpty then 128 else 0)) (8 * n) c.1 with
    cmp := if coded then 1 else 0 }, n, c.2.1)

/-- The message waits for a port and a channel. -/
def Msg.isFor (m : Msg) (port vc : Nat) : Bool := m.port = port && m.vc = vc && m.kind < 0x100

/-- Counts n more words of the oldest message of a port and channel, which leaves when all are sealed. -/
def sealSome (port vc n : Nat) : List Msg → List Msg
  | [] => []
  | m :: t =>
    if m.isFor port vc then
      if m.words.length ≤ m.sealed + n then t else { m with sealed := m.sealed + n } :: t
    else m :: sealSome port vc n t

/-- A channel has a flit credit left (25 R389). -/
def Port.hasCredit (q : Port) (vc : Nat) : Bool :=
  aget 0 q.credits vc = 0 || aget 0 q.credits vc < Config.flitCredits + 1

/-- The number that stands for no channel of a port: an IDLE. -/
def idleChannel : Nat := 64

/-- The next flit of a port: of the oldest message of a channel that has credit (25 R389), coded or not by an open choice (25
R396), or an IDLE that acknowledges and returns credit, whatever messages wait; none when there is none to send. No event of
the opcode table, but what lies between a message and its flits. -/
def State.transmit (s : State) (port vc : Nat) : Option State :=
  match s.out.find? (fun m => m.isFor port vc) with
  | some m =>
    if !((s.getPort port).hasCredit vc) then none
    else
      let r := s.fresh
      let x := m.flit (r.1.getLsbD 0) (s.getPort port).tx.table
      (r.2.sendFlit port x.1).map (fun t =>
        let q := t.getPort port
        let ends := m.kind = 0x05 && m.words.length ≤ m.sealed + x.2.1
        let t := t.setPort port { q with
          tx := { q.tx with table := x.2.2 }, credits := aset 0 q.credits vc (aget 0 q.credits vc + 1),
          unreturned := aset [] q.unreturned vc (aget [] q.unreturned vc ++ [ends]) }
        { t with out := sealSome port vc x.2.1 t.out })
  | none => if vc = idleChannel && (s.getPort port).owes then s.sendFlit port (plainFlit 0 0 0 []) else none

/-- KEY_SWITCH (25 R393). -/
def execKeySwitch (port : BitVec 4) : State → Host.Outcome State Fault Refusal :=
  event (fun s => s.switchKey port.toNat)

/-- KEY_EXHAUSTED: the stream stops and sets KEYEXH (25 R393). -/
def execKeyExhausted (port : BitVec 4) : State → Host.Outcome State Fault Refusal :=
  event (fun s =>
    let q := s.getPort port.toNat
    if lastCounter ≤ q.tx.counter && q.tx.slotAt (1 - q.tx.cur) ≠ 1 then
      s.setPort port.toNat { q with tx := { q.tx with keyexh := true } }
    else s)

/-- KEY_SLOT_REFILL: firmware fills a slot that is not LIVE (28 R413); a stream that stands still for want of keys
retrains its port (25 R393). -/
def execKeySlotRefill (port : BitVec 4) (recv : Bool) (slot : BitVec 1) : State → Host.Outcome State Fault Refusal :=
  event (fun s =>
    let q := s.getPort port.toNat
    let l := if recv then q.rx else q.tx
    let k := slot.toNat
    if q.st = 0 || l.slotAt k = 1 then s
    else
      let l := { l with
        slots := aset 0 l.slots k 1, keys := aset 0 l.keys k s.tick, counters := aset 0 l.counters k 0 }
      let stopped := !recv && l.keyexh
      let q := if recv then { q with rx := l } else { q with tx := l }
      let q := if stopped then { q with st := 3, retrain := q.retrain + 1 } else q
      { s.setPort port.toNat q with tick := s.tick + 1 })

/-- LINK_PARAMETER: a switch point within the limits, or firmware status 4 (25 R391, R393; 28 R413). -/
def execLinkParameter (port : BitVec 4) (recv : Bool) (switchPoint : BitVec 64) :
    State → Host.Outcome State Fault Refusal :=
  event (fun s =>
    let v := switchPoint.toNat
    let q := s.getPort port.toNat
    if 13 ≤ port.toNat || v < 2 ^ 20 || lastCounter < v then s.send 0x1F [4]
    else s.setPort port.toNat (if recv then { q with rx := { q.rx with switchPoint := v } }
      else { q with tx := { q.tx with switchPoint := v } }))

/-! Acknowledgement and retry (25 R394). -/

/-- A sequence number lies before another, by less than 2^31. -/
def seqBefore (a b : BitVec 32) : Bool := a ≠ b && (b - a).toNat < 2 ^ 31

/-- An ACK: every flit up to it leaves the retry buffer, and its failures are forgotten. -/
def State.acked (s : State) (port : Nat) (a : BitVec 32) : State :=
  let q := s.getPort port
  let l := q.tx
  let rest := l.retry.filter (fun f => seqBefore a f.seq)
  s.setPort port { q with tx := { l with
    retry := rest, failures := l.failures.filter (fun x => seqBefore a (BitVec.ofNat 32 x.1)),
    ackedAt := if rest.length < l.retry.length then s.cyc else l.ackedAt } }

/-- The stored flits go on the wire again, each unchanged; a stream that has run out of keys sends none (25 R393). -/
def State.resend (s : State) (port : Nat) : State :=
  if (s.getPort port).tx.keyexh then s
  else { s with wire := s.wire ++ (s.getPort port).tx.retry.map (fun f => (port, f)) }

/-- A retry counts as a failure of the sequence number that it restarts from; the third retrains the port
(assumption log 34). A stream that has run out of keys makes none (25 R393). -/
def State.retryFrom (s : State) (port : Nat) : State :=
  let q := s.getPort port
  match if q.tx.keyexh then [] else q.tx.retry with
  | [] => s
  | f :: _ =>
    let n := aget 0 q.tx.failures f.seq.toNat + 1
    let l := { q.tx with failures := aset 0 q.tx.failures f.seq.toNat n, ackedAt := s.cyc }
    if 3 ≤ n then s.setPort port { q with tx := l, st := 3, retrain := q.retrain + 1 }
    else (s.setPort port { q with tx := l }).resend port

/-- A NAK with E acknowledges what comes before E, and asks for the rest again. -/
def State.nak (s : State) (port : Nat) (e : BitVec 32) : State :=
  if (s.getPort port).st ≠ 2 then s else (s.acked port (e - 1)).retryFrom port

/-- NAK_RECEIVED. -/
def execNakReceived (port : BitVec 4) (e : BitVec 32) : State → Host.Outcome State Fault Refusal :=
  event (fun s => s.nak port.toNat e)

/-- RETRY_TIMEOUT: no ACK has advanced for 4,096 fclk, 8,192 CYC units. -/
def execRetryTimeout (port : BitVec 4) : State → Host.Outcome State Fault Refusal :=
  event (fun s =>
    let q := s.getPort port.toNat
    if q.st = 2 && q.tx.ackedAt + 8192 ≤ s.cyc then s.retryFrom port.toNat else s)

/-- RETRAINING_COMPLETE: sending resumes from E, or a second failure leaves the port down. -/
def execRetrainingComplete (port : BitVec 4) (ok : Bool) : State → Host.Outcome State Fault Refusal :=
  event (fun s =>
    let q := s.getPort port.toNat
    if q.st ≠ 3 then s
    else if ok then
      let l := q.tx
      let l := { l with keyexh := l.keyexh && l.slotAt (1 - l.cur) ≠ 1 }
      (s.setPort port.toNat { q with st := 2, failedTrainings := 0, tx := l }).resend port.toNat
    else if 2 ≤ q.failedTrainings + 1 then s.portDown port.toNat
    else s.setPort port.toNat { q with failedTrainings := q.failedTrainings + 1 })

/-- A stream after training in full: slot 0 LIVE under a fresh key, the rest at reset (25 R395; 28 R413). -/
def LinkStream.fresh (l : LinkStream) (key : Nat) : LinkStream :=
  { LinkStream.reset with slots := [(0, 1)], keys := aset 0 [] 0 key, switchPoint := l.switchPoint }

/-- A port after training in full with a far end of an epoch, which has been sent this end's, under the keys that a number
and the next name (25 R395). -/
def Port.fresh (q : Port) (n : Nat) (epoch sent : BitVec 64) : Port :=
  { q with
    st := 2, tx := q.tx.fresh n, rx := q.rx.fresh (n + 1), epoch := epoch, sent := sent, failedTrainings := 0,
    credits := [], owed := [], unreturned := [], owes := false, refused := [] }

/-- Notifications that a training in full loses are not waited for any more (25 R395; 11 R240). -/
def State.lostNotices (s : State) (port : Nat) : State :=
  if port ≠ 0 then s
  else (s.getPort port).unreturned.foldl (fun s e =>
    s.modPart (e.1 / 2) (fun p => { p with credit := p.credit - (e.2.filter (fun b => b)).length })) s

/-- PORT_TRAIN_FULL: a port that was down, or one of whose ends has started since, trains in full (25 R395): what the far
end had not accepted is lost, the rest of a message in part sealed too. A far end that does not verify leaves the port down
(28 R413). -/
def execPortTrainFull (port : BitVec 4) (epoch : BitVec 64) : State → Host.Outcome State Fault Refusal :=
  event (fun s =>
    let n := port.toNat
    let q := s.getPort n
    if 13 ≤ n || (q.st ≠ 0 && q.epoch = epoch && q.sent = s.epoch) then s
    else if !(Config.peerVerifies n epoch) then (if q.st = 0 then s else s.portDown n)
    else
      let s := (s.lostCommands n).lostNotices n
      let s := { s with out := s.out.filter (fun m => !(m.port = n && m.sealed ≠ 0)) }
      { s.setPort n (q.fresh s.tick epoch s.epoch) with tick := s.tick + 2 })

/-! Compression (25 R396). -/

/-- Nothing more is coded: an END token comes next, or no byte is left after a whole group. `tag` holds the `k` tokens left
of a group. -/
def codeEnds (tag k : Nat) (bs : List Byte) : Bool :=
  if k ≠ 0 then tag % 4 = 3 else bs.isEmpty || (bs.headD 0).toNat % 4 = 3

/-- Decodes `need` words; none when the payload ends before, or codes more. `tag` holds the `k` tokens left of a group. -/
def expand : Nat → Nat → Nat → List Byte → List (Nat × Word) → Nat → Option (List Word × List (Nat × Word))
  | _, tag, k, bs, t, 0 => if codeEnds tag k bs then some ([], t) else none
  | 0, _, _, _, _, _ => none
  | n + 1, _, 0, bs, t, need => match bs with
    | [] => none
    | b :: bs => expand n b.toNat 4 bs t need
  | n + 1, tag, k + 1, bs, t, need + 1 =>
    match tag % 4 with
    | 0 => (expand n (tag / 4) k bs t need).map (fun r => (0 :: r.1, r.2))
    | 1 => match bs with
      | [] => none
      | x :: bs => (expand n (tag / 4) k bs t need).map (fun r => (aget 0 t x.toNat :: r.1, r.2))
    | 2 =>
      if bs.length < 8 then none
      else
        let w : Word := wordOf 64 (bs.take 8)
        (expand n (tag / 4) k (bs.drop 8) (aset 0 t (hashWord w) w) need).map (fun r => (w :: r.1, r.2))
    | _ => none

/-- The message bytes that a payload carries, and the table after it; none when LEN does not fit. -/
def LinkStream.payload (l : LinkStream) (f : Flit) (plain : List Byte) : Option (List Byte × List (Nat × Word)) :=
  let n := f.len.toNat
  if n % 8 ≠ 0 then none
  else if f.cmp = 0 then (if n ≤ 224 then some (plain.take n, l.table) else none)
  else (expand 2000 0 0 plain l.table (n / 8)).map (fun r => ((r.1.map bytesOf).flatten, r.2))

/-! Messages that arrive (25 R389 to R391; the bodies that R391 does not give: assumption log 25). -/

/-- Joins words, the first lowest. -/
def joinWords (w : Nat) (ws : List Word) : BitVec w := wordOf w ((ws.map bytesOf).flatten)

/-- A message of the physical function, on virtual channel 32. -/
def managementMsg (kind : Nat) (b : List Word) : Option Instr :=
  let w := fun k => (b.getD k 0).toNat
  match kind, b.length with
  | 0x10, 2 => some (.registerWrite (bf (w 0) 0 4) true (bf (w 0) 8 12) (b.getD 1 0))
  | 0x11, 1 => some (.registerRead (bf (w 0) 0 4) true (bf (w 0) 8 12))
  | 0x12, 1 =>
    if fld (w 0) 0 1 = 0 then some (.form (bf (w 0) 16 16) (bf (w 0) 8 8)) else some (.dissolve (bf (w 0) 8 4))
  | 0x1A, 1 => if fld (w 0) 8 24 = 0 && w 0 % 256 < 16 then some (.reset (bf (w 0) 0 4) true (bf (w 0) 32 32)) else none
  | 0x1B, 1 => if w 0 = 0 then some .restartWarm else if w 0 = 1 then some .restartCold else none
  | 0x1C, 4 => some (.quoteRequest (joinWords 256 b))
  | 0x1E, n => if n = 0 || 4097 < n then none else some (.firmwareChunk (bf (w 0) 0 32) (bf (w 0) 32 32) b.tail)
  | 0x20, 2 => if w 0 < 32 then some (.linkParameter (bf (w 0) 0 4) (fld (w 0) 4 1 = 1) (b.getD 1 0)) else none
  | _, _ => none

/-- A message of a virtual function, on its partition's request channel. -/
def partitionMsg (p : BitVec 4) (kind : Nat) (b : List Word) : Option Instr :=
  let w := fun k => (b.getD k 0).toNat
  match kind, b.length with
  | 0x01, 10 => some (.rootTask p (bf (w 0) 0 4) (bf (w 0) 16 16) (b.getD 1 0) (joinWords 512 (b.drop 2)))
  | 0x04, 1 => some (if fld (w 0) 32 1 = 0 then .resume p (w 0 % 2 ^ 32) else .abort p (w 0 % 2 ^ 32))
  | 0x06, 2 => some (.shoot p (b.getD 0 0) (bf (w 1) 0 2) (fld (w 1) 32 32) (fld (w 1) 2 1 = 1))
  | 0x08, 2 => some (.zmap p (bf (w 0) 0 48) (bf (w 1) 0 2))
  | 0x10, 2 => some (.registerWrite p false (bf (w 0) 8 12) (b.getD 1 0))
  | 0x11, 1 => some (.registerRead p false (bf (w 0) 8 12))
  | 0x15, 1 => if w 0 < 2 ^ 33 then some (.haltDecision p (bf (w 0) 0 32) (fld (w 0) 32 1 = 1)) else none
  | 0x17, n => if n = 0 || 2 ^ 33 ≤ w 0 then none
    else some (.frameGrant p (bf (w 0) 0 32) (fld (w 0) 32 1 = 1) b.tail)
  | 0x1A, 1 => if fld (w 0) 8 24 = 0 && w 0 % 256 = p.toNat then some (.reset p false (bf (w 0) 32 32)) else none
  | _, _ => none

/-- The bytes of message words. -/
def messageBytes (b : List Word) (n : Nat) : List Byte := ((b.map bytesOf).flatten).take n

/-- A message of a peer. -/
def peerMsg (port : BitVec 4) (kind : Nat) (b : List Word) : Option Instr :=
  let w := fun k => (b.getD k 0).toNat
  match kind with
  | 0x0A =>
    if b.length < 18 then none
    else some (.putMessage (bf (w 0) 0 4) {
      port := port, spart := bf (w 1) 0 8, elem := bf (w 4) 0 8, op := bf (w 3) 0 8,
      origins := (List.range 6).map (fun d => bf (w (5 + d)) 0 32), addr := b.getD 11 0,
      data := messageBytes (b.drop 18) (w 15), total := w 17, barrier := if w 13 = 0 then none else some (bf (w 13 - 1) 0 32),
      logBase := bf (w 14) 0 32, anum := bf (w 12) 0 32, tag := b.getD 2 0, poisoned := w 16 ≠ 0 })
  | 0x0B => if b.length = 12 then some (.getRequest (bf (w 0) 0 4) port (b.getD 2 0) (b.getD 10 0) (w 11)) else none
  | 0x0C =>
    if b.length < 3 then none
    else some (.getData (bf (w 0) 4 6) (bf (w 0) 0 4) (messageBytes (b.drop 3) (w 1)) (w 2 ≠ 0))
  | 0x0D => if b.length = 2 then some (.farEndAck (bf (w 0) 4 6) (bf (w 0) 0 4) (bf (w 1) 0 2)) else none
  | _ => none

/-- Counts a message that is discarded (25 R390). -/
def State.discardMsg (s : State) (port : Nat) : State :=
  s.setPort port { s.getPort port with errors := (s.getPort port).errors + 1 }

/-- A message that comes before a start is complete, on another channel than 32, is rejected with status 0x42 (28 R408): a
root task by its completion, a PUT or GET by its acknowledgement, another by an answer of its kind (assumption log 25); an
answer of a peer is dropped. -/
def State.rejectMsg (s : State) (port vc kind : Nat) (b : List Word) : State :=
  match kind with
  | 0x0A => s.post port (vc / 2 * 2 + 1) 0x0D [b.getD 2 0, 0x42]
  | 0x0B => s.post port (vc / 2 * 2 + 1) 0x0D [b.getD 2 0, 0x42]
  | 0x0C => s
  | 0x0D => s
  | k => s.post port (vc / 2 * 2 + 1) k [0x42]

/-- A PUT or GET waits for the answer with a tag. -/
def State.awaits (s : State) (tag : Word) : Bool :=
  let t := tag.toNat
  match ((s.getCore (t / 16 % 64)).queue (t % 16)).head? with
  | some d => d.wait.atPeer && d.stamp % 2 ^ 54 = t / 1024
  | none => false

/-- A whole message: the event it stands for is next on the agenda; one that R390 does not assign, or whose rsv is
not zero, is discarded and counted, in recovery too. Before a start is complete only channel 32 is answered (28 R408). -/
def State.message (s : State) (port vc : Nat) (ws : List Word) : State :=
  let h := (ws.headD 0).toNat
  let b := ws.tail
  let kind := h % 256
  if ws.isEmpty || h / 2 ^ 24 ≠ 0 || fld h 8 16 ≠ b.length then s.discardMsg port
  else
    let i := if port ≠ 0 then (if vc < 32 then peerMsg (BitVec.ofNat 4 port) kind b else none)
      else if vc = 32 then managementMsg kind b
      else if vc < 32 && vc % 2 = 0 then partitionMsg (BitVec.ofNat 4 (vc / 2)) kind b
      else none
    match i with
    | some i =>
      if s.recovery && vc ≠ 32 && kind ≠ 0x01 then s.rejectMsg port vc kind b
      -- an answer that comes after a reset has discarded its command meets no command (27 R406)
      else if port ≠ 0 && (kind = 0x0C || kind = 0x0D) && !(s.awaits (b.headD 0)) then s
      else { s with agenda := s.agenda ++ [i] }
    | none => s.discardMsg port

/-- A message that is whole: one that a partition reset has refused is answered with error status (27 R406). -/
def State.whole (s : State) (port vc : Nat) (ws : List Word) : State :=
  let q := s.getPort port
  if q.refused.contains vc then
    (s.setPort port { q with refused := q.refused.erase vc }).post port (2 * ((ws.getD 1 0).toNat % 16) + 1) 0x0D
      [ws.getD 3 0, 2]
  else s.message port vc ws

/-- The bytes of a DATA flit join those of its channel; LAST makes them a message (25 R389). -/
def State.assemble (s : State) (port : Nat) (f : Flit) (bs : List Byte) : State :=
  let vc := f.vc.toNat % 64
  let q := s.getPort port
  let first := f.vc.getLsbD 6
  match first, afind q.rx.assembling vc with
  | false, none => s.discardMsg port
  | true, some _ => (s.setPort port { q with
      rx := { q.rx with assembling := adel q.rx.assembling vc }, refused := q.refused.erase vc }).discardMsg port
  | _, held =>
    let all := held.getD [] ++ bs
    if f.vc.getLsbD 7 then
      (s.setPort port { q with rx := { q.rx with assembling := adel q.rx.assembling vc } }).whole port vc
        ((chunks 8 (all.length / 8) all).map (fun b => wordOf 64 b))
    else s.setPort port { q with rx := { q.rx with assembling := aput q.rx.assembling vc all } }

/-! Acceptance (25 R394). -/

/-- Credit comes back for the oldest flits of a channel (25 R389); on a partition's response channel, that of a
notification is notification credit (11 R240). -/
def State.credited (s : State) (port : Nat) (f : Flit) : State :=
  let vc := f.crd.toNat % 64
  let n := f.crd.toNat / 64
  let q := s.getPort port
  let flits := aget [] q.unreturned vc
  let told := ((flits.take n).filter (fun b => b)).length
  let s := s.setPort port { q with
    credits := aset 0 q.credits vc (aget 0 q.credits vc - n), unreturned := aset [] q.unreturned vc (flits.drop n) }
  if port = 0 && vc < 32 && vc % 2 = 1 then s.modPart (vc / 2) (fun p => { p with credit := p.credit - told }) else s

/-- The checks of a flit that carries the expected SEQ: what it delivers and the table after it, or none. -/
def LinkStream.check (l : LinkStream) (f : Flit) : Option (List Byte × List (Nat × Word)) :=
  let k := f.ks.toNat % 2
  let ctr := aget 0 l.counters k
  let plain := l.crypt k ctr (bytesOf f.payload)
  if l.tagOf k ctr (flitHeader f) plain = f.tag && f.type.toNat ≤ 3 && f.ks.toNat < 2 && f.cmp.toNat < 2 &&
      l.slotAt k = 1 && (f.type = 1 || (f.len = 0 && f.cmp = 0 && plain.all (fun b => b = 0))) then
    l.payload f plain
  else none

/-- The receiver after it accepts a flit: E advances, and the first flit under the other slot retires the old one
(25 R393). -/
def LinkStream.accept (l : LinkStream) (f : Flit) (table : List (Nat × Word)) : LinkStream :=
  let k := f.ks.toNat % 2
  { l with
    seq := l.seq + 1, last := l.seq, counters := aset 0 l.counters k (aget 0 l.counters k + 1), table := table,
    nakOut := false,
    slots := if k = l.cur then l.slots else aset 0 l.slots l.cur 2, cur := k }

/-- Sends a NAK with E. -/
def State.sendNak (s : State) (port : Nat) : State :=
  match s.sendFlit port (plainFlit 3 0 0 []) with
  | some t => t.setPort port { t.getPort port with rx := { (t.getPort port).rx with nakOut := true } }
  | none => s

/-- FLIT_ARRIVAL (25 R394). -/
def execFlitArrival (port : BitVec 4) (f : Flit) : State → Host.Outcome State Fault Refusal :=
  event (fun s =>
    let n := port.toNat
    let q := s.getPort n
    let e := q.rx.seq
    if q.st ≠ 2 || seqBefore f.seq e then s
    else if f.seq ≠ e then (if q.rx.nakOut then s else s.sendNak n)
    else match q.rx.check f with
      | none => s.sendNak n
      | some (bs, table) =>
        let vc := f.vc.toNat % 64
        let q := { q with
          rx := q.rx.accept f table, owes := q.owes || f.type ≠ 0,
          owed := if f.type = 1 then aset 0 q.owed vc (aget 0 q.owed vc + 1) else q.owed }
        let s := (s.setPort n q).credited n f
        if f.type = 3 then s.nak n f.ack
        else
          let s := s.acked n f.ack
          if f.type = 1 then s.assemble n f bs else s)

end Sys2Proof.Machine
end

