-- ==== Sys2Proof/Machine/MatrixSlot.lean ====
section
/-! DEFINITION. The M slot: beats, drains, control sub-operations and MREP (09 R182 to R191), the reissue of a
repeat, and the completion of a drain. -/

namespace Sys2Proof.Machine

/-- MBEAT. -/
def execMbeat (p s' a w : BitVec 1) (tile : BitVec 4) (row : BitVec 7) (acc : BitVec 3) (arow : BitVec 7)
    (inc : BitVec 3) (ainc : BitVec 2) : State → Host.Outcome State Fault Refusal :=
  run (fun s => s.missue (.mbeat p s' a w tile row acc arow inc ainc))
/-- MDRAIN. -/
def execMdrain (acc : BitVec 3) (row : BitVec 7) (sram : BitVec 1) (t : BitVec 4) (drow : BitVec 7) (clr ls : BitVec 1)
    (inc : BitVec 3) (dinc : BitVec 2) : State → Host.Outcome State Fault Refusal :=
  run (fun s => s.missue (.mdrain acc row sram t drow clr ls inc dinc))
/-- MDRAIN with OFOLD. -/
def execMdrainOfold (acc : BitVec 3) (row : BitVec 7) (sram : BitVec 1) (t : BitVec 4) (clr ls : BitVec 1)
    (inc : BitVec 3) : State → Host.Outcome State Fault Refusal :=
  run (fun s => s.missue (.mdrainOfold acc row sram t clr ls inc))
/-- MGSEL. -/
def execMgsel (g : BitVec 4) : State → Host.Outcome State Fault Refusal := run (fun s => s.mcontrol (.mgsel g))
/-- MMODE. -/
def execMmode (rs : BitVec 1) : State → Host.Outcome State Fault Refusal := run (fun s => s.mcontrol (.mmode rs))
/-- MFMT. -/
def execMfmt (sel : BitVec 1) : State → Host.Outcome State Fault Refusal := run (fun s => s.mcontrol (.mfmt sel))
/-- MDRAINW. -/
def execMdrainw : State → Host.Outcome State Fault Refusal := run (fun s => s.mcontrol .mdrainw)
/-- MFLOAD. -/
def execMfload (t : BitVec 4) (bank : BitVec 1) : State → Host.Outcome State Fault Refusal :=
  run (fun s => s.mcontrol (.mfload t bank))
/-- MZERO. -/
def execMzero (acc : BitVec 3) : State → Host.Outcome State Fault Refusal := run (fun s => s.mcontrol (.mzero acc))
/-- MGUSE. -/
def execMguse (slot : BitVec 2) : State → Host.Outcome State Fault Refusal := run (fun s => s.mcontrol (.mguse slot))
/-- MRSTP. -/
def execMrstp : State → Host.Outcome State Fault Refusal := run (fun s => s.mcontrol .mrstp)

/-- MREP: under a pending count it raises ILLI, and the count is dropped (09 R188). -/
def execMrep (cnt : BitVec 12) : State → Host.Outcome State Fault Refusal :=
  run (fun s => do
    s.mslot
    require s.ctx.mrepNow.isNone (.trap cILLI [4] .mrep)
    .ok (s.setMrep (some (cnt.toNat + 1))))

/-- MREP_REISSUE: the active repeat of a core executes once more; a fault there is raised in the bundle that
carried the encoding (09 R188). Where the fault is the host's, the repeat goes on once the context does (23 R365). -/
def execMrepReissue (c : BitVec 6) : State → Host.Outcome State Fault Refusal :=
  event (fun s =>
    match (s.getCore c.toNat).arr.repeat_ with
    | none => s
    | some r => s.onCtx r.ctx (fun s =>
        match s.reissue r with
        | .ok t => t
        | .error .hold => s
        | .error (.trap k rec _) =>
          (s.modArr (fun u => { u with repeat_ := none })).takeTrap ⟨k, r.pc, rec⟩ .none
        | .error e => if s.ctx.isReady || s.ctx.isBlocked then s.stopWith e else s))

/-- ARRAY_OPERATION_COMPLETE: the oldest drain of a core is performed (09 R191, R192). -/
def execArrayOperationComplete (c : BitVec 6) : State → Host.Outcome State Fault Refusal :=
  event (fun s =>
    match (s.getCore c.toNat).arr.queue with
    | [] => s
    | (k, _) :: _ => s.onCtx k (fun s => s.performArray))

end Sys2Proof.Machine
end

