-- ==== Sys2Proof/Machine/Scalar.lean ====
section
/-! DEFINITION. The S slot: scalar arithmetic (07 R133 to R139), control registers (03 R60; 07 R140, R141) and
SETVL (07 R142). -/

namespace Sys2Proof.Machine

/-! Values. -/

/-- Division (07 R135). -/
def divS (x y : Word) : Word :=
  if y = 0 then BitVec.allOnes 64 else BitVec.ofInt 64 (Int.tdiv x.toInt y.toInt)
def divU (x y : Word) : Word := if y = 0 then BitVec.allOnes 64 else BitVec.ofNat 64 (x.toNat / y.toNat)
def remS (x y : Word) : Word := if y = 0 then x else BitVec.ofInt 64 (Int.tmod x.toInt y.toInt)
def remU (x y : Word) : Word := if y = 0 then x else BitVec.ofNat 64 (x.toNat % y.toNat)

/-- A truth value as 1 or 0. -/
def bit (b : Bool) : Word := if b then 1 else 0

/-- Counts (07 R134). -/
def leadingZeros (x : Word) : Word :=
  BitVec.ofNat 64 ((List.range 64).takeWhile (fun i => !(x.getLsbD (63 - i)))).length
def trailingZeros (x : Word) : Word :=
  BitVec.ofNat 64 ((List.range 64).takeWhile (fun i => !(x.getLsbD i))).length
def onesCount (x : Word) : Word := BitVec.ofNat 64 ((List.range 64).filter (fun i => x.getLsbD i)).length
def reversed (x : Word) : Word := BitVec.ofNat 64 ((List.range 64).foldl
  (fun a i => if x.getLsbD i then a + 2 ^ (63 - i) else a) 0)

/-- The low word of a pair shifted right (07 R137). -/
def funnel (hi lo : Word) (k : Nat) : Word := BitVec.ofNat 64 ((hi.toNat * 2 ^ 64 + lo.toNat) / 2 ^ k)

/-- The shift amount of an operand (07 R134). -/
def amount (x : Word) : Nat := x.toNat % 64

/-- A 14-bit immediate (02 R44). -/
def imm14 (x : BitVec 14) : Word := x.signExtend 64

/-! Shapes of an instruction: sources in the order of their fields, most significant first (03 R58). -/

/-- sd from sa. -/
def scalar1 (f : Word → Word) (sd sa : BitVec 6) : State → Host.Outcome State Fault Refusal :=
  run (fun s => do
    let a ← s.readS 1 sa
    a.2.writeS 1 sd (f a.1))

/-- sd from sa and sb. -/
def scalar2 (f : Word → Word → Word) (sd sa sb : BitVec 6) : State → Host.Outcome State Fault Refusal :=
  run (fun s => do
    let a ← s.readS 1 sa
    let b ← a.2.readS 1 sb
    b.2.writeS 1 sd (f a.1 b.1))

/-- sd from its old value, sa and sb. -/
def scalar3 (f : Word → Word → Word → Word) (sd sa sb : BitVec 6) : State → Host.Outcome State Fault Refusal :=
  run (fun s => do
    let d ← s.readS 1 sd
    let a ← d.2.readS 1 sa
    let b ← a.2.readS 1 sb
    b.2.writeS 1 sd (f d.1 a.1 b.1))

/-! The register forms (07 R134, R135). -/

/-- ADD. -/
def execAdd (sd sa sb : BitVec 6) : State → Host.Outcome State Fault Refusal := scalar2 (fun a b => a + b) sd sa sb
/-- SUB. -/
def execSub (sd sa sb : BitVec 6) : State → Host.Outcome State Fault Refusal := scalar2 (fun a b => a - b) sd sa sb
/-- MUL. -/
def execMul (sd sa sb : BitVec 6) : State → Host.Outcome State Fault Refusal := scalar2 (fun a b => a * b) sd sa sb
/-- MULH. -/
def execMulh (sd sa sb : BitVec 6) : State → Host.Outcome State Fault Refusal :=
  scalar2 (fun a b => BitVec.ofInt 64 (a.toInt * b.toInt / 2 ^ 64)) sd sa sb
/-- MULHU. -/
def execMulhu (sd sa sb : BitVec 6) : State → Host.Outcome State Fault Refusal :=
  scalar2 (fun a b => BitVec.ofNat 64 (a.toNat * b.toNat / 2 ^ 64)) sd sa sb
/-- DIV. -/
def execDiv (sd sa sb : BitVec 6) : State → Host.Outcome State Fault Refusal := scalar2 divS sd sa sb
/-- DIVU. -/
def execDivu (sd sa sb : BitVec 6) : State → Host.Outcome State Fault Refusal := scalar2 divU sd sa sb
/-- REM. -/
def execRem (sd sa sb : BitVec 6) : State → Host.Outcome State Fault Refusal := scalar2 remS sd sa sb
/-- REMU. -/
def execRemu (sd sa sb : BitVec 6) : State → Host.Outcome State Fault Refusal := scalar2 remU sd sa sb
/-- AND. -/
def execAnd (sd sa sb : BitVec 6) : State → Host.Outcome State Fault Refusal := scalar2 (fun a b => a &&& b) sd sa sb
/-- OR. -/
def execOr (sd sa sb : BitVec 6) : State → Host.Outcome State Fault Refusal := scalar2 (fun a b => a ||| b) sd sa sb
/-- XOR. -/
def execXor (sd sa sb : BitVec 6) : State → Host.Outcome State Fault Refusal := scalar2 (fun a b => a ^^^ b) sd sa sb
/-- ANDN. -/
def execAndn (sd sa sb : BitVec 6) : State → Host.Outcome State Fault Refusal :=
  scalar2 (fun a b => a &&& ~~~b) sd sa sb
/-- SHL. -/
def execShl (sd sa sb : BitVec 6) : State → Host.Outcome State Fault Refusal :=
  scalar2 (fun a b => a <<< amount b) sd sa sb
/-- SHR. -/
def execShr (sd sa sb : BitVec 6) : State → Host.Outcome State Fault Refusal :=
  scalar2 (fun a b => a >>> amount b) sd sa sb
/-- SAR. -/
def execSar (sd sa sb : BitVec 6) : State → Host.Outcome State Fault Refusal :=
  scalar2 (fun a b => a.sshiftRight (amount b)) sd sa sb
/-- ROTR. -/
def execRotr (sd sa sb : BitVec 6) : State → Host.Outcome State Fault Refusal :=
  scalar2 (fun a b => funnel a a (amount b)) sd sa sb
/-- MIN. -/
def execMin (sd sa sb : BitVec 6) : State → Host.Outcome State Fault Refusal :=
  scalar2 (fun a b => if a.sle b then a else b) sd sa sb
/-- MAX. -/
def execMax (sd sa sb : BitVec 6) : State → Host.Outcome State Fault Refusal :=
  scalar2 (fun a b => if a.sle b then b else a) sd sa sb
/-- MINU. -/
def execMinu (sd sa sb : BitVec 6) : State → Host.Outcome State Fault Refusal :=
  scalar2 (fun a b => if a.ule b then a else b) sd sa sb
/-- MAXU. -/
def execMaxu (sd sa sb : BitVec 6) : State → Host.Outcome State Fault Refusal :=
  scalar2 (fun a b => if a.ule b then b else a) sd sa sb
/-- SEQ. -/
def execSeq (sd sa sb : BitVec 6) : State → Host.Outcome State Fault Refusal :=
  scalar2 (fun a b => bit (a = b)) sd sa sb
/-- SLT. -/
def execSlt (sd sa sb : BitVec 6) : State → Host.Outcome State Fault Refusal :=
  scalar2 (fun a b => bit (a.slt b)) sd sa sb
/-- SLTU. -/
def execSltu (sd sa sb : BitVec 6) : State → Host.Outcome State Fault Refusal :=
  scalar2 (fun a b => bit (a.ult b)) sd sa sb
/-- SELZ. -/
def execSelz (sd sa sb : BitVec 6) : State → Host.Outcome State Fault Refusal :=
  scalar3 (fun d a b => if d ≠ 0 then a else b) sd sa sb
/-- CLZ. -/
def execClz (sd sa : BitVec 6) : State → Host.Outcome State Fault Refusal := scalar1 leadingZeros sd sa
/-- CTZ. -/
def execCtz (sd sa : BitVec 6) : State → Host.Outcome State Fault Refusal := scalar1 trailingZeros sd sa
/-- POPC. -/
def execPopc (sd sa : BitVec 6) : State → Host.Outcome State Fault Refusal := scalar1 onesCount sd sa
/-- BREV. -/
def execBrev (sd sa : BitVec 6) : State → Host.Outcome State Fault Refusal := scalar1 reversed sd sa
/-- FSHR. -/
def execFshr (sd sa sb : BitVec 6) : State → Host.Outcome State Fault Refusal :=
  scalar3 (fun d a b => funnel a b (amount d)) sd sa sb

/-! The immediate forms (07 R136 to R139). -/

/-- ADDI. -/
def execAddi (sd sa : BitVec 6) (imm : BitVec 14) : State → Host.Outcome State Fault Refusal :=
  scalar1 (fun a => a + imm14 imm) sd sa
/-- ANDI. -/
def execAndi (sd sa : BitVec 6) (imm : BitVec 14) : State → Host.Outcome State Fault Refusal :=
  scalar1 (fun a => a &&& imm14 imm) sd sa
/-- ORI. -/
def execOri (sd sa : BitVec 6) (imm : BitVec 14) : State → Host.Outcome State Fault Refusal :=
  scalar1 (fun a => a ||| imm14 imm) sd sa
/-- XORI. -/
def execXori (sd sa : BitVec 6) (imm : BitVec 14) : State → Host.Outcome State Fault Refusal :=
  scalar1 (fun a => a ^^^ imm14 imm) sd sa
/-- SLTI. -/
def execSlti (sd sa : BitVec 6) (imm : BitVec 14) : State → Host.Outcome State Fault Refusal :=
  scalar1 (fun a => bit (a.slt (imm14 imm))) sd sa
/-- SLTIU. -/
def execSltiu (sd sa : BitVec 6) (imm : BitVec 14) : State → Host.Outcome State Fault Refusal :=
  scalar1 (fun a => bit (a.ult (imm14 imm))) sd sa
/-- FSHRI. -/
def execFshri (sd sa sb sh : BitVec 6) : State → Host.Outcome State Fault Refusal :=
  scalar2 (fun a b => funnel a b sh.toNat) sd sa sb
/-- SHLI. -/
def execShli (sd sa sh : BitVec 6) : State → Host.Outcome State Fault Refusal :=
  scalar1 (fun a => a <<< sh.toNat) sd sa
/-- SHRI. -/
def execShri (sd sa sh : BitVec 6) : State → Host.Outcome State Fault Refusal :=
  scalar1 (fun a => a >>> sh.toNat) sd sa
/-- SARI. -/
def execSari (sd sa sh : BitVec 6) : State → Host.Outcome State Fault Refusal :=
  scalar1 (fun a => a.sshiftRight sh.toNat) sd sa
/-- MULI. -/
def execMuli (sd sa : BitVec 6) (imm : BitVec 14) : State → Host.Outcome State Fault Refusal :=
  scalar1 (fun a => a * imm14 imm) sd sa
/-- SLI. -/
def execSli (sd : BitVec 6) (imm : BitVec 20) : State → Host.Outcome State Fault Refusal :=
  run (fun s => s.writeS 1 sd (imm.signExtend 64))
/-- SINS: the old sd is a source. -/
def execSins (sd : BitVec 6) (imm : BitVec 20) : State → Host.Outcome State Fault Refusal :=
  scalar1 (fun d => d <<< 20 ||| imm.zeroExtend 64) sd sd

/-- A bit field whose length is written 0 for 64 (07 R139). -/
def fieldLen (len : BitVec 6) : Nat := if len = 0 then 64 else len.toNat

/-- BFX. -/
def execBfx (sd sa pos len : BitVec 6) : State → Host.Outcome State Fault Refusal :=
  run (fun s => do
    let n := fieldLen len
    require (pos.toNat + n ≤ 64) (trapSlot cILLI 1)
    let a ← s.readS 1 sa
    a.2.writeS 1 sd (BitVec.ofInt 64 ((⟨n, true⟩ : IntFmt).decode (fld a.1.toNat pos.toNat n))))
/-- BFXU. -/
def execBfxu (sd sa pos len : BitVec 6) : State → Host.Outcome State Fault Refusal :=
  run (fun s => do
    let n := fieldLen len
    require (pos.toNat + n ≤ 64) (trapSlot cILLI 1)
    let a ← s.readS 1 sa
    a.2.writeS 1 sd (BitVec.ofNat 64 (fld a.1.toNat pos.toNat n)))
/-- BFI: the old sd is a source, read first. -/
def execBfi (sd sa pos len : BitVec 6) : State → Host.Outcome State Fault Refusal :=
  run (fun s => do
    let n := fieldLen len
    require (pos.toNat + n ≤ 64) (trapSlot cILLI 1)
    let d ← s.readS 1 sd
    let a ← d.2.readS 1 sa
    let mask : Word := BitVec.ofNat 64 ((2 ^ n - 1) * 2 ^ pos.toNat)
    a.2.writeS 1 sd ((d.1 &&& ~~~mask) ||| (a.1 <<< pos.toNat &&& mask)))

/-! Control registers (03 R60). -/

/-- The registers that a CRW writes. -/
def crWritable (cr : Nat) : Bool :=
  [3, 4, 5, 6, 9, 0xA, 0x10, 0x11, 0x40].contains cr || (0x20 ≤ cr && cr ≤ 0x2F)

/-- L2EFF: held lines of the partition's slices of the die, an open value within its bounds (12 R258). -/
def State.l2eff (s : State) : Word × State :=
  let d := dieOf s.coreId
  let slices := 4 * ((List.range 4).filter (fun i => (s.getPart s.ctx.part).berths.testBit (4 * d + i))).length
  let f := s.fresh
  (BitVec.ofNat 64 (f.1.toNat % (65536 * slices + 1)), f.2)

/-- Reads a control register. -/
def State.readCr (s : State) (cr : Nat) : Except Stop (Word × State) :=
  let r := s.rd
  let c := s.crd
  let now := fun (v : Word) => (Except.ok (v, s) : Except Stop (Word × State))
  let nat := fun (n : Nat) => now (BitVec.ofNat 64 n)
  if 0x100 ≤ cr then .error (trapSlot cPRIV 1)
  else if 0x20 ≤ cr && cr ≤ 0x2F then now (s.tshape (cr - 0x20))
  else if 0x30 ≤ cr && cr ≤ 0x33 then now (aget GroupSlot.reset s.core.groups (cr - 0x30)).stat
  else if 0x19 ≤ cr && cr ≤ 0x1E then now (s.index (cr - 0x19))
  else match cr with
  | 0x00 => nat s.cyc
  | 0x01 => now r.vl
  | 0x02 => now r.vtype
  | 0x03 => now r.fmt
  | 0x04 => now r.stat
  | 0x05 => now r.lscale
  | 0x06 => now r.seed
  | 0x08 => now c.taskid
  | 0x09 => now c.deadl
  | 0x0A => now c.budget
  | 0x0B => now c.bused
  | 0x10 => now c.mfp0
  | 0x11 => now c.mfp1
  | 0x18 => nat s.levels.length
  | 0x40 => now c.trapvec
  | 0x41 => now c.trapcause
  | 0x42 => now c.trappc
  | 0x43 => now c.trapinfo
  | 0x44 => now c.rqcount
  | 0x45 => nat (if s.ctx.mode = .handler then 1 else 0)
  | 0x50 => now c.vwin
  | 0x51 => now c.twin
  | 0x60 => nat s.ctxId
  | 0x61 => nat s.coreId
  | 0x62 => nat (crewOf s.coreId)
  | 0x63 => nat s.ctx.part
  | 0x70 => .ok s.l2eff
  | _ => .error (trapSlot cILLI 1)

/-- A CRW of an MFP register (03 R60; 07 R141; 09 R184): the one in use by the array keeps its value while the
array is dirty. -/
def State.writeMfp (s : State) (second : Bool) (v : Word) : Except Stop State := do
  require (mfpOk v.toNat) (trapSlot cILLI 1)
  let old := if second then s.ctx.cr.mfp1 else s.ctx.cr.mfp0
  let u := s.core.arr
  require (!(u.dirty && u.claim = some s.ctxId && u.mfpSel = second && v ≠ old)) (trapSlot cILLI 1)
  .ok (s.modCtrl (fun c => if second then { c with mfp1 := v } else { c with mfp0 := v }))

/-- Writes a control register (07 R141). -/
def State.writeCr (s : State) (cr : Nat) (v : Word) : Except Stop State :=
  let refuse : Except Stop State := .error (trapSlot cILLI 1)
  if 0x100 ≤ cr then .error (trapSlot cPRIV 1)
  else if 0x20 ≤ cr && cr ≤ 0x2F then
    if tshapeOk v.toNat then .ok (s.modCtrl (fun c => { c with tshape := aset 0x7FFE0 c.tshape (cr - 0x20) v }))
    else refuse
  else match cr with
  | 0x03 => if fmtOk v.toNat then .ok (s.setFmt (v &&& 0x3FFFFFF)) else refuse
  | 0x04 => .ok (s.modRegs (fun r => { r with stat := v &&& 0xFF }))
  | 0x05 => .ok (s.modRegs (fun r => { r with lscale := v &&& 0xFF }))
  | 0x06 => .ok { s.modRegs (fun r => { r with seed := v }) with ctx :=
      { (s.modRegs (fun r => { r with seed := v })).ctx with reseed := true } }
  | 0x09 => .ok (s.modCtrl (fun c => { c with deadl := v }))
  | 0x0A => .ok (s.modCtrl (fun c => { c with budget := v }))
  | 0x10 => s.writeMfp false v
  | 0x11 => s.writeMfp true v
  | 0x40 => .ok (s.modCtrl (fun c => { c with trapvec := v &&& ~~~1#64 }))
  | _ => refuse

/-- CRR. -/
def execCrr (sd : BitVec 6) (cr : BitVec 12) : State → Host.Outcome State Fault Refusal :=
  run (fun s => do
    let v ← s.readCr cr.toNat
    v.2.writeS 1 sd v.1)

/-- CRW. -/
def execCrw (sa : BitVec 6) (cr : BitVec 12) : State → Host.Outcome State Fault Refusal :=
  run (fun s => do
    let a ← s.readS 1 sa
    a.2.writeCr cr.toNat a.1)

/-- SETVL (07 R142). -/
def execSetvl (sd sa : BitVec 6) (vt : BitVec 14) : State → Host.Outcome State Fault Refusal :=
  run (fun s => do
    require (vtypeOk vt.toNat) (trapSlot cILLI 1)
    let ty : Word := vt.zeroExtend 64
    let m := vlmax ty
    let a ← if sa = 0 then .ok ((BitVec.ofNat 64 m : Word), s) else s.readS 1 sa
    let vl : Word := BitVec.ofNat 64 (Nat.min a.1.toNat m)
    (a.2.modRegs (fun r => { r with vl := vl, vtype := ty })).writeS 1 sd vl)

end Sys2Proof.Machine
end

