-- ==== Sys2Proof/Machine/Start.lean ====
section
/-! DEFINITION. Starts and recovery (28 R408, R409), firmware, quotes (28 R410, R411), soft errors and repair (27
R401 to R407), and the governor (28 R414, R415). -/

namespace Sys2Proof.Machine

/-! Errors (27 R401 to R405). -/

/-- The PARTID of an error record: 0xFF for a unit of the link die, which serves the module (27 R404). -/
def recordPart (p unit : Nat) : Nat := if unit / 4096 = 4 then 0xFF else p

/-- A corrected error: counted, and posted when its unit reaches the threshold, once a start (27 R401, R404). -/
def State.corrected (s : State) (p unit : Nat) (loc : Word) : State :=
  let n := aget 0 s.cePosted unit + 1
  let s := { s with cecnt := s.cecnt + 1, cePosted := aset 0 s.cePosted unit n }
  if n = Config.errorThreshold then s.postError (recordPart p unit) 0 unit loc else s

/-- CORRECTED_ERROR. -/
def execCorrectedError (p : BitVec 4) (unit : BitVec 16) (loc : BitVec 64) : State → Host.Outcome State Fault Refusal :=
  event (fun s => s.corrected p.toNat unit.toNat loc)

/-- The memory unit that an address lies in: an HBM channel by 32 × stack + channel, or an LPDDR 6 controller by
berth (27 R404; assumption log 35). -/
def memoryUnit (pa : Nat) : Nat :=
  if pa < 0x10000000000 then 2 * 4096 + 32 * (pa / 2 ^ 36) + pa / 2 ^ 31 % 32
  else 3 * 4096 + 4 * (pa / 2 ^ 38 % 4) + pa / 2 ^ 36 % 4

/-- PATROL_SCRUB: what the scrubber finds it corrects; no value changes (27 R401). -/
def execPatrolScrub (addr : BitVec 48) (found : Bool) : State → Host.Outcome State Fault Refusal :=
  event (fun s => match s.berthOf addr.toNat, found with
    | some b, true => s.corrected (s.partOf b) (memoryUnit addr.toNat) (addr.zeroExtend 64)
    | _, _ => s)

/-- A unit posts SEV 3: the third time since the last cold start asks for a replacement, and a core is recorded for the next
start (27 R407). -/
def State.postUnrecoverable (s : State) (p unit : Nat) (loc : Word) : State :=
  let n := aget 0 s.sev3 unit + 1
  let s := (s.postError p 3 unit loc)
  let s := { s with
    sev3 := aset 0 s.sev3 unit n, hurt := if unit / 4096 = 0 then aset false s.hurt unit true else s.hurt }
  if 3 ≤ n then s.requestReplacement else s

/-- The roots of the tasks that run on a core are torn down (27 R405). -/
def State.tearCore (s : State) (p c : Nat) : State :=
  [0, 1, 2, 3].foldl (fun s x =>
    let k := s.getCtx (4 * c + x)
    if k.status = .idle then s else s.contain p k.cr.taskid.toNat) s

/-- Containment of an unrecoverable error (27 R402, R405): of a core, by the partition's mode; of the link die, every
formed partition whose traffic the unit carries: those with commands on a peer port, all of them for the host port and what
the ports share; of any other unit, the partition (assumption log 59). -/
def State.containUnit (s : State) (p unit : Nat) : State :=
  let q := s.getPart p
  let n := unit % 4096
  match unit / 4096 with
  | 4 => if n = 0 || 13 ≤ n then s.resetAll else (s.waitingOn n).foldl (fun s w => s.resetPart w.2.2.1) s
  | 0 => if q.compat then s.tearCore p (unit % 64) else s.resetPart p
  | _ => s.resetPart p

/-- The lines whose data an error of one line takes: every one that shares its entry in a die's L2 (27 R402). -/
def State.sharers (s : State) (line : Nat) : List Nat :=
  line :: ([0, 1, 2, 3].map (fun d =>
    let die := s.getDie d
    match afind die.tags line with
    | some t => if t.kind = .share then
        (die.tags.filter (fun x => x.2.kind ≠ .zero && x.2.entry = t.entry)).map Prod.fst else []
    | none => [])).flatten

/-- UNCORRECTABLE_ERROR (27 R402): counted; data is poisoned, of a memory unit the codeword that LOC names, of an L2 slice
the line and all that share its entry; and the rest is contained. -/
def execUncorrectableError (p : BitVec 4) (unit : BitVec 16) (loc : BitVec 64) (place : ErrorPlace) :
    State → Host.Outcome State Fault Refusal :=
  event (fun s =>
    let s := { s with uecnt := s.uecnt + 1 }
    let part := recordPart p.toNat unit.toNat
    match place with
    | .line a =>
      let word := loc.toNat / 32
      if 2 ≤ unit.toNat / 4096 && word / 4 = a.toNat then
        { s with poison := aset false s.poison word true }.postError part 1 unit.toNat loc
      else ((s.sharers a.toNat).foldl (fun s l => s.setPoison (.phys (128 * l) false .none) 128) s).postError part 1
        unit.toNat loc
    | .sram core word => (s.markBank core.toNat (4 * word.toNat) 4).postError part 1 unit.toNat loc
    | .control => (s.postUnrecoverable part unit.toNat loc).containUnit p.toNat unit.toNat)

/-! The governor (28 R415). -/

/-- The code after an interval, of average power and hottest die (28 R415). -/
def governed (rating cap limit power temp : Nat) : Nat :=
  if 110 ≤ temp then 0
  else if limit < power || 100 ≤ temp || cap < rating then rating - 1
  else if power + 50 < limit && temp < 95 && rating < cap then rating + 1
  else rating

/-- GOVERNOR_INTERVAL; an orderly shutdown ends with the power stages off. -/
def execGovernorInterval (power temp : Nat) (flowLost : Bool) : State → Host.Outcome State Fault Refusal :=
  event (fun s =>
    if 115 ≤ temp || flowLost then
      { (s.postUnrecoverable 0xFF 0x4000 0).resetAll with power := false }
    else { s with rating := governed s.rating s.cap s.limit power temp })

/-! Firmware and quotes (28 R409 to R411). -/

/-- The words of an image. -/
def imageWords (len : Nat) : Nat := (len + 7) / 8
/-- A whole image is staged. -/
def State.staged (s : State) : Bool := s.firmwareLen ≠ 0 && s.firmware.length = imageWords s.firmwareLen
/-- The staged image. -/
def State.image (s : State) : List (BitVec 64) := s.firmware.map Prod.snd
/-- R410 accepts the staged image. -/
def State.imageAccepted (s : State) : Bool :=
  Config.imageValid s.image && s.rollback.toNat ≤ (Config.imageVersion s.image).toNat

/-- FIRMWARE_CHUNK (25 R391; 28 R409): a chunk at offset 0 begins an image; a whole one is verified at the next start,
and in recovery at once. -/
def execFirmwareChunk (off len : BitVec 32) (data : List (BitVec 64)) : State → Host.Outcome State Fault Refusal :=
  event (fun s =>
    let k := off.toNat / 8
    let n := len.toNat
    if off.toNat % 8 ≠ 0 || n = 0 || data.isEmpty || 4096 < data.length || imageWords n < k + data.length ||
        (k ≠ 0 && n ≠ s.firmwareLen) then s.send 0x1F [2]
    else
      let old := if k = 0 then [] else s.firmware
      let new := ((List.range data.length).zip data).foldl (fun m x => aput m (k + x.1) x.2) old
      let s := { s with firmware := new, firmwareLen := n }
      if !s.staged then s.send 0x1F [0]
      else if s.recovery && !s.imageAccepted then { s with firmware := [], firmwareLen := 0 }.send 0x1F [3]
      else s.send 0x1F [1])

/-- The words of a value, the lowest first. -/
def valueWords {w : Nat} (v : BitVec w) (n : Nat) : List Word := (List.range n).map (fun k => bf v.toNat (64 * k) 64)

/-- The words of a digest, its first byte the lowest of the first word. -/
def digestWords (m : BitVec 256) : List Word := (List.range 4).map (fun k => wordOf 64 (((bytesOf m).reverse.drop (8 * k)).take 8))

/-- QUOTE_REQUEST (28 R411; 25 R391): the nonce, M0 to M3, STARTSTAT, and the signature over them. -/
def execQuoteRequest (nonce : BitVec 256) : State → Host.Outcome State Fault Refusal :=
  event (fun s =>
    let body := valueWords nonce 4 ++ ((s.measure.map digestWords).flatten) ++
      [BitVec.ofNat 64 (s.startstat.toNat % 2 ^ 16)]
    let sig := Config.quoteSign ((body.map bytesOf).flatten)
    s.send 0x1D (body ++ (chunks 8 2136 sig).map (fun b => wordOf 64 b)))

/-! Repair (27 R407). -/

/-- A bit of HEALTH. -/
def State.healthBit (s : State) (k : Nat) : State := { s with health := s.health ||| BitVec.ofNat 64 (2 ^ k) }

/-- A failed core: the die's spare takes its place, or its berth is marked off. With the spare in use the die has none
left. -/
def State.repairCore (s : State) (c : Nat) : State :=
  let d := dieOf c
  if s.health.getLsbD (28 + d) then (s.healthBit (48 + crewOf c)).requestReplacement
  else ((s.healthBit (28 + d)).postError 0xFF 4 c (BitVec.ofNat 64 c)).requestReplacement

/-- A channel that cannot hold data is dropped, and its berth marked off. -/
def State.dropChannel (s : State) (ch : Nat) : State :=
  if aget false s.dropped ch then s
  else
    let berth := 4 * (ch / 96) + ch % 32 / 8
    let s := s.healthBit (48 + berth)
    -- the 256th channel and those after it leave CHDROP at 255 (assumption log 35)
    let n := min 255 (fld s.health.toNat 32 8 + 1)
    let h := s.health.toNat - fld s.health.toNat 32 8 * 2 ^ 32 + n * 2 ^ 32
    let s := { s with health := BitVec.ofNat 64 h, dropped := aset false s.dropped ch true }
    (s.postError 0xFF 5 (2 * 4096 + ch) (BitVec.ofNat 64 ch)).requestReplacement

/-- Applies the repair record. -/
def State.repair (s : State) : State :=
  let s := ((List.range 64).filter (fun c => aget false s.hurt c)).foldl (fun s c => s.repairCore c) s
  let s := ((List.range 384).filter (fun ch => aget false s.hurt (2 * 4096 + ch))).foldl (fun s ch => s.dropChannel ch) s
  { s with hurt := [] }

/-! The start sequence (28 R408). -/

/-- A built-in self-test marks the cores and the channels that fail it. -/
def State.selfTest (s : State) : State :=
  let h := ((List.range 64).filter (Config.selfTestFails s.tick)).foldl (fun m c => aset false m c true) s.hurt
  let h := ((List.range 384).filter (Config.channelFails s.tick)).foldl
    (fun m ch => aset false m (2 * 4096 + ch) true) h
  { s with hurt := h, tick := s.tick + 1 }

/-- A port before step 6: a warm start keeps what a repair counts and the switch points (assumption log 35). -/
def Port.started (q : Port) (cold : Bool) : Port :=
  if cold then Port.reset
  else { Port.reset with
    downs := q.downs, retrain := q.retrain, errors := q.errors,
    tx := { LinkStream.reset with switchPoint := q.tx.switchPoint },
    rx := { LinkStream.reset with switchPoint := q.rx.switchPoint } }

/-- A port at step 6 of the start numbered `n`: it trains in full with a far end that answers and verifies, and stays down
else (28 R408, R413; 25 R395). -/
def Port.trained (q : Port) (n k : Nat) (epoch : BitVec 64) : Port :=
  match Config.farEnd n k with
  | some e => if Config.peerVerifies k e then q.fresh n e epoch else q
  | none => q

/-- The digest of the identity key that each port's far end has shown at step 6 of the start numbered `n`, zero for a port
that stayed down (28 R411). -/
def peerDigests (ports : List (Nat × Port)) (n : Nat) : List (BitVec 256) :=
  (List.range 13).map (fun k =>
    if (aget Port.reset ports k).st = 2 then sha256 (Config.peerKey (n + 2 * k) k) else 0)

/-- The version of the image that runs. -/
def State.version (s : State) : Nat := (Config.imageVersion (imageOf s.running)).toNat

/-- No context runs and no partition exists: every register, cox and bank of theirs is at reset (28 R408). -/
def State.idleAll (s : State) : State :=
  { s with
    ctx := .reset, core := .reset, coreId := 0, ctxId := 0, ctxs := [], cores := [], parts := [], dies := [],
    cePosted := [], latch := none }

/-- The image that runs after step 1: a whole staged one, which step 1 has verified, else the one that ran. -/
def State.nextImage (s : State) : List Word := if s.staged then s.image else s.running

/-- One step of a start; steps 1, 3 and 6 take the digests of what they verify and apply (28 R411). -/
def State.startStep (s : State) (cold : Bool) : Nat → State
  | 1 => { s with running := s.nextImage, digests := imageDigests s.nextImage }
  | 2 => if cold then s.selfTest else s
  | 3 => { s with digests := s.digests ++ [repairDigest s.health s.hurt s.dropped s.sev3] }.repair
  | 5 => if cold then
      { s with mem := [], poison := [], cecnt := 0, uecnt := 0 }
    else s
  | 6 =>
    let epoch := Config.randomEpoch s.tick
    let ports := (List.range 13).foldl
      (fun m k => aset Port.reset m k (((s.getPort k).started cold).trained (s.tick + 2 * k) k epoch)) []
    -- the rest of a message in part sealed is lost with the flits before it (25 R395)
    { s with
      ports := ports, epoch := epoch, digests := s.digests ++ peerDigests ports s.tick, tick := s.tick + 26,
      out := s.out.filter (fun m => m.sealed = 0) }
  | 7 => { s with measure := startMeasure s.digests }
  | 8 => s.idleAll
  | _ => s

/-- What a start ends before its first step: a warm one, every task with status 0x42; a cold one, everything that
no supply keeps, but for the messages of a failed attempt before it: the records and the notice of its repair (27 R407). -/
def State.beginStart (s : State) (cold : Bool) (failed : Nat) : State :=
  if cold then { s.idleAll with
    out := if failed = 0 then [] else s.out, wire := [], sev3 := [], rating := 12, cap := 12, limit := 2000, recovery := false, power := true }
  else { s.resetAll.drainWrites.idleAll with recovery := false }

/-- STARTSTAT (28 R409). -/
def startStatus (version last attempts failStep : Nat) : Word :=
  BitVec.ofNat 64 (version * 2 ^ 8 + last * 2 ^ 6 + attempts * 2 ^ 4 + failStep)

/-- Attempts of a start: `failed` have failed before, the last at a step; `left` remain (28 R409). A whole image that
is refused fails step 1; which other step fails is open (assumption log 10). -/
def State.attempts (s : State) (cold : Bool) (failed failStep : Nat) : Nat → State
  | 0 =>
    { s with recovery := true, startstat := startStatus s.version 2 failed failStep }
  | left + 1 =>
    let s := s.beginStart cold failed
    let open_ := Config.startFails s.tick % 9
    -- a warm start skips step 2
    let stop := if s.staged && !s.imageAccepted then 1 else if !cold && open_ = 2 then 0 else open_
    -- step 1 zeroes the measurements, even where it fails
    let s := { s with tick := s.tick + 1, measure := [0, 0, 0, 0], digests := [] }
    let run := [1, 2, 3, 4, 5, 6, 7, 8].filter (fun k => stop = 0 || k < stop)
    let s := run.foldl (fun s k => s.startStep cold k) s
    if stop = 0 then
      -- the image that runs, staged or not, was accepted at step 1 of some attempt (28 R410)
      let s := { s with
        startstat := startStatus s.version (if cold then 0 else 1) failed failStep,
        rollback := BitVec.ofNat 8 (max s.rollback.toNat s.version) }
      if s.staged then { s with firmware := [], firmwareLen := 0 } else s
    else s.attempts true (failed + 1) stop left

/-- POWER_ON: power comes back, and a cold start runs (28 R408). -/
def execPowerOn : State → Host.Outcome State Fault Refusal :=
  event (fun s => if s.power then s else s.attempts true 0 0 3)

/-- RESTART_COLD (28 R409). -/
def execRestartCold : State → Host.Outcome State Fault Refusal := event (fun s => s.attempts true 0 0 3)

/-- RESTART_WARM (28 R409). -/
def execRestartWarm : State → Host.Outcome State Fault Refusal := event (fun s => s.attempts false 0 0 3)

end Sys2Proof.Machine
end

