-- ==== Sys2Proof/Machine/StreamSlot.lean ====
section
/-! DEFINITION. Streams: sparse levels, their readings, and the A-slot instructions that open, walk, intersect
and unite fibres (18 R311 to R325). -/

namespace Sys2Proof.Machine

/-- The private copy of a descriptor (18 R312). -/
structure Level where
  ext : Nat
  posb : Word
  crdb : Word
  valb : Word
  deriving DecidableEq, Repr

/-- A stream as an instruction works on it: its register, its state and level, and the coordinates known by
position (18 R322). -/
structure Walk where
  q : Nat
  st : Stream
  lv : Level
  seen : List (Nat × Nat)
  deriving DecidableEq, Repr

/-- MALFORMED with its record: the stream is parked (18 R322). -/
def malformed (q reason x v : Nat) : Stop :=
  .trap cMALFORMED [BitVec.ofNat 64 q, BitVec.ofNat 64 reason, BitVec.ofNat 64 x, BitVec.ofNat 64 v] (.park q)

/-! Readings (18 R316, R323, R325). -/

/-- Where a reading for stream q lies. -/
def State.readingPlace (s : State) (q : Nat) (a : Word) (n : Nat) : Except Stop (Loc × State) :=
  match s.resolve a n .load 4 with
  | .error (.host c va k _) => .error (.host c va k (some q))
  | .error e => .error e
  | .ok r => .ok r

/-- Reads a unit whose turn has come. -/
def State.readNow (s : State) (l : Loc) (n : Nat) : Except Stop (Nat × State) := do
  require (!(s.readBad s.coreId l n)) (.poison (s.poisonPlace l n))
  let x := s.readUnit s.coreId l n
  .ok (ofBytes x.1, x.2)

/-- A reading of n bytes for stream q that the instruction goes on from: a load, whose turn has come when every earlier load
is performed (14 R281); it waits as a block (assumption log 27). -/
def State.reading (s : State) (q : Nat) (a : Word) (n : Nat) : Except Stop (Nat × State) := do
  let r ← s.readingPlace q a n
  require (r.2.loadTurn [(some r.1, n)]) .block
  r.2.readNow r.1 n

/-- An entry of the position array. -/
def State.posAt (s : State) (w : Walk) (p : Nat) : Except Stop (Nat × State) :=
  let n := if w.st.pw then 8 else 4
  s.reading w.q (w.lv.posb + BitVec.ofNat 64 (p * n)) n

/-- An entry of the coordinate array, below the extent. -/
def State.crdAt (s : State) (w : Walk) (x : Nat) : Except Stop (Nat × State) := do
  let n := if w.st.cw then 4 else 2
  let r ← s.reading w.q (w.lv.crdb + BitVec.ofNat 64 (x * n)) n
  require (r.1 < w.lv.ext) (malformed w.q 2 x r.1)
  .ok r

/-- A coordinate of a compressed level: above those known at lower positions, and below those known at higher ones, else
the higher of the two positions fails the check (18 R322; assumption log 27). -/
def State.crdUp (s : State) (w : Walk) (x : Nat) : Except Stop (Nat × Walk × State) := do
  let r ← s.crdAt w x
  require (w.seen.all (fun p => x ≤ p.1 || p.2 < r.1)) (malformed w.q 1 x r.1)
  match w.seen.find? (fun p => x < p.1 && p.2 ≤ r.1) with
  | some p => .error (malformed w.q 1 p.1 p.2)
  | none => .ok ()
  .ok (r.1, { w with seen := w.seen ++ [(x, r.1)] }, r.2)

/-! Bitmaps: the next set bits take the next positions in turn. -/

/-- Takes bits in turn until one is at least t: the position and bit found, or the next free position. -/
def takeBits (w : Walk) (t next : Nat) : List Nat → Except Stop (Option (Nat × Nat) × Nat)
  | [] => .ok (none, next)
  | b :: bs =>
    if w.st.fend ≤ next then .error (malformed w.q 4 next b)
    else if t ≤ b then .ok (some (next, b), next)
    else takeBits w t (next + 1) bs

/-- Scans n words from word j on, for bits from `low` up. -/
def State.scanBits (s : State) (w : Walk) (low t next j : Nat) :
    Nat → Except Stop (Option (Nat × Nat) × State)
  | 0 => if next < w.st.fend then .error (malformed w.q 4 next 0) else .ok (none, s)
  | n + 1 => do
    let words := (w.lv.ext + 63) / 64
    let r ← s.reading w.q (w.lv.crdb + BitVec.ofNat 64 (8 * (words * w.st.fbase + j))) 8
    require (!(j + 1 = words && r.1 / 2 ^ (w.lv.ext - 64 * j) ≠ 0)) (malformed w.q 2 w.st.pos r.1)
    let bits := ((List.range 64).filter (fun i => r.1.testBit i && decide (low ≤ 64 * j + i))).map (fun i => 64 * j + i)
    let f ← takeBits w t next bits
    match f.1 with
    | some x => .ok (some x, r.2)
    | none => r.2.scanBits w low t f.2 (j + 1) n

/-- The least position from `next` on whose coordinate is at least t, among bits from `low` up. -/
def State.findBit (s : State) (w : Walk) (low t next : Nat) : Except Stop (Option (Nat × Nat) × State) :=
  s.scanBits w low t next (low / 64) ((w.lv.ext + 63) / 64 - low / 64)

/-! Moves and searches (18 R316, R318). -/

/-- Sets the current element, or END. -/
def Walk.goto (w : Walk) : Option (Nat × Nat) → Walk
  | some (x, c) => { w with st := { w.st with pos := x, coord := c } }
  | none => { w with st := { w.st with pos := w.st.fend, ended := true } }

/-- Moves to the next element. -/
def State.move (s : State) (w : Walk) : Except Stop (Walk × State) :=
  let x := w.st.pos + 1
  if w.st.ended then .ok (w, s)
  else match w.st.kind.toNat with
  | 0 => .ok (w.goto (if x < w.st.fend then some (x, x - w.st.fbase) else none), s)
  | 1 =>
    if x < w.st.fend then do
      let r ← s.crdUp w x
      .ok (r.2.1.goto (some (x, r.1)), r.2.2)
    else .ok (w.goto none, s)
  | 2 => do
    let r ← s.findBit w (w.st.coord + 1) 0 x
    .ok (w.goto r.1, r.2)
  | _ => .ok (w.goto none, s)

/-- Binary search between a position too low and one that will do. -/
def State.bisect (s : State) (w : Walk) (t lo hi ch : Nat) : Nat → Except Stop ((Nat × Nat) × Walk × State)
  | 0 => .ok ((hi, ch), w, s)
  | n + 1 =>
    if hi ≤ lo + 1 then .ok ((hi, ch), w, s)
    else do
      let m := (lo + hi) / 2
      let r ← s.crdUp w m
      if t ≤ r.1 then r.2.2.bisect r.2.1 t lo m r.1 n else r.2.2.bisect r.2.1 t m hi ch n

/-- Galloping search from a position on: probes at distances that double. -/
def State.gallop (s : State) (w : Walk) (t lo d : Nat) : Nat → Except Stop (Option (Nat × Nat) × Walk × State)
  | 0 => .ok (none, w, s)
  | n + 1 =>
    let x := Nat.min (w.st.pos + d) (w.st.fend - 1)
    if x ≤ lo then .ok (none, w, s)
    else do
      let r ← s.crdUp w x
      if t ≤ r.1 then do
        let b ← r.2.2.bisect r.2.1 t lo x r.1 64
        .ok (some b.1, b.2.1, b.2.2)
      else r.2.2.gallop r.2.1 t x (2 * d) n

/-- Searches after the current element for the least coordinate that is at least t. -/
def State.search (s : State) (w : Walk) (t : Nat) : Except Stop (Walk × State) :=
  if w.st.ended || w.lv.ext ≤ t then .ok (w.goto none, s)
  else match w.st.kind.toNat with
  | 0 =>
    let x := Nat.max (w.st.pos + 1) (w.st.fbase + t)
    .ok (w.goto (if x < w.st.fend then some (x, x - w.st.fbase) else none), s)
  | 1 => do
    let r ← s.gallop w t w.st.pos 1 64
    .ok (r.2.1.goto r.1, r.2.2)
  | 2 => do
    let r ← s.findBit w (w.st.coord + 1) t (w.st.pos + 1)
    .ok (w.goto r.1, r.2)
  | _ => .ok (w.goto none, s)

/-! Opening (18 R313, R317). -/

/-- A valid descriptor (18 R312). -/
def descriptorOk (d : Nat) : Bool :=
  let mode := fld d 0 8
  let kind := mode % 4
  let cw := mode.testBit 2
  let pw := mode.testBit 3
  let ext := fld d 32 32
  let pb := fld d 64 64
  let cb := fld d 128 64
  mode / 16 = 0 && fld d 10 6 = 0 && fld d 16 16 = 0 && fld d 256 256 = 0 && ext ≠ 0 && (cw || ext ≤ 65536) &&
    pb % (if pw then 8 else 4) = 0 && cb % (if kind = 2 then 8 else if cw then 4 else 2) = 0 &&
    fld d 192 64 % 2 ^ fld d 8 2 = 0 && (kind = 1 || kind = 2 || pb = 0) && (kind ≠ 0 || cb = 0)

/-- A closed stream with the mode fields and private copy of a descriptor. -/
def describe (desc : Word) (d : Nat) : Stream :=
  { Stream.reset with
    desc := desc, kind := BitVec.ofNat 2 d, cw := d.testBit 2, pw := d.testBit 3, es := BitVec.ofNat 2 (fld d 8 2),
    copy := some [BitVec.ofNat 64 (fld d 32 32), BitVec.ofNat 64 (fld d 64 64), BitVec.ofNat 64 (fld d 128 64),
      BitVec.ofNat 64 (fld d 192 64)] }

/-- The level of a stream's private copy. -/
def levelOf : Option (List Word) → Level
  | some [e, p, c, v] => ⟨e.toNat, p, c, v⟩
  | _ => ⟨1, 0, 0, 0⟩

/-- Reads and validates a descriptor for stream q. -/
def State.descriptor (s : State) (q : Nat) (a : Word) : Except Stop (Stream × State) := do
  require (a.toNat % 64 = 0) (trapR cALIGN [a])
  let r ← s.reading q a 64
  require (descriptorOk r.1) (malformed q 5 a.toNat (r.1 % 256))
  .ok (describe a r.1, r.2)

/-- Opens stream q for a parent position. -/
def State.openStream (s : State) (q : Nat) (a : Word) (p : Nat) : Except Stop (Walk × State) := do
  let d ← s.descriptor q a
  let w : Walk := ⟨q, d.1, levelOf d.1.copy, []⟩
  let kind := d.1.kind.toNat
  let b ← (if kind = 0 then .ok ((p * w.lv.ext, p * w.lv.ext + w.lv.ext), d.2)
    else if kind = 3 then .ok ((p, p + 1), d.2)
    else do
      let x ← d.2.posAt w p
      let y ← x.2.posAt w (p + 1)
      .ok ((x.1, y.1), y.2) : Except Stop ((Nat × Nat) × State))
  let lo := b.1.1
  let hi := b.1.2
  require (lo ≤ hi) (malformed q 3 (p + 1) hi)
  require (lo < 2 ^ 48) (malformed q 6 p lo)
  require (hi < 2 ^ 48) (malformed q 6 (p + 1) hi)
  let w := { w with st := { w.st with opened := true, pos := lo, fend := hi, fbase := if kind = 2 then p else lo } }
  if lo = hi then .ok ({ w with st := { w.st with ended := true } }, b.2)
  else
    let w := { w with st := { w.st with held := true } }
    match kind with
    | 0 => .ok (w, b.2)
    | 2 => do
      let r ← b.2.findBit w 0 0 lo
      .ok (w.goto r.1, r.2)
    | _ => do
      let r ← b.2.crdAt w lo
      .ok (w.goto (some (lo, r.1)), r.2)

/-- A restored stream's descriptor is read again by the first instruction that names it (18 R324). -/
def State.renew (s : State) (q : Nat) : Except Stop State :=
  let st := aget Stream.reset s.ctx.streams q
  if !st.opened || st.copy.isSome then .ok s
  else do
    let d ← s.settle.descriptor q st.desc
    let st := { st with
      kind := d.1.kind, cw := d.1.cw, pw := d.1.pw, es := d.1.es, copy := d.1.copy }
    .ok { d.2 with ctx := { d.2.ctx with streams := aput d.2.ctx.streams q st } }

/-- Takes an open stream up. -/
def State.takeUp (s : State) (q : Nat) : Except Stop (Walk × State) := do
  require (aget Stream.reset s.ctx.streams q).opened (trapSlot cILLI 2)
  let s ← s.renew q
  let st := { aget Stream.reset s.ctx.streams q with parked := false }
  .ok (⟨q, st, levelOf st.copy, if st.ended then [] else [(st.pos, st.coord)]⟩, s)

/-- Puts a stream back. -/
def State.putStream (s : State) (w : Walk) : State :=
  { s with ctx := { s.ctx with streams := aset Stream.reset s.ctx.streams w.q w.st } }

/-! Delivery (18 R316). -/

/-- The end marker. -/
def endMarker : Word := BitVec.allOnes 64

/-- An entry that is delivered: its word, or the unit that is still to be read for it. -/
abbrev Delivery := Option Word × List (Option Loc × Nat)

/-- The entry of a known word. -/
def known (v : Word) : Delivery := (some v, [])

/-- The position of the current element, or its value: a load whose turn has not come waits in its place, and the
instruction does not wait for it (18 R316, R325; 14 R281). -/
def State.entryOf (s : State) (w : Walk) (val : Bool) : Except Stop (Delivery × State) :=
  if val then do
    let n := 2 ^ w.st.es.toNat
    let r ← s.readingPlace w.q (w.lv.valb + BitVec.ofNat 64 (w.st.pos * n)) n
    if r.2.loadTurn [(some r.1, n)] then
      let x ← r.2.readNow r.1 n
      .ok (known (BitVec.ofNat 64 x.1), x.2)
    else .ok ((none, [(some r.1, n)]), r.2)
  else .ok (known (BitVec.ofNat 64 w.st.pos), s)

/-- Pushes entries, together, behind earlier loads (18 R316). -/
def State.deliverAll (s : State) (ds : List Delivery) : State :=
  (if ds.all (fun d => d.1.isSome) then s.pushLoad (.ready (ds.filterMap (fun d => d.1.map QEntry.scalar))) []
   else s.pushLoad (.stream (ds.map Prod.fst)) (ds.flatMap Prod.snd)).settle

/-- The current element of one stream, or markers. -/
def State.deliverOne (s : State) (w : Walk) (val nc : Bool) : Except Stop State :=
  if w.st.ended then
    .ok ((s.putStream w).deliverAll (List.replicate (if nc then 1 else 2) (known endMarker)))
  else do
    let e ← s.entryOf w val
    .ok ((e.2.putStream w).deliverAll ((if nc then [] else [known (BitVec.ofNat 64 w.st.coord)]) ++ [e.1]))

/-- Clears H. -/
def Walk.release (w : Walk) : Walk := { w with st := { w.st with held := false } }

/-! The instructions. -/

/-- QOPEN. -/
def execQopen (qn : BitVec 3) (an : BitVec 4) (sp : BitVec 6) : State → Host.Outcome State Fault Refusal :=
  run (fun s => do
    let p ← s.readS 2 sp
    p.2.addressRoom
    let w ← p.2.settle.openStream qn.toNat (s.readA an) p.1.toNat
    .ok (w.2.putStream w.1))

/-- QDOWN: the parent's position is read at issue; a parent that was restored is taken up first (18 R324). -/
def execQdown (qn qp : BitVec 3) (an : BitVec 4) : State → Host.Outcome State Fault Refusal :=
  run (fun s => do
    let u := aget Stream.reset s.ctx.streams qp.toNat
    require (u.opened && !u.ended) (trapSlot cILLI 2)
    s.addressRoom
    let s ← s.renew qp.toNat
    let w ← s.settle.openStream qn.toNat (s.readA an) u.pos
    .ok (w.2.putStream w.1))

/-- QNEXT (18 R318). -/
def execQnext (qn : BitVec 3) (val nc : BitVec 1) : State → Host.Outcome State Fault Refusal :=
  run (fun s => do
    s.addressRoom
    let w ← s.settle.takeUp qn.toNat
    let m ← if w.1.st.held then .ok (w.1.release, w.2) else w.2.move w.1
    m.2.deliverOne m.1 (val = 1) (nc = 1))

/-- QSKIP (18 R318). -/
def execQskip (qn : BitVec 3) (st : BitVec 6) (val nc : BitVec 1) : State → Host.Outcome State Fault Refusal :=
  run (fun s => do
    let t ← s.readS 2 st
    t.2.addressRoom
    let w ← t.2.settle.takeUp qn.toNat
    let m ← if w.1.st.ended || (w.1.st.held && t.1.toNat ≤ w.1.st.coord) then .ok w else w.2.search w.1 t.1.toNat
    -- H changes only when an element is delivered
    m.2.deliverOne (if m.1.st.ended then m.1 else m.1.release) (val = 1) (nc = 1))

/-- Two streams of one extent, each at its candidate (18 R319, R320). -/
def State.candidates (s : State) (qa qb : BitVec 3) : Except Stop (Walk × Walk × State) := do
  require (qa ≠ qb) (trapSlot cILLI 2)
  s.addressRoom
  let a ← s.settle.takeUp qa.toNat
  let b ← a.2.takeUp qb.toNat
  require (a.1.lv.ext = b.1.lv.ext) (trapSlot cILLI 2)
  let m ← if a.1.st.held then .ok (a.1, b.2) else b.2.move a.1
  let n ← if b.1.st.held then .ok (b.1, m.2) else m.2.move b.1
  .ok (m.1, n.1, n.2)

/-- Searches until the coordinates agree or a fibre ends; n bounds the searches. -/
def State.meet (s : State) (a b : Walk) : Nat → Except Stop (Walk × Walk × State)
  | 0 => .ok (a, b, s)
  | n + 1 =>
    if a.st.ended || b.st.ended || a.st.coord = b.st.coord then .ok (a, b, s)
    else if a.st.coord < b.st.coord then do
      let r ← s.search a b.st.coord
      r.2.meet r.1 b n
    else do
      let r ← s.search b a.st.coord
      r.2.meet a r.1 n

/-- The markers of a merged element. -/
def markers (np nc : Bool) : List Delivery :=
  List.replicate ((if nc then 0 else 1) + 2 + (if np then 0 else 1)) (known endMarker)

/-- QAND (18 R319). -/
def execQand (qa qb : BitVec 3) (np val nc : BitVec 1) : State → Host.Outcome State Fault Refusal :=
  run (fun s => do
    let c ← s.candidates qa qb
    let m ← c.2.2.meet c.1 c.2.1 (2 * c.1.lv.ext + 2)
    let a := m.1
    let b := m.2.1
    let put := fun (s : State) (a b : Walk) => (s.putStream a).putStream b
    if a.st.ended || b.st.ended then
      let hold := fun (w : Walk) => { w with st := { w.st with held := !w.st.ended } }
      .ok ((put m.2.2 (hold a) (hold b)).deliverAll (markers (np = 1) (nc = 1)))
    else
      let x ← m.2.2.entryOf a (val = 1)
      let y ← x.2.entryOf b (val = 1)
      .ok ((put y.2 a.release b.release).deliverAll
        ((if nc = 1 then [] else [known (BitVec.ofNat 64 a.st.coord)]) ++ [x.1, y.1] ++
          (if np = 1 then [] else [known 3]))))

/-- QOR (18 R320). -/
def execQor (qa qb : BitVec 3) (np val nc : BitVec 1) : State → Host.Outcome State Fault Refusal :=
  run (fun s => do
    let m ← s.candidates qa qb
    let a := m.1
    let b := m.2.1
    let put := fun (s : State) (a b : Walk) => (s.putStream a).putStream b
    if a.st.ended && b.st.ended then .ok ((put m.2.2 a b).deliverAll (markers (np = 1) (nc = 1)))
    else
      let c := if a.st.ended then b.st.coord else if b.st.ended then a.st.coord else Nat.min a.st.coord b.st.coord
      let has := fun (w : Walk) => !w.st.ended && w.st.coord = c
      let give := fun (s : State) (w : Walk) => if has w then s.entryOf w (val = 1) else .ok (known endMarker, s)
      let x ← give m.2.2 a
      let y ← give x.2 b
      let hold := fun (w : Walk) => { w with st := { w.st with held := !w.st.ended && w.st.coord ≠ c } }
      let bits : Word := BitVec.ofNat 64 ((if has a then 1 else 0) + (if has b then 2 else 0))
      .ok ((put y.2 (hold a) (hold b)).deliverAll
        ((if nc = 1 then [] else [known (BitVec.ofNat 64 c)]) ++ [x.1, y.1] ++ (if np = 1 then [] else [known bits]))))

/-- QCLOSE (18 R321). -/
def execQclose (qn : BitVec 3) : State → Host.Outcome State Fault Refusal :=
  run (fun s => .ok { s with ctx := { s.ctx with streams := adel s.ctx.streams qn.toNat } })

/-- QSTAT (18 R321): a restored stream's descriptor is read again first (18 R324); PARK stays as it was saved. -/
def execQstat (qn : BitVec 3) (sd : BitVec 6) (pos : BitVec 1) : State → Host.Outcome State Fault Refusal :=
  run (fun s => do
    let old := aget Stream.reset s.ctx.streams qn.toNat
    if old.opened && old.copy.isNone then s.addressRoom
    let s ← s.renew qn.toNat
    let q := aget Stream.reset s.ctx.streams qn.toNat
    let b := fun (x : Bool) (n : Nat) => if x then 2 ^ n else 0
    let v := if !q.opened then 0
      else if pos = 1 then q.pos
      else b true 63 + b q.ended 62 + b q.held 61 + b q.parked 60 + q.kind.toNat * 2 ^ 58 + q.coord
    s.writeS 2 sd (BitVec.ofNat 64 v))

end Sys2Proof.Machine
end

