-- ==== Sys2Proof/Machine/VectorSlot.lean ====
section
/-! DEFINITION. The V slot and the X slot: the named control word issues (08 R144), the moves issue (09 R173 to
R178), and LDT loads tile bytes (09 R177). -/

namespace Sys2Proof.Machine

/-- VH. -/
def execVh (idx : BitVec 9) (roff : BitVec 4) : State → Host.Outcome State Fault Refusal :=
  run (fun s => s.vissue idx.toNat roff.toNat)

/-- XCOPY. -/
def execXcopy (vd vs : BitVec 9) (lgd lgs : BitVec 3) : State → Host.Outcome State Fault Refusal :=
  run (fun s => s.xissue (.xcopy vd vs lgd lgs))
/-- XBCAST. -/
def execXbcast (vd vs : BitVec 9) (lgs : BitVec 3) : State → Host.Outcome State Fault Refusal :=
  run (fun s => s.xissue (.xbcast vd vs lgs))
/-- TWROW. -/
def execTwrow (t : BitVec 4) (row : BitVec 7) (vs : BitVec 9) : State → Host.Outcome State Fault Refusal :=
  run (fun s => s.xissue (.twrow t row vs))
/-- TRCOL. -/
def execTrcol (vd : BitVec 9) (t : BitVec 4) (col : BitVec 7) : State → Host.Outcome State Fault Refusal :=
  run (fun s => s.xissue (.trcol vd t col))
/-- TRROW. -/
def execTrrow (vd : BitVec 9) (t : BitVec 4) (row : BitVec 7) : State → Host.Outcome State Fault Refusal :=
  run (fun s => s.xissue (.trrow vd t row))
/-- TUNPK. -/
def execTunpk (td ts : BitVec 4) : State → Host.Outcome State Fault Refusal :=
  run (fun s => s.xissue (.tunpk td ts))
/-- MOVVS. -/
def execMovvs (sd : BitVec 6) (vs : BitVec 9) (lane : BitVec 7) : State → Host.Outcome State Fault Refusal :=
  run (fun s => s.xissue (.movvs sd vs lane))
/-- MOVSV. -/
def execMovsv (vd : BitVec 9) (sa : BitVec 6) (lane : BitVec 7) : State → Host.Outcome State Fault Refusal :=
  run (fun s => s.xissue (.movsv vd sa lane))

/-- The plane of a tile that an LDT size selects: its first byte, its pitch and its size (09 R177). -/
def Shape.plane (h : Shape) (size : Nat) : Option (Nat × Nat × Nat) :=
  if h.type = 0x10 then
    if size = 0 then some (0, h.pitch, h.rows * h.pitch)
    else if size = 1 then some (h.rows * h.pitch, h.scalePitch, h.rows * h.scalePitch)
    else none
  else if 1 ≤ size && typeWidth h.type = 4 * 2 ^ size then some (0, h.pitch, h.rows * h.pitch)
  else none

/-- LDT (09 R177): a load of the context, each of its elements a unit. -/
def execLdt (t an : BitVec 4) (row : BitVec 7) (blk : BitVec 4) (size : BitVec 3) (_inc : BitVec 5) :
    State → Host.Outcome State Fault Refusal :=
  run (fun s => do
    let ph ← s.tphys t.toNat
    let h := s.shape t.toNat
    match h.plane size.toNat with
    | none => .error illX
    | some (first, pitch, total) =>
      require (row.toNat < h.rows) illX
      let w := Nat.max 1 (2 ^ size.toNat / 2)
      let a := s.readA an + BitVec.ofNat 64 (row.toNat * pitch)
      require (a.toNat % w = 0) (trapR cALIGN [a])
      let n := Nat.min ((blk.toNat + 1) * 64) (total - row.toNat * pitch)
      let u ← (List.range (n / w)).foldlM (fun (q : List (Option Loc × Nat) × State) e => do
        let r ← q.2.resolve (a + BitVec.ofNat 64 (e * w)) w .load 1
        .ok (q.1 ++ [(some r.1, w)], r.2)) ([], s)
      .ok (u.2.pushLoad (.tile (ph * 16384 + first + row.toNat * pitch)) u.1))

end Sys2Proof.Machine
end

