-- ==== Sys2Proof/Machine/Dispatch.lean ====
section
/-! DEFINITION. What each instruction and event does: one arm a constructor, one call an arm. -/

namespace Sys2Proof.Machine

/-- The meaning of an instruction or event. -/
def exec (i : Instr) (s : State) : Host.Outcome State Fault Refusal :=
  match i with
  | .nop => Sys2Proof.Machine.execNop s
  | .br off => Sys2Proof.Machine.execBr off s
  | .call off => Sys2Proof.Machine.execCall off s
  | .bc cond sa off => Sys2Proof.Machine.execBc cond sa off s
  | .jr sa => Sys2Proof.Machine.execJr sa s
  | .callr sa => Sys2Proof.Machine.execCallr sa s
  | .ret => Sys2Proof.Machine.execRet s
  | .loop sa cnt len => Sys2Proof.Machine.execLoop sa cnt len s
  | .lbreak n => Sys2Proof.Machine.execLbreak n s
  | .setfmt imm => Sys2Proof.Machine.execSetfmt imm s
  | .sleepu sa => Sys2Proof.Machine.execSleepu sa s
  | .yield => Sys2Proof.Machine.execYield s
  | .phint groups => Sys2Proof.Machine.execPhint groups s
  | .trap imm => Sys2Proof.Machine.execTrap imm s
  | .eret => Sys2Proof.Machine.execEret s
  | .halt => Sys2Proof.Machine.execHalt s
  | .mwait sd sa => Sys2Proof.Machine.execMwait sd sa s
  | .add sd sa sb => Sys2Proof.Machine.execAdd sd sa sb s
  | .sub sd sa sb => Sys2Proof.Machine.execSub sd sa sb s
  | .mul sd sa sb => Sys2Proof.Machine.execMul sd sa sb s
  | .mulh sd sa sb => Sys2Proof.Machine.execMulh sd sa sb s
  | .mulhu sd sa sb => Sys2Proof.Machine.execMulhu sd sa sb s
  | .div sd sa sb => Sys2Proof.Machine.execDiv sd sa sb s
  | .divu sd sa sb => Sys2Proof.Machine.execDivu sd sa sb s
  | .rem sd sa sb => Sys2Proof.Machine.execRem sd sa sb s
  | .remu sd sa sb => Sys2Proof.Machine.execRemu sd sa sb s
  | .and sd sa sb => Sys2Proof.Machine.execAnd sd sa sb s
  | .or sd sa sb => Sys2Proof.Machine.execOr sd sa sb s
  | .xor sd sa sb => Sys2Proof.Machine.execXor sd sa sb s
  | .andn sd sa sb => Sys2Proof.Machine.execAndn sd sa sb s
  | .shl sd sa sb => Sys2Proof.Machine.execShl sd sa sb s
  | .shr sd sa sb => Sys2Proof.Machine.execShr sd sa sb s
  | .sar sd sa sb => Sys2Proof.Machine.execSar sd sa sb s
  | .rotr sd sa sb => Sys2Proof.Machine.execRotr sd sa sb s
  | .min sd sa sb => Sys2Proof.Machine.execMin sd sa sb s
  | .max sd sa sb => Sys2Proof.Machine.execMax sd sa sb s
  | .minu sd sa sb => Sys2Proof.Machine.execMinu sd sa sb s
  | .maxu sd sa sb => Sys2Proof.Machine.execMaxu sd sa sb s
  | .seq sd sa sb => Sys2Proof.Machine.execSeq sd sa sb s
  | .slt sd sa sb => Sys2Proof.Machine.execSlt sd sa sb s
  | .sltu sd sa sb => Sys2Proof.Machine.execSltu sd sa sb s
  | .selz sd sa sb => Sys2Proof.Machine.execSelz sd sa sb s
  | .clz sd sa => Sys2Proof.Machine.execClz sd sa s
  | .ctz sd sa => Sys2Proof.Machine.execCtz sd sa s
  | .popc sd sa => Sys2Proof.Machine.execPopc sd sa s
  | .brev sd sa => Sys2Proof.Machine.execBrev sd sa s
  | .fshr sd sa sb => Sys2Proof.Machine.execFshr sd sa sb s
  | .addi sd sa imm => Sys2Proof.Machine.execAddi sd sa imm s
  | .andi sd sa imm => Sys2Proof.Machine.execAndi sd sa imm s
  | .ori sd sa imm => Sys2Proof.Machine.execOri sd sa imm s
  | .xori sd sa imm => Sys2Proof.Machine.execXori sd sa imm s
  | .slti sd sa imm => Sys2Proof.Machine.execSlti sd sa imm s
  | .sltiu sd sa imm => Sys2Proof.Machine.execSltiu sd sa imm s
  | .fshri sd sa sb sh => Sys2Proof.Machine.execFshri sd sa sb sh s
  | .shli sd sa sh => Sys2Proof.Machine.execShli sd sa sh s
  | .shri sd sa sh => Sys2Proof.Machine.execShri sd sa sh s
  | .sari sd sa sh => Sys2Proof.Machine.execSari sd sa sh s
  | .muli sd sa imm => Sys2Proof.Machine.execMuli sd sa imm s
  | .sli sd imm => Sys2Proof.Machine.execSli sd imm s
  | .sins sd imm => Sys2Proof.Machine.execSins sd imm s
  | .bfx sd sa pos len => Sys2Proof.Machine.execBfx sd sa pos len s
  | .bfxu sd sa pos len => Sys2Proof.Machine.execBfxu sd sa pos len s
  | .bfi sd sa pos len => Sys2Proof.Machine.execBfi sd sa pos len s
  | .crr sd cr => Sys2Proof.Machine.execCrr sd cr s
  | .crw sa cr => Sys2Proof.Machine.execCrw sa cr s
  | .setvl sd sa vt => Sys2Proof.Machine.execSetvl sd sa vt s
  | .ldq an inc size off => Sys2Proof.Machine.execLdq an inc size off s
  | .stq an inc size off => Sys2Proof.Machine.execStq an inc size off s
  | .ld an sd size sx off => Sys2Proof.Machine.execLd an sd size sx off s
  | .st an sv size off => Sys2Proof.Machine.execSt an sv size off s
  | .vldq an ss ff off inc => Sys2Proof.Machine.execVldq an ss ff off inc s
  | .vstq an ss off inc => Sys2Proof.Machine.execVstq an ss off inc s
  | .vgathq an sb ff vi mode inc => Sys2Proof.Machine.execVgathq an sb ff vi mode inc s
  | .vscatq an sb ff vi mode inc => Sys2Proof.Machine.execVscatq an sb ff vi mode inc s
  | .amo an sd sa op size ord scope => Sys2Proof.Machine.execAmo an sd sa op size ord scope s
  | .amoChunk an sd sa ord scope => Sys2Proof.Machine.execAmoChunk an sd sa ord scope s
  | .ldfe an inc off => Sys2Proof.Machine.execLdfe an inc off s
  | .ldff an inc off => Sys2Proof.Machine.execLdff an inc off s
  | .stef an inc off => Sys2Proof.Machine.execStef an inc off s
  | .femark an sc full off => Sys2Proof.Machine.execFemark an sc full off s
  | .marm an inc size off => Sys2Proof.Machine.execMarm an inc size off s
  | .fence kind scope => Sys2Proof.Machine.execFence kind scope s
  | .pref an inc size off => Sys2Proof.Machine.execPref an inc size off s
  | .qopen qn an sp => Sys2Proof.Machine.execQopen qn an sp s
  | .qnext qn val nc => Sys2Proof.Machine.execQnext qn val nc s
  | .qand qa qb np val nc => Sys2Proof.Machine.execQand qa qb np val nc s
  | .qor qa qb np val nc => Sys2Proof.Machine.execQor qa qb np val nc s
  | .qskip qn st val nc => Sys2Proof.Machine.execQskip qn st val nc s
  | .qdown qn qp an => Sys2Proof.Machine.execQdown qn qp an s
  | .qclose qn => Sys2Proof.Machine.execQclose qn s
  | .qstat qn sd pos => Sys2Proof.Machine.execQstat qn sd pos s
  | .vh idx roff => Sys2Proof.Machine.execVh idx roff s
  | .mbeat p st a w tile row acc arow inc ainc => Sys2Proof.Machine.execMbeat p st a w tile row acc arow inc ainc s
  | .mdrain acc row sram t drow clr ls inc dinc => Sys2Proof.Machine.execMdrain acc row sram t drow clr ls inc dinc s
  | .mdrainOfold acc row sram t clr ls inc => Sys2Proof.Machine.execMdrainOfold acc row sram t clr ls inc s
  | .mgsel g => Sys2Proof.Machine.execMgsel g s
  | .mmode rs => Sys2Proof.Machine.execMmode rs s
  | .mfmt sel => Sys2Proof.Machine.execMfmt sel s
  | .mdrainw => Sys2Proof.Machine.execMdrainw s
  | .mfload t bank => Sys2Proof.Machine.execMfload t bank s
  | .mzero acc => Sys2Proof.Machine.execMzero acc s
  | .mguse slot => Sys2Proof.Machine.execMguse slot s
  | .mrstp => Sys2Proof.Machine.execMrstp s
  | .mrep cnt => Sys2Proof.Machine.execMrep cnt s
  | .xcopy vd vs lgd lgs => Sys2Proof.Machine.execXcopy vd vs lgd lgs s
  | .xbcast vd vs lgs => Sys2Proof.Machine.execXbcast vd vs lgs s
  | .twrow t row vs => Sys2Proof.Machine.execTwrow t row vs s
  | .trcol vd t col => Sys2Proof.Machine.execTrcol vd t col s
  | .trrow vd t row => Sys2Proof.Machine.execTrrow vd t row s
  | .ldt t an row blk size inc => Sys2Proof.Machine.execLdt t an row blk size inc s
  | .tunpk td ts => Sys2Proof.Machine.execTunpk td ts s
  | .movvs sd vs lane => Sys2Proof.Machine.execMovvs sd vs lane s
  | .movsv vd sa lane => Sys2Proof.Machine.execMovsv vd sa lane s
  | .ecfg nset dim fsel val => Sys2Proof.Machine.execEcfg nset dim fsel val s
  | .copy q bar sset dset asrc adst op => Sys2Proof.Machine.execCopy q bar sset dset asrc adst op s
  | .gather q bar nset atab ai ad mode op => Sys2Proof.Machine.execGather q bar nset atab ai ad mode op s
  | .scatter q bar nset atab ai ad mode op => Sys2Proof.Machine.execScatter q bar nset atab ai ad mode op s
  | .nmop q bar nset ad asrc ai op ix => Sys2Proof.Machine.execNmop q bar nset ad asrc ai op ix s
  | .nmfence q bar => Sys2Proof.Machine.execNmfence q bar s
  | .nmopt q bar ap ag am alg cnt => Sys2Proof.Machine.execNmopt q bar ap ag am alg cnt s
  | .qfence q bar mask => Sys2Proof.Machine.execQfence q bar mask s
  | .subscr q bar asrc nset ring first cnt slot => Sys2Proof.Machine.execSubscr q bar asrc nset ring first cnt slot s
  | .slotret q bar ring k => Sys2Proof.Machine.execSlotret q bar ring k s
  | .unsubscr q bar ring => Sys2Proof.Machine.execUnsubscr q bar ring s
  | .hcwld q bar an first cnt => Sys2Proof.Machine.execHcwld q bar an first cnt s
  | .gload q bar an slot => Sys2Proof.Machine.execGload q bar an slot s
  | .floadm q bar an nset bank => Sys2Proof.Machine.execFloadm q bar an nset bank s
  | .pmig q bar an tier pages => Sys2Proof.Machine.execPmig q bar an tier pages s
  | .put q bar al ar peer op nset => Sys2Proof.Machine.execPut q bar al ar peer op nset s
  | .get q bar al ar peer op nset => Sys2Proof.Machine.execGet q bar al ar peer op nset s
  | .phlive chunks tiles accs sgroups => Sys2Proof.Machine.execPhlive chunks tiles accs sgroups s
  | .bankcfg q bar bank mode ring => Sys2Proof.Machine.execBankcfg q bar bank mode ring s
  | .zerom q bar an lines => Sys2Proof.Machine.execZerom q bar an lines s
  | .binit sa cnt => Sys2Proof.Machine.execBinit sa cnt s
  | .barrive sa cnt => Sys2Proof.Machine.execBarrive sa cnt s
  | .bwait sd sa ph tmo => Sys2Proof.Machine.execBwait sd sa ph tmo s
  | .bexpect sa sb => Sys2Proof.Machine.execBexpect sa sb s
  | .sleepb sa => Sys2Proof.Machine.execSleepb sa s
  | .tspawn sd sa => Sys2Proof.Machine.execTspawn sd sa s
  | .tview view sa => Sys2Proof.Machine.execTview view sa s
  | .tend => Sys2Proof.Machine.execTend s
  | .tsuspend sa sb => Sys2Proof.Machine.execTsuspend sa sb s
  | .tsignal sa => Sys2Proof.Machine.execTsignal sa s
  | .tnotify sa => Sys2Proof.Machine.execTnotify sa s
  | .btest sd sa ph => Sys2Proof.Machine.execBtest sd sa ph s
  | .mrepReissue c => Sys2Proof.Machine.execMrepReissue c s
  | .linePad k => Sys2Proof.Machine.execLinePad k s
  | .blockClear k => Sys2Proof.Machine.execBlockClear k s
  | .budgetExhausted k => Sys2Proof.Machine.execBudgetExhausted k s
  | .shadowLand k => Sys2Proof.Machine.execShadowLand k s
  | .loadDataReturn k => Sys2Proof.Machine.execLoadDataReturn k s
  | .storePerform k => Sys2Proof.Machine.execStorePerform k s
  | .vSlotComplete k => Sys2Proof.Machine.execVSlotComplete k s
  | .sleepuTarget k => Sys2Proof.Machine.execSleepuTarget k s
  | .bwaitTimeout k => Sys2Proof.Machine.execBwaitTimeout k s
  | .mwaitTimeout k => Sys2Proof.Machine.execMwaitTimeout k s
  | .sleepbPromiseDue k => Sys2Proof.Machine.execSleepbPromiseDue k s
  | .commandComplete c q => Sys2Proof.Machine.execCommandComplete c q s
  | .engineFault c q => Sys2Proof.Machine.execEngineFault c q s
  | .replayLand k => Sys2Proof.Machine.execReplayLand k s
  | .taskStart k => Sys2Proof.Machine.execTaskStart k s
  | .viewFold p task => Sys2Proof.Machine.execViewFold p task s
  | .dedupProbe d line => Sys2Proof.Machine.execDedupProbe d line s
  | .hotClear d line => Sys2Proof.Machine.execHotClear d line s
  | .moduleWriteApply d => Sys2Proof.Machine.execModuleWriteApply d s
  | .hostMemoryAccess write addr size data => Sys2Proof.Machine.execHostMemoryAccess write addr size data s
  | .riggerFill c ring => Sys2Proof.Machine.execRiggerFill c ring s
  | .groupValidation c slot => Sys2Proof.Machine.execGroupValidation c slot s
  | .prectlSave p => Sys2Proof.Machine.execPrectlSave p s
  | .prectlRestore p => Sys2Proof.Machine.execPrectlRestore p s
  | .hvSave p => Sys2Proof.Machine.execHvSave p s
  | .hvRestore p => Sys2Proof.Machine.execHvRestore p s
  | .preemptBoundExpiry p => Sys2Proof.Machine.execPreemptBoundExpiry p s
  | .preemptFail p => Sys2Proof.Machine.execPreemptFail p s
  | .preemptStateReached p => Sys2Proof.Machine.execPreemptStateReached p s
  | .rootTask p queue crews tag rec => Sys2Proof.Machine.execRootTask p queue crews tag rec s
  | .resume p n => Sys2Proof.Machine.execResume p n s
  | .abort p n => Sys2Proof.Machine.execAbort p n s
  | .haltDecision p task discard => Sys2Proof.Machine.execHaltDecision p task discard s
  | .shoot p base size count all => Sys2Proof.Machine.execShoot p base size count all s
  | .shootdone p => Sys2Proof.Machine.execShootdone p s
  | .zmap p frame size => Sys2Proof.Machine.execZmap p frame size s
  | .zdone p => Sys2Proof.Machine.execZdone p s
  | .frameGrant p req refused frames => Sys2Proof.Machine.execFrameGrant p req refused frames s
  | .putMessage p m => Sys2Proof.Machine.execPutMessage p m s
  | .getRequest p port tag addr size => Sys2Proof.Machine.execGetRequest p port tag addr size s
  | .getData c q data poisoned => Sys2Proof.Machine.execGetData c q data poisoned s
  | .farEndAck c q status => Sys2Proof.Machine.execFarEndAck c q status s
  | .registerWrite p pf reg val => Sys2Proof.Machine.execRegisterWrite p pf reg val s
  | .registerRead p pf reg => Sys2Proof.Machine.execRegisterRead p pf reg s
  | .containWrite p compat => Sys2Proof.Machine.execContainWrite p compat s
  | .form berths vf => Sys2Proof.Machine.execForm berths vf s
  | .dissolve p => Sys2Proof.Machine.execDissolve p s
  | .reset p pf task => Sys2Proof.Machine.execReset p pf task s
  | .powerOn => Sys2Proof.Machine.execPowerOn s
  | .restartCold => Sys2Proof.Machine.execRestartCold s
  | .restartWarm => Sys2Proof.Machine.execRestartWarm s
  | .quoteRequest nonce => Sys2Proof.Machine.execQuoteRequest nonce s
  | .firmwareChunk off len data => Sys2Proof.Machine.execFirmwareChunk off len data s
  | .linkParameter port recv switchPoint => Sys2Proof.Machine.execLinkParameter port recv switchPoint s
  | .flitArrival port f => Sys2Proof.Machine.execFlitArrival port f s
  | .nakReceived port e => Sys2Proof.Machine.execNakReceived port e s
  | .retryTimeout port => Sys2Proof.Machine.execRetryTimeout port s
  | .portTrainFull port epoch => Sys2Proof.Machine.execPortTrainFull port epoch s
  | .keySwitch port => Sys2Proof.Machine.execKeySwitch port s
  | .keyExhausted port => Sys2Proof.Machine.execKeyExhausted port s
  | .correctedError p unit loc => Sys2Proof.Machine.execCorrectedError p unit loc s
  | .patrolScrub addr found => Sys2Proof.Machine.execPatrolScrub addr found s
  | .uncorrectableError p unit loc place => Sys2Proof.Machine.execUncorrectableError p unit loc place s
  | .governorInterval power temp flowLost => Sys2Proof.Machine.execGovernorInterval power temp flowLost s
  | .retrainingComplete port ok => Sys2Proof.Machine.execRetrainingComplete port ok s
  | .keySlotRefill port recv slot => Sys2Proof.Machine.execKeySlotRefill port recv slot s
  | .spuriousWake k => Sys2Proof.Machine.execSpuriousWake k s
  | .arrayOperationComplete c => Sys2Proof.Machine.execArrayOperationComplete c s
  | .xMoveComplete k => Sys2Proof.Machine.execXMoveComplete k s
  | .scoreboardResultWrite k => Sys2Proof.Machine.execScoreboardResultWrite k s

end Sys2Proof.Machine
end

