-- ==== Sys2Proof/Machine/Issue.lean ====
section
/-! DEFINITION. One bundle of one context: the scoreboard (03 R50), the destinations that two slots may not share
(04 R72; 03 R60), the order in which the slots act and which outcome counts (04 R73; 07 R131; 11 R241), and what a
bundle does when it completes, waits or stops (03 R50 to R53, R63 to R65; 07 R119). -/

namespace Sys2Proof.Machine

/-! What an instruction reads and writes, beside Machine/Sources.lean. -/

/-- The vector registers that an instruction writes at its own completion. -/
def State.vectorDests (s : State) : Instr → List Nat
  | .vh idx roff =>
    let h := hcwOf (aget 0 s.ctx.hcw idx.toNat)
    if h.dst < 384 then
      (List.range (h.dstGroup s.rd.vtype + (if h.ops.contains 0x41 then 1 else 0))).map
        (fun k => h.dst + 8 * roff.toNat + k)
    else []
  | .trcol vd _ _ => [vd.toNat]
  | .trrow vd _ _ => [vd.toNat]
  | .movsv vd _ _ => [vd.toNat]
  | _ => []

/-- The vector registers that an instruction reads. -/
def State.vectorsRead (s : State) : Instr → List Nat
  | .vh idx roff =>
    let h := hcwOf (aget 0 s.ctx.hcw idx.toNat)
    ((h.readCodes.filter (fun q => q.2 < 384)).map (fun q =>
      (List.range (h.groupOf s.rd.vtype q.1)).map (fun k => q.2 + 8 * roff.toNat + k))).flatten ++
      (if h.men then [h.mreg] else [])
  | .xcopy _ vs _ _ => [vs.toNat]
  | .xbcast _ vs _ => [vs.toNat]
  | .twrow _ _ vs => [vs.toNat]
  | .movvs _ vs _ => [vs.toNat]
  | .vgathq _ _ _ vi _ _ => (List.range 8).map (fun k => vi.toNat + k)
  | .vscatq _ _ _ vi _ _ => (List.range 8).map (fun k => vi.toNat + k)
  | _ => []

/-- The tile that an instruction writes. -/
def tileDest : Instr → Option Nat
  | .mdrain _ _ sram t _ _ _ _ _ => if sram = 0 then some t.toNat else none
  | .mdrainOfold _ _ sram t _ _ _ => if sram = 0 then some t.toNat else none
  | .twrow t _ _ => some t.toNat
  | .ldt t _ _ _ _ _ => some t.toNat
  | .tunpk td _ => some td.toNat
  | _ => none

/-- The tiles that an instruction reads: a rank-1 beat reads two (09 R182). -/
def State.tilesRead (s : State) : Instr → List Nat
  | .trcol _ t _ => [t.toNat]
  | .trrow _ t _ => [t.toNat]
  | .tunpk _ ts => [ts.toNat]
  | .mbeat _ _ _ _ tile _ _ _ _ _ => if s.core.arr.rs then [tile.toNat, tile.toNat + 1] else [tile.toNat]
  | .mfload t _ => [t.toNat]
  | _ => []

/-- The destinations that R72 and R60 compare, by class: 0 an s register, 1 a control register or an a register under
its number, 2 a vector register, 3 a tile. -/
def State.dests (s : State) (i : Instr) : List (Nat × Nat) :=
  let scalar := match resultOf i with
    | some d => if d = 0 || d = 62 then [] else [(0, d.toNat)]
    | none => []
  let control := match i with
    | .setfmt _ => [(1, 3)]
    | .setvl _ _ _ => [(1, 1), (1, 2)]
    | .crw _ cr => [(1, cr.toNat)]
    | _ => []
  let tile := match tileDest i with
    | some t => [(3, t)]
    | none => []
  scalar ++ control ++ (s.vectorDests i).map (fun v => (2, v)) ++ tile

/-! The scoreboard (03 R50). -/

/-- The scalar that a pending load writes. -/
def LoadKind.target : LoadKind → Nat
  | .reg sd _ => sd
  | .amo _ _ _ sd _ _ _ => sd
  | .chunk sd _ _ => sd
  | _ => 0

/-- The same load with its result discarded, if it goes to one of some registers. -/
def LoadKind.without (rs : List Nat) (k : LoadKind) : LoadKind :=
  if !(rs.contains k.target) then k
  else match k with
    | .reg _ x => .reg 0 x
    | .amo op sa cmp _ size ord scope => .amo op sa cmp 0 size ord scope
    | .chunk _ ord scope => .chunk 0 ord scope
    | k => k

/-- The same result with its scalar discarded, if it goes to one of some registers. -/
def Flight.without (rs : List Nat) : Flight → Flight
  | .x f => match f.i with
    | .movvs sd vs lane => if rs.contains sd.toNat then .x { f with i := .movvs 0 vs lane } else .x f
    | _ => .x f
  | .v f => .v f

/-- A later write of a register is not undone by an earlier result that arrives after it. -/
def State.supersede (s : State) (rs : List Nat) : State :=
  let rs := rs.filter (fun r => r ≠ 0 && r ≠ 62)
  if rs.isEmpty then s
  else s.modPend (fun p => { p with
    lq := p.lq.map (fun o => { o with kind := o.kind.without rs }),
    flight := p.flight.map (fun f => (f.1, f.2.without rs)),
    reinject := p.reinject.map (fun f => (f.1, f.2.1, f.2.2.without rs)) })

/-- Results of the context in focus that are still to be written. -/
def Pending.results (p : Pending) : List Flight := p.flight.map Prod.snd ++ p.reinject.map (fun r => r.2.2)

/-- Scalars, physical vector registers and physical tiles still to be written. -/
def Pending.scalars (p : Pending) : List Nat :=
  (p.lq.map (fun o => o.kind.target) ++ p.results.filterMap Flight.scalar?).filter (fun r => r ≠ 0 && r ≠ 62)
def Pending.vectors (p : Pending) : List Nat := (p.results.map Flight.regs).flatten
def Pending.tiles (p : Pending) : List Nat :=
  p.results.filterMap Flight.tile? ++ p.lq.filterMap (fun o => match o.kind with
    | .tile base => some (base / 16384)
    | _ => none)

/-- The operation that the context's active repeat goes on with. -/
def State.repeating (s : State) : Option Instr :=
  match s.core.arr.repeat_ with
  | some r => if r.ctx = s.here then some r.i else none
  | none => none

/-- A drain. -/
def isDrain : Instr → Bool
  | .mdrain _ _ _ _ _ _ _ _ _ => true
  | .mdrainOfold _ _ _ _ _ _ _ => true
  | _ => false

/-- A CRW of a tile shape. -/
def writesShape : Instr → Bool
  | .crw _ cr => cr.toNat / 16 = 2
  | _ => false

/-- An instruction meets a result that is still to be written, so that its bundle holds (03 R50; 09 R191). The
executions that a repeat still owes come before it: a tile that they write or read, and its shape, wait for them
(assumption log 36). -/
def State.conflicts (s : State) (i : Instr) : Bool :=
  let p := s.ctx.pend
  let v := p.vectors
  let drains := s.core.arr.queue.filterMap (fun q => q.2.2.tile?)
  let vb := vwinBase s.ctx.cr.vwin
  let tb := twinBase s.ctx.cr.twin
  (s.scalarsRead i).any p.scalars.contains ||
    (!v.isEmpty && (s.vectorsRead i ++ s.vectorDests i).any (fun r => v.contains (vb + r))) ||
    (tileDest i).any (fun t => p.tiles.contains (tb + t) || drains.contains (tb + t) || s.repeating.isSome) ||
    (s.tilesRead i).any (fun t => p.tiles.contains (tb + t) || drains.contains (tb + t) || s.repeating.any isDrain) ||
    (writesShape i && s.repeating.isSome)

/-- STAT is read or written whole. -/
def namesStat : Instr → Bool
  | .crr _ cr => cr = 4
  | .crw _ cr => cr = 4
  | _ => false

/-- Flags of the context are still to come: of results, of drains, and of a repeat's executions (07 R140). -/
def State.flagsPending (s : State) : Bool :=
  !(s.ctx.pend.results.isEmpty) || s.core.arr.queue.any (fun d => d.1 = s.here) || s.repeating.isSome

/-- Entries that an instruction adds to the replay queue (03 R48; 23 R358). -/
def Instr.replays : Instr → Nat
  | .setfmt _ => 1
  | .crw _ cr => if cr = 3 then 1 else 0
  | .ldt _ _ _ _ _ _ => 0
  | i => if i.slot = some .v || i.slot = some .x then 1 else 0

/-- The bundle holds before any of its slots acts: a result to come, a shadow that waits for one, or no room for
another entry in the replay queue of 32 (03 R48, R50; 23 R362), as long as a result can still leave it. -/
def State.mustHold (s : State) (is : List Instr) : Bool :=
  let p := s.ctx.pend
  let more := (is.map Instr.replays).foldl (· + ·) 0
  p.shadows.any (fun sh => sh.remain = 0) ||
    (more ≠ 0 && !(p.results.isEmpty) && decide (32 < p.results.length + p.shadows.length + more)) ||
    is.any s.conflicts || (is.any namesStat && s.flagsPending)

/-! The slots in turn. -/

/-- A C slot that acts after the others of its bundle (07 R125, R128, R131, R132; 11 R241). -/
def actsLast : Instr → Bool
  | .phint _ => true
  | .yield => true
  | .eret => true
  | .halt => true
  | _ => false

/-- An MWAIT. -/
def isMwait : Instr → Bool
  | .mwait _ _ => true
  | _ => false

/-- Slots act in slot order (03 R58; 04 R72), but for a C slot that acts last, and a MARM before the MWAIT of its bundle
(07 R127). -/
def inTurn : List (Nat × Option Instr) → List (Nat × Option Instr)
  | (0, some i) :: t =>
    if actsLast i then t ++ [(0, some i)]
    else if isMwait i then
      let marm := fun (q : Nat × Option Instr) => q.2.any (fun j => match j with
        | .marm _ _ _ _ => true
        | _ => false)
      t.filter marm ++ [(0, some i)] ++ t.filter (fun q => !(marm q))
    else (0, some i) :: t
  | l => l

/-- Runs slots one after another until one does not execute; the task's end ends the bundle. `seen` lists the
destinations so far. The answer names the slot and what stopped it. Where slots share a destination, the ILLI is that of
the slot that acts later (DESIGN CHOICE, log 72: R72 says only that the bundle raises it). -/
def State.runSlots (s : State) (seen : List (Nat × Nat)) : List (Nat × Option Instr) → State × Option (Nat × Stop)
  | [] => (s, none)
  | (n, none) :: _ => (s, some (n, trapSlot cILLI n))
  | (n, some i) :: t =>
    let d := s.dests i
    if d.any seen.contains then (s, some (n, trapSlot cILLI n))
    else match exec i s with
      | .next u => match u.evt with
        | .stopped e => (s, some (n, e))
        | .ended => (u, none)
        | .none => u.runSlots (d ++ seen) t
      | _ => (s, none)

/-- A trap cause of R113, wherever it is handled. -/
def Stop.isCause : Stop → Bool
  | .trap _ _ _ => true
  | .host _ _ _ _ => true
  | _ => false

/-- The destinations of slots (04 R72). -/
def State.destsOf (s : State) (l : List (Nat × Option Instr)) : List (Nat × Nat) := (l.filterMap Prod.snd).flatMap s.dests

/-- Of the trap causes that slots would raise, tried one after another, that of the lowest-numbered one below `n` (04 R73):
a slot that would wait counts for none, and the next one is tried without it. `seen` lists the destinations of the slots
before (04 R72). -/
def State.lowestCause (s : State) (n : Nat) (seen : List (Nat × Nat)) (best : Option (Nat × Stop)) :
    List (Nat × Option Instr) → Option (Nat × Stop)
  | [] => best
  | q :: t =>
    let better := fun (x : Nat × Stop) => if x.1 < n && best.all (fun b => x.1 < b.1) then some x else best
    let seen' := s.destsOf [q] ++ seen
    match s.runSlots seen [q] with
    | (_, some (m, e)) => s.lowestCause n seen' (if e.isCause then better (m, e) else best) t
    | (u, none) => u.lowestCause n seen' best t

/-- The stop of a bundle: of several slots that would raise trap causes, the lowest-numbered one's counts (04 R73), one
that would have acted later among them. -/
def State.runBundle (s : State) (slots : List (Nat × Option Instr)) : State × Option (Nat × Stop) :=
  let r := s.runSlots [] slots
  match r.2 with
  | some (n, e) =>
    let upTo := slots.takeWhile (fun q => q.1 ≠ n) ++ (slots.find? (fun q => q.1 = n)).toList
    let later := (slots.dropWhile (fun q => q.1 ≠ n)).tail
    (r.1, if e.isCause then (r.1.lowestCause n (s.destsOf upTo) none later).orElse (fun _ => some (n, e)) else some (n, e))
  | none => r

/-- Tries the slots of a bundle of n bytes: the state after it, or what stops it. An ERET outside HANDLER mode raises
ILLI before any slot acts. -/
def State.tryBundle (s : State) (n : Nat) (slots : List (Nat × Option Instr)) : State × Option (Nat × Stop) :=
  let is := slots.filterMap Prod.snd
  if s.ctx.mode = .user && is.contains .eret then (s, some (0, trapSlot cILLI 0))
  else if s.mustHold is then (s, some (0, .hold))
  else
    let c := s.ctx
    let u := { s with
      ctx := { c with npc := c.pc + BitVec.ofNat 64 n, skipC := c.skipC && decide (c.mode = Mode.handler) },
      evt := .none,
      latch := if slots.length ≤ 1 then none else some (c.r, c.cr, c.loopsNow.levels) }
    let u := u.supersede ((is.filterMap resultOf).map BitVec.toNat)
    -- LDQ with fewer entries than the bundle pops gives none of them (03 R58)
    let u := if c.pend.ldq.length < s.popsOfAll is then u.modPend (fun p => { p with ldq := [] }) else u
    let r := u.runBundle (inTurn slots)
    ({ r.1 with latch := none }, r.2)

/-- The slots that act: without C after TRAP's handler (07 R131); and, when a wait has ended, without the MARM whose
watch an MWAIT of the bundle waits on (07 R127). -/
def State.acting (s : State) (slots : List (Nat × Option Instr)) : List (Nat × Option Instr) :=
  let slots := if s.ctx.skipC && s.ctx.mode = .user then slots.filter (fun q => q.1 ≠ 0) else slots
  let waits := slots.any (fun q => q.2.any isMwait)
  match s.ctx.status with
  | .cleared _ _ _ =>
    if waits && s.ctx.watch.waiting then slots.filter (fun q => match q.2 with
      | some (.marm _ _ _ _) => false
      | _ => true)
    else slots
  | _ => slots

/-! The end of a bundle. -/

/-- A core cycle passes: CYC advances at 4.0 GHz, the core at 1.0 + 0.25 × code GHz (00 R5; 28 R414). -/
def State.passCycle (s : State) : State :=
  let n := s.cycFrac + 16 * 720720 / (4 + s.rating)
  { s with cycle := s.cycle + 1, cyc := s.cyc + n / 720720, cycFrac := n % 720720 }

/-- A cycle in which the context in focus is the selected one (03 R53). -/
def State.useCycle (s : State) : State :=
  if s.ctx.status = .idle then s.passCycle
  else (s.modCtrl (fun c => { c with bused := c.bused + 1 })).passCycle

/-- The selector chooses again when the context in focus cannot go on (03 R51). -/
def State.reselect (s : State) : State := if s.ctx.isReady then s else s.selectNext

/-- The slots executed enter the history of the mode they were issued in (03 R63). -/
def State.recordHist (s : State) (m : Mode) (slots : List (Nat × Option Instr)) : State :=
  if s.ctx.mode ≠ m then s
  else
    let h := slots.foldl (fun h q => match q.2 with
      | some i => aput h q.1 i
      | none => h) s.ctx.histNow
    { s with ctx := s.ctx.setHist h }

/-- A bundle of USER mode counts for every shadow (03 R64). -/
def State.countShadows (s : State) : State :=
  s.modPend (fun p => { p with shadows := p.shadows.map (fun sh => { sh with remain := sh.remain - 1 }) })

/-- A bundle completes: history, shadows, reseeding, the loop stack and the next address (03 R63 to R65; 02 R37; 07
R115, R119). An ERET goes on at its resume address, which advances no level of the USER stack (DESIGN CHOICE, log 72: R131 gives
the stack back as it stood at the trap). -/
def State.finish (s : State) (m : Mode) (slots : List (Nat × Option Instr)) : State :=
  if s.evt = .ended then s.passCycle.reselect
  else
    let s := s.recordHist m slots
    let c := s.ctx
    let status := match c.status with
      | .cleared _ _ _ => Status.ready
      | x => x
    let c := { c with status := status, fetched := none, live := none }
    let c := if c.reseed then { c with genSeed := c.r.seed, gens := [], reseed := false } else c
    let s := { s with ctx := c }
    let s := if m = .user then s.countShadows else s
    let n := s.ctx.npc
    let moved := s.ctx.mode = m && (advance s.ctx.loopsNow.levels n).2 ≠ n
    let s := if s.ctx.mode = m then s.goOn n else { s with ctx := { s.ctx with pc := n } }
    let yields := slots.any (fun q => q.2 = some .yield)
    let s := (s.landShadows.forcedPoint moved)
    if yields then s.passCycle else s.useCycle.reselect

/-- A bundle that blocks or holds keeps its bytes (03 R50, R52); what its first issue has done stands: the family
that a TEND closes (19 R329), and the watch that an MWAIT waits on, with the line that its MARM has brought into the L2 (07
R126, R127). -/
def State.waitWith (s tried : State) (bs : List Byte) (slots : List (Nat × Option Instr)) (n : Nat) (e : Stop) : State :=
  let has := fun (p : Instr → Bool) => slots.any (fun q => q.2.any p)
  let marms := has (fun i => match i with
    | .marm _ _ _ _ => true
    | _ => false)
  let waits := has isMwait && !(n = 2 && marms)
  let armed := decide (e = .block) && n = 0 && waits && marms
  let s := if armed then { tried with ctx := { s.ctx with watch := tried.ctx.watch } } else s
  let s := { s with ctx := { s.ctx with fetched := some bs }, evt := .stopped e }
  match e with
  | .block =>
    let w := if waits then { s.ctx.watch with waiting := true } else s.ctx.watch
    -- with a save pending, a context that blocks stands at its save point (23 R367)
    let status := if s.savePending then Status.saving none else match s.ctx.status with
      | .cleared n x v => Status.blocked n x v
      | _ => Status.blocked s.cycle false none
    ({ s with ctx := { s.ctx with watch := w, status := status } }).passCycle.selectNext
  | _ => s.useCycle

/-- A stop that ends the bundle takes a cycle: one in which the context is selected, unless it waits for the host, which is
a block and counts for no context (03 R50, R53). -/
def State.stopCycle (s : State) (e : Stop) : State :=
  let t := s.stopWith e
  (match e with
    | .host _ _ _ _ => t.passCycle
    | _ => t.useCycle).reselect

/-- What a slot's stop makes of the bundle: nothing of it happened (00 R9; 04 R73). -/
def State.stopBundle (s tried : State) (bs : List Byte) (slots : List (Nat × Option Instr)) (n : Nat) (e : Stop) :
    State :=
  let waits := decide (e = .hold) || decide (e = .block)
  let closes := n = 7 && waits && slots.any (fun q => q.2 = some .tend)
  let s := if closes then s.closing else s
  match e with
  | .block => s.waitWith tried bs slots n e
  | .hold => s.waitWith tried bs slots n e
  | .host _ _ _ _ => ({ s with ctx := { s.ctx with fetched := some bs } }).stopCycle e
  | _ => s.stopCycle e

/-- Issues the bundle of the context in focus whose bytes are given. -/
def State.issueBytes (s : State) (bs : List Byte) : State :=
  match s.slots bs with
  | .error e => s.stopBundle s bs [] 8 e
  | .ok slots =>
    let act := s.acting slots
    let r := s.tryBundle bs.length act
    match r.2 with
    | none => r.1.finish s.ctx.mode (if act.length = slots.length || s.ctx.skipC then act else slots)
    | some (n, e) => s.stopBundle r.1 bs act n e

/-- The context in focus comes to its next bundle, which a line pad is not (04 R68): the GLOADs of its last one may be
validated from here on (15 R301). -/
def State.passLoads (s : State) : State :=
  { s with core := { s.core with groups := s.core.groups.map (fun g =>
    (g.1, if g.2.loader = some s.ctxId then { g.2 with loader := none } else g.2)) } }

/-- The context in focus comes to its first bundle after a restore: the cycles of its re-injected results are counted from
here (23 R371). -/
def State.unpause (s : State) : State :=
  if s.ctx.pend.paused then
    s.modPend (fun p => { p with paused := false, reinject := p.reinject.map (fun r => (s.cycle + r.1, r.2)) })
  else s

/-- The context in focus issues: the rest of the table load that its task's start waits for, a pad, the BUDGET trap of a
spent slice, or a bundle (03 R53, R61; 04 R68). A spent slice comes before an ILLB of the same bundle (DESIGN CHOICE, log
72: R73 ranks the causes of slots). -/
def State.issue (s : State) : Host.Outcome State Fault Refusal :=
  let k := BitVec.ofNat 8 s.here
  let s := s.unpause
  match s.ctx.startLoad with
  | some (a, n) => .next ((s.loadTable a n (512 - n)).passCycle.reselect)
  | none => match s.fetch with
    | .ok (bs, t) =>
      if bs.length = 2 && ofBytes bs = 0 then exec (.linePad k) s
      else if s.spent then exec (.budgetExhausted k) s.passLoads
      else .next (t.passLoads.issueBytes bs)
    | .error e => if s.spent then exec (.budgetExhausted k) s.passLoads else .next (s.passLoads.stopCycle e)

/-- The bundle that a blocked context waits with would not block now, nor would the load of its table. -/
def State.wouldIssue (s : State) : Bool :=
  match s.ctx.status, s.ctx.fetched with
  | .blocked _ _ _, none => s.ctx.startLoad.any (fun x => s.bytesReady (x.1 + BitVec.ofNat 64 (32 * x.2)) 32)
  | .blocked n x v, some bs =>
    let t := { s with ctx := { s.ctx with status := .cleared n x v } }
    match t.slots bs with
    | .error _ => true
    | .ok slots => match (t.tryBundle bs.length (t.acting slots)).2 with
      | some (_, .block) => false
      | _ => true
  | _, _ => false

end Sys2Proof.Machine
end

