-- ==== Sys2Proof/Machine/Advance.lean ====
section
/-! DEFINITION. What can happen next in the module: the events that come of themselves, the engines, saves and flits,
the next bundle of each core, and the passing of time (00 R13; assumption log 15). -/

namespace Sys2Proof.Machine

/-- One thing that can happen next. -/
inductive Move where
  /-- An event of the opcode table that the module itself brings about. -/
  | event (i : Instr)
  /-- An engine does the next part of a queue's head (14 R292). -/
  | engine (core q : Nat)
  /-- The save of a context begins or goes on (23 R367, R372). -/
  | save (p k : Nat)
  /-- A port puts the next flit of a channel on the wire (25 R389, R392). -/
  | transmit (port vc : Nat)
  /-- A core issues. -/
  | bundle (core : Nat)
  /-- A cycle passes in which no core issues. -/
  | idle
  deriving DecidableEq, Repr

/-- The states agree but for the note of what an exec did. -/
def State.same (s t : State) : Bool := { s with evt := .none } = { t with evt := .none }

/-- Keeps the events that change something. -/
def State.effective (s : State) (l : List Instr) : List Instr :=
  l.filter (fun i => match exec i s with
    | .next t => !(s.same t)
    | _ => true)

/-! Contexts. -/

/-- The kinds of event that perform loads whose turn has come. -/
def loadEvents (k : BitVec 8) (l : List LoadOp) : List Instr :=
  (if l.any (fun o => o.kind.queued) then [.loadDataReturn k] else []) ++
  (if l.any (fun o => o.kind.scalar) then [.scoreboardResultWrite k] else []) ++
  (if l.any (fun o => !o.kind.queued && !o.kind.scalar) then [.xMoveComplete k] else [])

/-- What earlier bundles of the context in focus have issued and may finish. -/
def State.pendingEvents (s : State) (k : BitVec 8) : List Instr :=
  let p := s.ctx.pend
  let load := loadEvents k s.loadsReady
  let store := if s.storesReady.isEmpty then [] else [Instr.storePerform k]
  let v := if (firstFlight true p.flight).isSome then [Instr.vSlotComplete k] else []
  let x := if (firstFlight false p.flight).isSome && !(load.contains (.xMoveComplete k)) then [Instr.xMoveComplete k] else []
  let r := if (p.due s.cycle).isSome then [Instr.replayLand k] else []
  let sh := if p.shadows.any s.canLand then [Instr.shadowLand k] else []
  load ++ store ++ v ++ x ++ r ++ sh

/-- What may end the wait of the context in focus. -/
def State.wakeEvents (s : State) (k : BitVec 8) : List Instr :=
  match s.ctx.status with
  | .blocked _ _ _ =>
    (if s.wouldIssue then [Instr.blockClear k] else []) ++ (if s.sleepOver then [Instr.sleepuTarget k] else []) ++
      (if s.bwaitOver then [Instr.bwaitTimeout k] else []) ++
      (if s.promisePassed.isSome then [Instr.sleepbPromiseDue k] else []) ++
      [Instr.mwaitTimeout k, Instr.spuriousWake k]
  | _ => []

/-- The events of one context. -/
def State.ctxEvents (s : State) (k : Nat) : List Instr :=
  let c := s.getCtx k
  if c.status = .idle || s.isHeld k then []
  else
    let t := s.focus (k / 4) (k % 4)
    t.pendingEvents (BitVec.ofNat 8 k) ++ t.wakeEvents (BitVec.ofNat 8 k)

/-! Cores, dies, partitions and ports. -/

/-- The events of one core: its array, its riggers, which a save pauses (23 R369), its group slots and its engine
queues. -/
def State.coreEvents (s : State) (c : Nat) : List Instr :=
  let co := s.getCore c
  let n := BitVec.ofNat 6 c
  let array := (if co.arr.repeat_.isSome then [Instr.mrepReissue n] else []) ++
    (if co.arr.queue.isEmpty then [] else [Instr.arrayOperationComplete n])
  let q := s.getPart (s.partOf (crewOf c))
  let idle := q.preState ≠ 0 || q.hvState ≠ 0
  let fills := (co.rings.filter (fun r => !idle && r.2.cmd.isSome)).map (fun r => Instr.riggerFill n (BitVec.ofNat 4 r.1))
  let groups := (co.groups.filter (fun g => g.2.st = .validating)).map
    (fun g => Instr.groupValidation n (BitVec.ofNat 2 g.1))
  let heads := co.eq.filter (fun q => q.2.head?.any (fun d => d.wait = .none))
  array ++ fills ++ groups ++
    (heads.map (fun q => [Instr.commandComplete n (BitVec.ofNat 4 q.1), .engineFault n (BitVec.ofNat 4 q.1)])).flatten

/-- A partition's engines and riggers stand still while a save is in progress or in effect, those that a save waits
for aside (23 R368, R369). -/
def State.coreHeld (s : State) (c : Nat) : Bool :=
  let q := s.getPart (s.partOf (crewOf c))
  q.preState ≥ 2 || q.hvState ≥ 2

/-- The events of one die. -/
def State.dieEvents (s : State) (d : Nat) : List Instr :=
  let die := s.getDie d
  let n := BitVec.ofNat 2 d
  (if die.inbox.isEmpty then [] else [Instr.moduleWriteApply n]) ++
    ((die.tags.filter (fun t => t.2.dirty && 2048 ≤ s.cyc - t.2.idle)).map
      (fun t => Instr.dedupProbe n (BitVec.ofNat 41 t.1))) ++
    ((die.tags.filter (fun t => t.2.hot && 8192 ≤ s.cyc - t.2.idle)).map
      (fun t => Instr.hotClear n (BitVec.ofNat 41 t.1)))

/-- The tasks that the cox may start: for each crew the context that it fills next. -/
def State.startEvents (s : State) (p : Nat) : List Instr :=
  let q := s.getPart p
  if (q.tasks.filter (fun t => t.2.st = .ready)).isEmpty then []
  else (((List.range 16).filter q.berths.testBit).filterMap (fun w => s.nextFree p w)).map
    (fun k => Instr.taskStart (BitVec.ofNat 8 k))

/-- The events of one partition. -/
def State.partEvents (s : State) (p : Nat) : List Instr :=
  let q := s.getPart p
  let n := BitVec.ofNat 4 p
  let folds := (q.tasks.filter (fun t => !(t.2.families.isEmpty))).map
    (fun t => Instr.viewFold n (BitVec.ofNat 32 t.2.id))
  s.startEvents p ++ folds ++ (if q.shoots = 0 then [] else [Instr.shootdone n]) ++
    (if q.zeroing.isEmpty then [] else [Instr.zdone n]) ++
    (if q.preState = 0 && q.hvState = 0 then [] else
      [Instr.preemptBoundExpiry n, .preemptFail n, .preemptStateReached n])

/-- The events of one port. -/
def State.portEvents (s : State) (n : Nat) : List Instr :=
  let q := s.getPort n
  let k := BitVec.ofNat 4 n
  if q.st ≠ 2 then []
  else (if q.tx.retry.isEmpty then [] else [Instr.retryTimeout k]) ++
    (if q.tx.due then [Instr.keySwitch k, .keyExhausted k] else [])

/-! All of it. -/

/-- The events that the module can bring about by itself. -/
def State.events (s : State) : List Instr :=
  s.effective ((s.ctxKeys.map s.ctxEvents).flatten ++
    ((s.coreKeys.filter (fun c => !(s.coreHeld c))).map s.coreEvents).flatten ++
    ([0, 1, 2, 3].map s.dieEvents).flatten ++
    ((s.parts.filter (fun p => p.2.formed)).map (fun p => s.partEvents p.1)).flatten ++
    (s.ports.map (fun q => s.portEvents q.1)).flatten)

/-- The engine heads that can do a part. -/
def State.engineMoves (s : State) : List Move :=
  (((s.coreKeys.filter (fun c => !(s.coreHeld c))).map (fun c =>
    ((s.getCore c).eq.map (fun q => (c, q.1))))).flatten.filter (fun x => !(s.same (s.engineStep x.1 x.2)))).map
      (fun x => .engine x.1 x.2)

/-- The contexts whose save can go on. -/
def State.saveMoves (s : State) : List Move :=
  ((s.parts.filter (fun p => p.2.preState = 1 || p.2.hvState = 1)).map (fun p =>
    ((s.busy p.1).filter (fun k => !(s.same (s.saveCtx p.1 k)))).map (fun k => Move.save p.1 k))).flatten

/-- The channels of a port that have a message to send, and an IDLE beside them: messages without credit hold no credit
that the port returns (25 R389). -/
def State.channels (s : State) (n : Nat) : List Nat :=
  ((s.out.filter (fun m => m.port = n && m.kind < 0x100)).map Msg.vc).eraseDups ++ [idleChannel]

/-- The ports that can send, each with a channel: channels have no order among themselves (25 R389). -/
def State.sendMoves (s : State) : List Move :=
  ((s.ports.map Prod.fst).filter (fun n => (s.getPort n).st = 2)).flatMap (fun n =>
    ((s.channels n).filter (fun v => (s.transmit n v).isSome)).map (fun v => Move.transmit n v))

/-- The context that a core issues from: the selected one, or the next ready one (03 R51). -/
def State.issuer (s : State) (c : Nat) : Option Nat :=
  let n := (s.getCore c).selected
  let p := s.getPart (s.partOf (crewOf c))
  if p.hvState ≠ 0 then none
  else ([0, 1, 2, 3].map (fun i => 4 * c + (n + i) % 4)).find? (fun k =>
    (s.getCtx k).isReady && !(s.isHeld k))

/-- The cores that can issue. -/
def State.bundleMoves (s : State) : List Move :=
  (((s.ctxKeys.map (fun k => k / 4)).eraseDups).filter (fun c => (s.issuer c).isSome)).map Move.bundle

/-- Everything that can happen next; time passes without a bundle only where no core can issue. -/
def State.moves (s : State) : List Move :=
  let bs := s.bundleMoves
  s.events.map Move.event ++ s.engineMoves ++ s.saveMoves ++ s.sendMoves ++ (if bs.isEmpty then [.idle] else bs)

/-- A core issues from the context that its selector gives. -/
def State.issueCore (s : State) (c : Nat) : Host.Outcome State Fault Refusal :=
  match s.issuer c with
  | none => .next s
  | some k =>
    let t := s.focus c (k % 4)
    match ({ t with core := { t.core with selected := k % 4, woken := none } }).issue with
    | .next u => .next (u.focus s.coreId s.ctxId)
    | o => o

/-- Does one thing. -/
def State.perform (s : State) : Move → Host.Outcome State Fault Refusal
  | .event i => exec i s
  | .engine c q => .next (s.engineStep c q)
  | .save p k => .next (s.saveCtx p k)
  | .transmit n v => .next ((s.transmit n v).getD s)
  | .bundle c => s.issueCore c
  | .idle => .next s.passCycle

/-- Does the one thing that can happen next, or the one that `pick` names. -/
def State.proceed (s : State) (pick : Nat → Nat) : Host.Outcome State Fault Refusal :=
  match s.moves with
  | [] => .next s
  | [m] => s.perform m
  | m :: ms => ({ s with tick := s.tick + 1 }).perform ((m :: ms).getD (pick s.tick % (ms.length + 1)) m)

/-- A step under a choice: an event from outside comes first; with the power off, only POWER_ON counts (28 R408,
R415). -/
def State.stepWith (s : State) (pick : Nat → Nat) : Host.Outcome State Fault Refusal :=
  match s.agenda, s.power with
  | [], false => .fault .poweredOff
  | .powerOn :: t, false => exec .powerOn { s with agenda := t }
  | _ :: t, false => .next { s with agenda := t }
  | i :: t, true => exec i { s with agenda := t }
  | [], true => s.proceed pick

end Sys2Proof.Machine
end

