-- ==== Sys2Proof/Machine/Place.lean ====
section
/-! DEFINITION. Placing one bundle where the module fetches next (assumption log 14): what FORM, the host's page tables, a
root task and its start bring about (22 R350, R354; 24 R376, R384), for one bundle on core 0. -/

namespace Sys2Proof.Machine

/-- Where the bundle stands: at this address, which the tables below map to itself. -/
def placeAt : Nat := 0x10000

/-- The bytes of a bundle whose one instruction's encoding is given, by the slot that the table's width and the decoder
give it (04 R67). -/
def bundleOf (nbits w : Nat) : List Byte :=
  let slot := match (decodeTableWord nbits w).bind Instr.slot with
    | some .c => 0
    | some .s => 1
    | some .a => 2
    | some .v => 3
    | some .m => 4
    | some .x => 5
    | some .e => 6
    | some .t => 7
    | none => if nbits ≤ 16 then 3 else if nbits ≤ 32 then 0 else 6
  toBytes (2 ^ slot) 2 ++ toBytes w (bodyWidth slot)

/-- The job of the task that runs: 384 vector registers, four tiles and the array claim. -/
def placeJob : Job :=
  { entry := BitVec.ofNat 64 placeAt, arg := 0, deadline := 0, budget := 0, vwin := 12, tiles := 4, flags := 1,
    firstop := 0, hcwtab := 0, join := 0xFFFFFFFF, vtab := 0 }

/-- The running task. -/
def placeTask : Task :=
  { Task.fresh 0x4000 placeJob (BitVec.allOnes 64) 0 1 (some 0) none 0 [] with st := .running 0 }

/-- Its partition, of berth 0, with a table of one page of 1 GiB. -/
def placePart : Part :=
  { Part.reset with formed := true, berths := 1, ptroot := 0x1000, ptrootNext := 0x1000, tasks := [(0, placeTask)] }

/-- The entries of the table: three levels, and a leaf that may be read, written and fetched (24 R376, R377). -/
def placeTables (m : List (Nat × Byte)) : List (Nat × Byte) :=
  asetN zeroByte (asetN zeroByte (asetN zeroByte m 0x1000 (toBytes 0x2001 8)) 0x2000 (toBytes 0x3001 8)) 0x3000
    (toBytes 0x1F 8)

/-- The context that runs it. -/
def placeCtx : Ctx :=
  { Ctx.reset with
    pc := BitVec.ofNat 64 placeAt, npc := BitVec.ofNat 64 placeAt, status := .ready, part := 0,
    cr := { CtrlRegs.reset with taskid := 0x4000, deadl := BitVec.allOnes 64, vwin := 12, twin := 4 } }

/-- The module with a task on core 0, context 0, about to fetch a bundle. -/
def State.placed (s : State) (bs : List Byte) : State :=
  let s := s.focus 0 0
  let s := s.setPart 0 placePart
  { s with
    agenda := [], power := true, recovery := false,
    mem := asetN zeroByte (placeTables s.mem) placeAt bs, ctx := placeCtx,
    core := { s.core with
      selected := 0, icache := [], tlb := [], arr := { s.core.arr with claim := some 0, part := some 0 } } }

end Sys2Proof.Machine
end

