-- ==== Sys2Proof/Machine/Step.lean ====
section
/-! DEFINITION. One step of the module, and the state whose next step runs one given instruction. -/

namespace Sys2Proof.Machine

/-- One step: an event from outside, or what the module does next; among several, the open choice decides
(assumption log 15). -/
def step (s : State) : Host.Outcome State Fault Refusal := s.stepWith Config.pick

/-- The state s with one instruction where the next step fetches (assumption log 14). -/
def State.withFetchWord (s : State) (nbits w : Nat) : State := s.placed (bundleOf nbits w)

end Sys2Proof.Machine
end

