-- ==== Sys2Proof/Safety.lean ====
section
/-! DEFINITION. What a safe run is, and the terms that claims about instructions use. -/

namespace Sys2Proof.Machine

/-- A step goes on. -/
def State.runs (s : State) : Prop := ∃ t, step s = .next t

/-- The state that an instruction acts on: the note of what the last one did is gone. -/
def State.clean (s : State) : State := { s with evt := .none }

/-- The exec of an instruction completes in a state. -/
def Completes (i : Instr) (s t : State) : Prop := exec i s = .next t ∧ t.evt ≠ .stopped .block ∧ t.evt ≠ .stopped .hold

/-- An instruction does not execute: what stops it decides the next state (00 R9). -/
def StopsWith (i : Instr) (s : State) (e : Stop) : Prop := exec i s = .next (s.clean.stopWith e)

/-- Two source operands, read in the order of their fields (03 R58). -/
def State.read2 (s : State) (slot : Nat) (a b : BitVec 6) : Except Stop (Word × Word × State) := do
  let x ← s.readS slot a
  let y ← x.2.readS slot b
  .ok (x.1, y.1, y.2)

/-- Three source operands, read in the order of their fields (03 R58). -/
def State.read3 (s : State) (slot : Nat) (a b c : BitVec 6) : Except Stop (Word × Word × Word × State) := do
  let x ← s.readS slot a
  let y ← x.2.readS slot b
  let z ← y.2.readS slot c
  .ok (x.1, y.1, z.1, z.2)

/-! What a V slot's entry writes (08 R145, R146, R150, R154). -/

/-- An entry in flight that computes one stage at a type, on register groups, and passes its result on to a register group. -/
def VFlight.oneStage (f : VFlight) (c : TypeClass) : Prop :=
  let h := hcwOf f.entry
  typeClass (resolveType f.vtype h.opa h.et) = some c ∧ h.opb = 0 ∧ h.opc = 0 ∧ h.dst < 384 ∧ emul f.vtype c.width ≠ 0 ∧
    ∀ k, k < opArity h.opa → ∃ rs, afind f.ops k = some (.group rs) ∧ rs.length = emul f.vtype c.width

/-- Element e, of width w, of the group that field k has captured; 0 where the stage takes no such operand. -/
def VFlight.elem (f : VFlight) (w k e : Nat) : Nat :=
  match if k < opArity (hcwOf f.entry).opa then afind f.ops k else none with
  | some (.group rs) => velem (rs.getD (e / (4096 / w)) 0) w (e % (4096 / w))
  | _ => 0

/-- The lane group of element e is enabled, the element is active, and it is written: with its result, or with ones by MA or
TA. -/
def VFlight.laneOn (f : VFlight) (w e : Nat) : Bool := (hcwOf f.entry).lge.testBit (e % (4096 / w) * w / 512)
def VFlight.isOn (f : VFlight) (w e : Nat) : Bool :=
  f.laneOn w e && decide (e < f.vl) && (!(hcwOf f.entry).men || f.mask.getLsbD e)
def VFlight.maskAgnostic (f : VFlight) : Bool := f.vtype.getLsbD 6 && !(hcwOf f.entry).mpo
def VFlight.tailAgnostic (f : VFlight) : Bool := f.vtype.getLsbD 7 && !(hcwOf f.entry).tpo
def VFlight.isWritten (f : VFlight) (w e : Nat) : Bool :=
  f.laneOn w e && (f.isOn w e || if e < f.vl then f.maskAgnostic else f.tailAgnostic)

/-- The type in which a stage works where the entry converts nothing: ET, or what DYN stands for (08 R153). -/
def VFlight.typeOf (f : VFlight) (op : Nat) : Nat := resolveType f.vtype op (hcwOf f.entry).et
def VFlight.classOf (f : VFlight) (op : Nat) : TypeClass := (typeClass (f.typeOf op)).getD (.block 0)

/-- An entry in flight that works in scalar types of one width, on groups of that width, and writes a register group. -/
def VFlight.shaped (f : VFlight) (w : Nat) : Prop :=
  (∀ op, (f.classOf op).width = w ∧ ∀ b, f.classOf op ≠ .block b) ∧ (hcwOf f.entry).dst < 384 ∧ emul f.vtype w ≠ 0 ∧
    ∀ k rs, afind f.ops k = some (.group rs) → rs.length = emul f.vtype w

/-- The immediate of an entry, as a stage reads it (02 R45). -/
def VFlight.imm (f : VFlight) (op : Nat) : Nat :=
  let h := hcwOf f.entry
  (immPattern (f.typeOf op) h.imm h.rnd h.satb).1

/-- Element e, of width w, of what source field k gives a stage: a register group, a broadcast, the immediate or the element
index (08 R152). -/
def VFlight.arg (f : VFlight) (op w k e : Nat) : Nat :=
  let h := hcwOf f.entry
  match afind f.ops k with
  | some (.group rs) => velem (rs.getD (e / (4096 / w)) 0) w (e % (4096 / w))
  | some (.value x) => x.toNat % 2 ^ w
  | none =>
    if h.src.getD k 0 = 385 then f.imm op
    else if h.src.getD k 0 = 387 then (indexPattern (f.typeOf op) h.satb e).1
    else 0

/-- Bit e of the register that field k has captured, read in bit form. -/
def VFlight.bit (f : VFlight) (k e : Nat) : Bool :=
  match afind f.ops k with
  | some (.group rs) => (rs.headD 0).getLsbD e
  | _ => false

/-- The element stages: PASS, the integer stages, the float stages. -/
def intOps : List Nat := [1, 2, 3, 4, 5, 6, 7, 8, 9, 10, 11, 12, 13, 14, 15, 0x13, 0x14, 0x15, 0x16]
def floatOps : List Nat := [0x20, 0x21, 0x22, 0x23, 0x24, 0x25, 0x26, 0x27, 0x28, 0x2C, 0x2D, 0x2E, 0x2F, 0x30, 0x31, 0x32, 0x33]

/-- An opcode is an element stage that draws nothing: PASS, an integer stage, or a float stage in a float type. -/
def VFlight.hasElements (f : VFlight) (op : Nat) : Prop :=
  op = 0 ∨ op ∈ intOps ∨ (op ∈ floatOps ∧ (hcwOf f.entry).rnd ≠ 5 ∧ ∃ g, f.classOf op = .float g)

/-- The value and the flags of an element stage: an integer stage sees a float's code as the integer of its width (08 R153). -/
def VFlight.element (f : VFlight) (op x y z : Nat) : Nat × Flags :=
  let h := hcwOf f.entry
  if op = 0 then (x, 0)
  else match f.classOf op with
    | .float g =>
      if op ∈ floatOps then let r := floatStage op g h.rnd h.satb x y z .none 0; (r.1, r.2.1)
      else intStage op ⟨g.width, true⟩ h.satb x y z
    | .int t => intStage op t h.satb x y z
    | .block _ => (x, 0)

/-- A count as a result of a type (08 R166, R168): an integer, or converted under RNE. -/
def countIn (c : TypeClass) (sat : Bool) (n : Nat) : Nat × Flags :=
  match c with
  | .int t => t.narrow sat n
  | .float g => let r := g.round 0 sat (.ofInt n) .none 0; (r.1, r.2.1)
  | .block _ => (0, 0)

/-- One level of the tree of R167: neighbours combined in pairs, an empty one giving way to the other. A value goes with the
flags that its combinations raised. -/
def treeLevel (op : Nat → Nat → Nat × Flags) (xs : List (Option (Nat × Flags))) : List (Option (Nat × Flags)) :=
  (List.range (xs.length / 2)).map (fun i => match xs.getD (2 * i) none, xs.getD (2 * i + 1) none with
    | some a, some b => let r := op a.1 b.1; some (r.1, a.2 ||| b.2 ||| r.2)
    | some a, none => some a
    | none, b => b)

/-- The root of the tree over 2^n values. -/
def treeRoot (op : Nat → Nat → Nat × Flags) : Nat → List (Option (Nat × Flags)) → Option (Nat × Flags)
  | 0, xs => xs.getD 0 none
  | n + 1, xs => if xs.length ≤ 1 then xs.getD 0 none else treeRoot op n (treeLevel op xs)

/-- Every written element of DST, of width w, holds its value, or ones where it is inactive; each other element is kept (08
R150). -/
def VFlight.writes (f : VFlight) (core w : Nat) (val : Nat → Nat) : Prop :=
  let h := hcwOf f.entry
  let o := vcompute f core
  let per := 4096 / w
  o.regs.length = emul f.vtype w ∧ ∀ e, e < emul f.vtype w * per → ∃ v m,
    o.regs[e / per]? = some (h.dst + 8 * f.roff + e / per, v, m) ∧
    velem m w (e % per) = (if f.isWritten w e then 2 ^ w - 1 else 0) ∧
    (f.isWritten w e = true → velem v w (e % per) = if f.isOn w e then val e else 2 ^ w - 1)

/-- DST in bit form, for elements of width w: each written bit holds its value, or one where it is inactive; each other bit is
kept (08 R150). -/
def VFlight.writesMask (f : VFlight) (core w : Nat) (val : Nat → Bool) : Prop :=
  let h := hcwOf f.entry
  ∃ v m, (vcompute f core).regs = [(h.dst + 8 * f.roff, v, m)] ∧ ∀ e, e < 4096 →
    m.getLsbD e = (if e < f.vl then f.isWritten w e else f.tailAgnostic) ∧
    (m.getLsbD e = true → v.getLsbD e = if f.isOn w e then val e else true)

/-- The flags of an entry are those of its active elements, below n of them (08 R155). -/
def VFlight.raises (f : VFlight) (core w n : Nat) (fl : Nat → Flags) : Prop :=
  ∀ k, (vcompute f core).flags.getLsbD k = true ↔ ∃ e, e < n ∧ f.isOn w e = true ∧ (fl e).getLsbD k = true

/-! What the array reads (09 R181, R182). -/

/-- Element k of row i of tile tn, at physical tile ph: zero beyond the shape. -/
def State.rowValue (s : State) (ph n i k : Nat) : FVal :=
  if i < (s.shape n).rows ∧ k < (s.shape n).cols then
    codeValue (s.shape n).type (tileCode s.core.tiles ph (s.shape n) i k) (tileScale s.core.tiles ph (s.shape n) i k)
  else .fin false 0 0

/-- Element n of row k of the active weight bank, seen as a B type: zero in a row that nothing has written. -/
def ArrayUnit.activeWeight (u : ArrayUnit) (ty k n : Nat) : FVal :=
  let r := u.activeBank * 128 + k
  if aget none u.wtypes r = none then .fin false 0 0
  else codeValue ty (aget 0 u.weights (r * 128 + n)).toNat (aget 0 u.wscales (r * 4 + n / 32)).toNat

/-! What an engine command reads and writes in local SRAM (12 R242, R243). -/

/-- A unit of the core's own scratchpad, by its address and its offset. -/
def State.ownUnit (s : State) (va : Word) (n o : Nat) : Prop :=
  va.toNat = lwin + o ∧ 0 < n ∧ o + n ≤ 0xC0000 ∧ o / 0x8000 = (o + n - 1) / 0x8000 ∧ s.core.modeAt o = .scratch

/-- The core's scratchpad changes in one unit alone; memory is as before. -/
def State.sramBecomes (s t : State) (o : Nat) (bs : List Byte) : Prop :=
  agetN zeroByte t.core.sram o bs.length = bs ∧ t.mem = s.mem ∧
    ∀ x, x < o ∨ o + bs.length ≤ x → aget zeroByte t.core.sram x = aget zeroByte s.core.sram x

/-- Nothing that earlier bundles of the context issued is still to come, engine commands aside (23 R358). -/
def State.quiet (s : State) : Prop :=
  s.ctx.pend.lq = [] ∧ s.ctx.pend.stq = [] ∧ s.ctx.pend.flight = [] ∧ s.ctx.pend.reinject = [] ∧
    s.ctx.pend.shadows = [] ∧ s.core.arr.repeat_ = none ∧ s.core.arr.queue = []

end Sys2Proof.Machine
end

