-- ==== Sys2Proof/Certificates/Slice0/Obligations.lean ====
section
/-! DEFINITION. The statements for the provers: what the numbered rules of the manual, and the model's own choices where
it says so, give the machine. -/

section

open Sys2Proof Sys2Proof.Machine

/-! Scalar arithmetic (07 R133 to R139). -/

/-- R134, R135: the register forms compute sd from sa and sb, read in that order, through the queue port too. -/
def Obligations.ScalarRegisterForms : Prop :=
  ∀ (s u : State) (sd sa sb : BitVec 6) (a b : Word), s.clean.read2 1 sa sb = .ok (a, b, u) →
    let k := b.toNat % 64
    let gives := fun (i : Instr) (v : Word) => ∀ t, u.writeS 1 sd v = .ok t → exec i s = .next t
    gives (.add sd sa sb) (a + b) ∧ gives (.sub sd sa sb) (a - b) ∧ gives (.mul sd sa sb) (a * b) ∧
    gives (.mulh sd sa sb) ((a.signExtend 128 * b.signExtend 128).extractLsb' 64 64) ∧
    gives (.mulhu sd sa sb) ((a.zeroExtend 128 * b.zeroExtend 128).extractLsb' 64 64) ∧
    gives (.and sd sa sb) (a &&& b) ∧ gives (.or sd sa sb) (a ||| b) ∧ gives (.xor sd sa sb) (a ^^^ b) ∧
    gives (.andn sd sa sb) (a &&& ~~~b) ∧ gives (.shl sd sa sb) (a <<< k) ∧ gives (.shr sd sa sb) (a >>> k) ∧
    gives (.sar sd sa sb) (a.sshiftRight k) ∧
    gives (.rotr sd sa sb) (if k = 0 then a else a >>> k ||| a <<< (64 - k)) ∧
    gives (.min sd sa sb) (if a.toInt ≤ b.toInt then a else b) ∧
    gives (.max sd sa sb) (if a.toInt ≤ b.toInt then b else a) ∧
    gives (.minu sd sa sb) (if a.toNat ≤ b.toNat then a else b) ∧
    gives (.maxu sd sa sb) (if a.toNat ≤ b.toNat then b else a) ∧
    gives (.seq sd sa sb) (if a = b then 1 else 0) ∧
    gives (.slt sd sa sb) (if a.toInt < b.toInt then 1 else 0) ∧
    gives (.sltu sd sa sb) (if a.toNat < b.toNat then 1 else 0)

/-- R135: division truncates toward zero and the remainder takes the sign of the dividend; the rule's example encodes as
it says. -/
def Obligations.ScalarDivision : Prop :=
  encode (.div 3 4 5) = some 0x00310505 ∧ ∀ (s u : State) (sd sa sb : BitVec 6) (a b : Word), s.clean.read2 1 sa sb = .ok (a, b, u) →
    let gives := fun (i : Instr) (v : Word) => ∀ t, u.writeS 1 sd v = .ok t → exec i s = .next t
    let low := a = BitVec.intMin 64 ∧ b = -1
    (b = 0 → gives (.div sd sa sb) (-1) ∧ gives (.divu sd sa sb) (-1) ∧ gives (.rem sd sa sb) a ∧
      gives (.remu sd sa sb) a) ∧
    (low → gives (.div sd sa sb) (BitVec.intMin 64) ∧ gives (.rem sd sa sb) 0) ∧
    (b ≠ 0 → ¬ low →
      (∃ q : Word, q.toInt = Int.tdiv a.toInt b.toInt ∧ gives (.div sd sa sb) q) ∧
      ∃ r : Word, r.toInt = a.toInt - Int.tdiv a.toInt b.toInt * b.toInt ∧ gives (.rem sd sa sb) r) ∧
    (b ≠ 0 → (∃ q : Word, q.toNat = a.toNat / b.toNat ∧ gives (.divu sd sa sb) q) ∧
      ∃ r : Word, r.toNat = a.toNat % b.toNat ∧ gives (.remu sd sa sb) r)

/-- R134, R137: the counts of bits and the reversal; SELZ and FSHR also read the old sd, first; FSHRI takes its amount from
the encoding, and the rule's example of it encodes as it says. -/
def Obligations.ScalarCountsSelectAndFunnel : Prop :=
  encode (.fshri 8 9 10 13) = some 0x1C824A34 ∧ (∀ (s u : State) (sd sa : BitVec 6) (a : Word), s.clean.readS 1 sa = .ok (a, u) →
    let gives := fun (i : Instr) (v : Word) => ∀ t, u.writeS 1 sd v = .ok t → exec i s = .next t
    (∃ n, n ≤ 64 ∧ (∀ i, i < n → a.getLsbD (63 - i) = false) ∧ (n < 64 → a.getLsbD (63 - n) = true) ∧
      gives (.clz sd sa) (BitVec.ofNat 64 n)) ∧
    (∃ n, n ≤ 64 ∧ (∀ i, i < n → a.getLsbD i = false) ∧ (n < 64 → a.getLsbD n = true) ∧
      gives (.ctz sd sa) (BitVec.ofNat 64 n)) ∧
    gives (.popc sd sa) (BitVec.ofNat 64 ((List.range 64).countP (fun i => a.getLsbD i))) ∧
    (∃ r : Word, (∀ i, i < 64 → r.getLsbD i = a.getLsbD (63 - i)) ∧ gives (.brev sd sa) r)) ∧
  ((∀ (s u : State) (sd sa sb : BitVec 6) (d a b : Word), s.clean.read3 1 sd sa sb = .ok (d, a, b, u) →
    let gives := fun (i : Instr) (v : Word) => ∀ t, u.writeS 1 sd v = .ok t → exec i s = .next t
    gives (.selz sd sa sb) (if d ≠ 0 then a else b) ∧
    gives (.fshr sd sa sb) (((a ++ b : BitVec 128) >>> (d.toNat % 64)).truncate 64)) ∧
  ∀ (s u : State) (sd sa sb sh : BitVec 6) (a b : Word), s.clean.read2 1 sa sb = .ok (a, b, u) →
    ∀ t, u.writeS 1 sd (((a ++ b : BitVec 128) >>> sh.toNat).truncate 64) = .ok t →
      exec (.fshri sd sa sb sh) s = .next t)

/-- R136, R138: the immediate forms take the field sign-extended; SLI and SINS build constants; the rules' examples encode
as they say, and a shift form whose bits [13:6] are not zero is none. -/
def Obligations.ScalarImmediateForms : Prop :=
  (encode (.addi 5 5 1) = some 0x04514001 ∧ encode (.andi 2 2 255) = some 0x082080FF ∧
    encode (.ori 2 0 (-1)) = some 0x0C203FFF ∧ encode (.xori 6 5 3) = some 0x10614003 ∧
    encode (.slti 2 3 0) = some 0x1420C000 ∧ encode (.sltiu 2 3 (-1)) = some 0x1820FFFF ∧
    encode (.muli 7 7 24) = some 0x2C71C018 ∧ encode (.shli 4 4 12) = some 0x2041000C ∧
    encode (.shri 4 4 63) = some 0x2441003F ∧ encode (.sari 4 4 1) = some 0x28410001 ∧
    encode (.sli 4 5) = some 0x40400005 ∧ readAs .s 0x2041004C = none ∧ readAs .s 0x2441007F = none ∧
    readAs .s 0x28410041 = none) ∧
  (∀ (s u : State) (sd sa : BitVec 6) (imm : BitVec 14) (sh : BitVec 6) (a : Word), s.clean.readS 1 sa = .ok (a, u) →
    let x : Word := imm.signExtend 64
    let gives := fun (i : Instr) (v : Word) => ∀ t, u.writeS 1 sd v = .ok t → exec i s = .next t
    gives (.addi sd sa imm) (a + x) ∧ gives (.andi sd sa imm) (a &&& x) ∧ gives (.ori sd sa imm) (a ||| x) ∧
    gives (.xori sd sa imm) (a ^^^ x) ∧ gives (.slti sd sa imm) (if a.toInt < x.toInt then 1 else 0) ∧
    gives (.sltiu sd sa imm) (if a.toNat < x.toNat then 1 else 0) ∧ gives (.muli sd sa imm) (a * x) ∧
    gives (.shli sd sa sh) (a <<< sh.toNat) ∧ gives (.shri sd sa sh) (a >>> sh.toNat) ∧
    gives (.sari sd sa sh) (a.sshiftRight sh.toNat)) ∧
  (∀ (s t : State) (sd : BitVec 6) (imm : BitVec 20), s.clean.writeS 1 sd (imm.signExtend 64) = .ok t →
    exec (.sli sd imm) s = .next t) ∧
  ∀ (s u t : State) (sd : BitVec 6) (imm : BitVec 20) (d : Word), s.clean.readS 1 sd = .ok (d, u) →
    u.writeS 1 sd (d <<< 20 ||| (imm.signExtend 64 &&& 0xFFFFF)) = .ok t → exec (.sins sd imm) s = .next t

/-- R139: bit fields of n bits from pos upward; one that would leave the register raises ILLI; the rule's example encodes
as it says. -/
def Obligations.ScalarBitFields : Prop :=
  encode (.bfxu 1 2 8 4) = some 0x64108810 ∧ ∀ (s : State) (sd sa pos len : BitVec 6),
    let n := if len = 0 then 64 else len.toNat
    let p := pos.toNat
    (64 < p + n →
      StopsWith (.bfx sd sa pos len) s (trapSlot cILLI 1) ∧ StopsWith (.bfxu sd sa pos len) s (trapSlot cILLI 1) ∧
      StopsWith (.bfi sd sa pos len) s (trapSlot cILLI 1)) ∧
    (p + n ≤ 64 → ∀ (u : State) (a : Word), s.clean.readS 1 sa = .ok (a, u) →
      (∃ v : Word, (∀ i, i < 64 → v.getLsbD i = a.getLsbD (p + Nat.min i (n - 1))) ∧
        ∀ t, u.writeS 1 sd v = .ok t → exec (.bfx sd sa pos len) s = .next t) ∧
      ∃ v : Word, (∀ i, i < 64 → v.getLsbD i = (decide (i < n) && a.getLsbD (p + i))) ∧
        ∀ t, u.writeS 1 sd v = .ok t → exec (.bfxu sd sa pos len) s = .next t) ∧
    (p + n ≤ 64 → ∀ (u : State) (d a : Word), s.clean.read2 1 sd sa = .ok (d, a, u) →
      ∃ v : Word, (∀ i, i < 64 → v.getLsbD i = if p ≤ i ∧ i < p + n then a.getLsbD (i - p) else d.getLsbD i) ∧
        ∀ t, u.writeS 1 sd v = .ok t → exec (.bfi sd sa pos len) s = .next t)

/-- R57: s0 reads 0 and discards; s62 pops a scalar of LDQ and pushes a scalar to SDQ, blocks when the one is empty or
the other full, and raises QORDER at a vector entry; any other register reads as last written. -/
def Obligations.ScalarRegisterPorts : Prop :=
  ∀ (s : State) (slot : Nat) (v : Word),
    s.readS slot 0 = .ok (0, s) ∧ s.writeS slot 0 v = .ok s ∧
    (s.ctx.pend.ldq = [] → s.readS slot 62 = .error .block) ∧
    (∀ x q, s.ctx.pend.ldq = .scalar x :: q →
      ∃ t, s.readS slot 62 = .ok (x, t) ∧ t = s.modPend (fun p => { p with ldq := q })) ∧
    (∀ x e q, s.ctx.pend.ldq = .vector x e :: q → s.readS slot 62 = .error (trapSlot cQORDER slot)) ∧
    (64 ≤ s.ctx.pend.sdq.length → s.writeS slot 62 v = .error .block) ∧
    (s.ctx.pend.sdq.length < 64 → s.ctx.pend.claims[s.ctx.pend.sdq.length]? ≠ some true →
      s.writeS slot 62 v = .ok (s.modPend (fun p => { p with sdq := p.sdq ++ [⟨false, 0, some (.scalar v)⟩] }))) ∧
    (∀ n m : BitVec 6, n ≠ 0 → n ≠ 62 → m ≠ 62 → s.latch = none → ∃ t, s.writeS slot n v = .ok t ∧
      ∃ x, s.readS slot m = .ok (x, s) ∧ t.readS slot m = .ok (if m = n then v else x, t))

/-! Control registers (03 R59, R60; 07 R140 to R142). -/

/-- R60, R140: what CRR of each control register gives; an unassigned number raises ILLI, a supervisor number PRIV. -/
def Obligations.ControlRegisterReads : Prop :=
  ∀ (s : State) (sd : BitVec 6),
    let reads := fun (cr : BitVec 12) (v : Word) =>
      ∀ t, s.clean.writeS 1 sd v = .ok t → exec (.crr sd cr) s = .next t
    let levels := (s.latch.map (fun l => l.2.2)).getD s.ctx.loopsNow.levels
    reads 0x000 (BitVec.ofNat 64 s.cyc) ∧ reads 0x001 s.rd.vl ∧ reads 0x002 s.rd.vtype ∧ reads 0x003 s.rd.fmt ∧
    reads 0x004 s.rd.stat ∧ reads 0x005 s.rd.lscale ∧ reads 0x006 s.rd.seed ∧ reads 0x008 s.crd.taskid ∧
    reads 0x009 s.crd.deadl ∧ reads 0x00A s.crd.budget ∧ reads 0x00B s.crd.bused ∧ reads 0x010 s.crd.mfp0 ∧
    reads 0x011 s.crd.mfp1 ∧ reads 0x018 (BitVec.ofNat 64 levels.length) ∧
    (∀ k : Nat, k < 6 → reads (BitVec.ofNat 12 (0x19 + k)) (((levels[k]?).map LoopLevel.index).getD 0)) ∧
    (∀ k : Nat, k < 16 → reads (BitVec.ofNat 12 (0x20 + k)) ((afind s.crd.tshape k).getD 0x7FFE0)) ∧
    (∀ k : Nat, k < 4 → reads (BitVec.ofNat 12 (0x30 + k)) (aget GroupSlot.reset s.core.groups k).stat) ∧
    reads 0x040 s.crd.trapvec ∧ reads 0x041 s.crd.trapcause ∧ reads 0x042 s.crd.trappc ∧ reads 0x043 s.crd.trapinfo ∧
    reads 0x044 s.crd.rqcount ∧ reads 0x045 (if s.ctx.mode = .handler then 1 else 0) ∧ reads 0x050 s.crd.vwin ∧
    reads 0x051 s.crd.twin ∧ reads 0x060 (BitVec.ofNat 64 s.ctxId) ∧ reads 0x061 (BitVec.ofNat 64 s.coreId) ∧
    reads 0x062 (BitVec.ofNat 64 (s.coreId / 4)) ∧ reads 0x063 (BitVec.ofNat 64 s.ctx.part) ∧
    (∃ v u, s.clean.l2eff = (v, u) ∧ v.toNat ≤ 4 * 65536 * 4 ∧
      ∀ t, u.writeS 1 sd v = .ok t → exec (.crr sd 0x070) s = .next t) ∧
    (∀ cr : BitVec 12, 0x100 ≤ cr.toNat → StopsWith (.crr sd cr) s (trapSlot cPRIV 1)) ∧
    ∀ cr : BitVec 12, let n := cr.toNat
      let assigned := n ≤ 0x006 ∨ (0x008 ≤ n ∧ n ≤ 0x00B) ∨ n = 0x010 ∨ n = 0x011 ∨ (0x018 ≤ n ∧ n ≤ 0x01E) ∨
        (0x020 ≤ n ∧ n ≤ 0x033) ∨ (0x040 ≤ n ∧ n ≤ 0x045) ∨ n = 0x050 ∨ n = 0x051 ∨ (0x060 ≤ n ∧ n ≤ 0x063) ∨ n = 0x070
      n < 0x100 → ¬ assigned → StopsWith (.crr sd cr) s (trapSlot cILLI 1)

/-- R60, R141: what CRW writes; a refused value, a register that is not written by CRW and an unassigned number raise
ILLI, and a supervisor number PRIV. -/
def Obligations.ControlRegisterWrites : Prop :=
  ∀ (s u : State) (sa : BitVec 6) (v : Word), s.clean.readS 1 sa = .ok (v, u) →
    let writes := fun (cr : BitVec 12) (t : State) => exec (.crw sa cr) s = .next t
    let refuses := fun (cr : BitVec 12) => StopsWith (.crw sa cr) s (trapSlot cILLI 1)
    let n := v.toNat
    (fmtOk n = true → writes 0x003 (u.setFmt (v &&& 0x3FFFFFF))) ∧ (fmtOk n = false → refuses 0x003) ∧
    writes 0x004 (u.modRegs (fun r => { r with stat := v &&& 0xFF })) ∧
    writes 0x005 (u.modRegs (fun r => { r with lscale := v &&& 0xFF })) ∧
    writes 0x006 { u with ctx := { u.ctx with r := { u.ctx.r with seed := v }, reseed := true } } ∧
    writes 0x009 (u.modCtrl (fun c => { c with deadl := v })) ∧
    writes 0x00A (u.modCtrl (fun c => { c with budget := v })) ∧
    writes 0x040 (u.modCtrl (fun c => { c with trapvec := v &&& ~~~1#64 })) ∧
    (mfpOk n = false → refuses 0x010 ∧ refuses 0x011) ∧
    (mfpOk n = true → u.core.arr.dirty = false →
      writes 0x010 (u.modCtrl (fun c => { c with mfp0 := v })) ∧
      writes 0x011 (u.modCtrl (fun c => { c with mfp1 := v }))) ∧
    (∀ k : Nat, k < 16 → tshapeOk n = false → refuses (BitVec.ofNat 12 (0x20 + k))) ∧
    (∀ k : Nat, k < 16 → tshapeOk n = true →
      writes (BitVec.ofNat 12 (0x20 + k)) (u.modCtrl (fun c => { c with tshape := aset 0x7FFE0 c.tshape k v }))) ∧
    (∀ cr : BitVec 12, 0x100 ≤ cr.toNat → StopsWith (.crw sa cr) s (trapSlot cPRIV 1)) ∧
    ∀ cr : BitVec 12, let k := cr.toNat
      let written := (0x003 ≤ k ∧ k ≤ 0x006) ∨ k = 0x009 ∨ k = 0x00A ∨ k = 0x010 ∨ k = 0x011 ∨
        (0x020 ≤ k ∧ k ≤ 0x02F) ∨ k = 0x040
      k < 0x100 → ¬ written → refuses cr

/-- R38, R24, R46, R60: which values FMT, MFPn and TSHAPEn accept, field by field; a shape is accepted exactly where its
fields are, and its rows × columns × element bytes stay within 16 KiB, a B4 element counting half a byte and each row one
scale byte more for each started group of 32 columns. And what the rounding modes and the formats that these values name mean
(R26, R31 to R33, R35, R36, R39 to R41, R47): each mode takes one of the two neighbours of an exact value; a conversion gives
the code of a representable value unchanged, a neighbour of any other, and the table's result and flags for a NaN, an infinity
and a value out of range; sums and products are exact before they are rounded. A block that holds a NaN is the NaN block; that
it raises NV for a signalling NaN only is the model's reading of R41 beside R47 (log 72). -/
def Obligations.ControlRegisterValues : Prop :=
  (∀ v, fmtOk v = true ↔ v / 2 ^ 13 % 2 ^ 13 = 0 ∧ v / 2 ^ 9 % 8 ≤ 4 ∧ v / 2 ^ 5 % 8 ≤ 5 ∧
    v % 32 ∈ [0, 1, 2, 3, 4, 5, 8, 9, 10, 11, 12, 31]) ∧
  (∀ v, mfpOk v = true ↔ v < 1024 ∧ (v % 32, v / 32) ∈ [(0, 0), (0, 1), (1, 0), (1, 1), (8, 8), (8, 9), (9, 8), (9, 9),
    (8, 16), (9, 16), (16, 8), (16, 9), (16, 16), (10, 10), (11, 11)]) ∧
  (∀ v, let ty := v % 32
    let rows := v / 2 ^ 5 % 128 + 1
    let cols := v / 2 ^ 12 % 256 + 1
    let bytes := if ty ∈ [0, 1, 8, 9] then 1 else if ty ∈ [2, 3, 10, 11] then 2 else 4
    tshapeOk v = true ↔ v < 2 ^ 20 ∧ cols ≤ 128 ∧ ty ∈ [0, 1, 2, 3, 4, 5, 8, 9, 10, 11, 12, 16] ∧
      if ty = 16 then rows * cols + 2 * (rows * ((cols + 31) / 32)) ≤ 2 * 16384 else rows * cols * bytes ≤ 16384) ∧
  -- R35: the two neighbours of a value, and the one that each mode takes
  (∀ (mode m sh lane : Nat) (neg : Bool) (g : Rng), mode ≤ 5 →
    let r := roundNat mode neg m sh g lane
    let lo := m / 2 ^ sh
    let part := m % 2 ^ sh
    let d := (g.draw lane).1
    (part = 0 → r = (lo, false, g)) ∧
    (part ≠ 0 → r.2.1 = true ∧ (r.1 = lo ∨ r.1 = lo + 1) ∧ r.2.2 = (if mode = 5 then (g.draw lane).2 else g) ∧
      (mode = 0 → (2 * part < 2 ^ sh → r.1 = lo) ∧ (2 ^ sh < 2 * part → r.1 = lo + 1) ∧
        (2 * part = 2 ^ sh → r.1 % 2 = 0)) ∧
      (mode = 1 → r.1 = lo) ∧ (mode = 2 → (r.1 = lo + 1 ↔ neg = false)) ∧ (mode = 3 → (r.1 = lo + 1 ↔ neg = true)) ∧
      (mode = 4 → (r.1 = lo + 1 ↔ 2 ^ sh ≤ 2 * part)) ∧
      (mode = 5 → (r.1 = lo + 1 ↔
        if neg then (2 ^ sh - part) * 65536 ≤ d * 2 ^ sh else d * 2 ^ sh < part * 65536)))) ∧
  -- R36, R39: conversion to a float format
  (∀ f ∈ [fmtE4M3, fmtE5M2, fmtFP16, fmtBF16, fmtFP32], ∀ (mode lane : Nat) (sat : Bool) (g : Rng), mode ≤ 5 →
    let to_ := fun (v : FVal) => f.round mode sat v g lane
    (∀ sg, to_ (.nan sg) = (f.nanCode, if sg then fNV else 0, g)) ∧
    (∀ neg, to_ (.inf neg) = if sat then (f.signed neg f.maxCode, fSAT, g)
      else if f.ieee then (f.signed neg f.infCode, 0, g) else (f.nanCode, fNV, g)) ∧
    (∀ c neg m e, c < 2 ^ f.width → f.decode c = .fin neg m e → to_ (f.decode c) = (c, 0, g)) ∧
    (∀ c neg m e, c < f.maxCode → FVal.lt (.fin false m e) (f.decode c) = false →
      FVal.lt (.fin false m e) (f.decode (c + 1)) = true →
      let r := to_ (.fin neg m e)
      let exact := FVal.lt (f.decode c) (.fin false m e) = false
      (exact → r = (f.signed neg c, 0, g)) ∧
      (¬ exact → (r.1 = f.signed neg c ∨ r.1 = f.signed neg (c + 1)) ∧ r.2.1 &&& fNX = fNX ∧
        (mode = 1 → r.1 = f.signed neg c) ∧ (mode = 2 → r.1 = f.signed neg (if neg then c else c + 1)) ∧
        (mode = 3 → r.1 = f.signed neg (if neg then c + 1 else c)))) ∧
    ∀ neg m e, FVal.lt (.fin false m e) (.fin false 1 ((f.emax : Int) + (if f.ieee then 0 else 1) - f.bias)) = false →
      let r := to_ (.fin neg m e)
      let down := mode = 1 ∨ (mode = 2 ∧ neg = true) ∨ (mode = 3 ∧ neg = false)
      (sat = true → r.1 = f.signed neg f.maxCode ∧ r.2.1 = fSAT ||| fNX) ∧
      (sat = false → r.2.1 = fOF ||| fNX ∧
        r.1 = if f.ieee then f.signed neg (if down then f.maxCode else f.infCode) else f.nanCode)) ∧
  -- the table of R40: FP32 to F8.E4M3 under RNE
  (∀ r ∈ [(0x3F800000, 0x38, 0, 0x38, 0), (0x3E99999A, 0x2A, fNX, 0x2A, fNX), (0x43E80000, 0x7E, fNX, 0x7E, fNX),
      (0x43FA0000, 0x7F, fOF ||| fNX, 0x7E, fSAT ||| fNX), (0xFF800000, 0x7F, fNV, 0xFE, fSAT),
      (0x3A83126F, 0x01, fUF ||| fNX, 0x01, fUF ||| fNX), (0x3A6BEDFA, 0, fUF ||| fNX, 0, fUF ||| fNX),
      (0x7F800001, 0x7F, fNV, 0x7F, fNV)],
    let to_ := fun (sat : Bool) => fmtE4M3.round 0 sat (fmtFP32.decode r.1) .none 0
    (to_ false).1 = r.2.1 ∧ (to_ false).2.1 = r.2.2.1 ∧ (to_ true).1 = r.2.2.2.1 ∧ (to_ true).2.1 = r.2.2.2.2) ∧
  -- R26, R40: conversion to an integer type
  (∀ (t : IntFmt), t.width ∈ [8, 16, 32, 64] → ∀ (sat : Bool),
    let inside := fun (x : Int) => t.minV ≤ x ∧ x ≤ t.maxV
    let clamped := fun (x : Int) => if x < t.minV then t.minV else t.maxV
    (∀ x, let r := t.narrow sat x
      (inside x → t.decode r.1 = x ∧ r.2 = 0) ∧
      (¬ inside x → sat = true → t.decode r.1 = clamped x ∧ r.2 = fSAT) ∧
      (¬ inside x → sat = false → r.1 = (x % (2 ^ t.width : Nat)).toNat ∧ r.2 = fIOV)) ∧
    ∀ (mode lane : Nat) (g : Rng), mode ≤ 5 → (∀ sg, t.ofFloat mode sat (.nan sg) g lane = (0, fNV, g)) ∧
      ∀ neg m e, let n := roundNat mode neg (m * 2 ^ e.toNat) (-e).toNat g lane
        let x : Int := if neg then -(n.1 : Int) else n.1
        let nx : Flags := if n.2.1 then fNX else 0
        let r := t.ofFloat mode sat (.fin neg m e) g lane
        (inside x → t.decode r.1 = x ∧ r.2.1 = nx) ∧
        (¬ inside x → t.decode r.1 = (if sat then clamped x else t.minV) ∧
          r.2.1 = (if sat then fSAT else fNV) ||| nx)) ∧
  -- R155, R158: sums and products are exact
  (∀ (mode m n : Nat) (a b : Bool) (e k : Int), (∃ c p q, FVal.add mode (.fin a m e) (.fin b n k) = (.fin c p q, false) ∧
      ∀ z, z ≤ e → z ≤ k → scaled c p q z = scaled a m e z + scaled b n k z) ∧
    ∃ c p q, FVal.mul (.fin a m e) (.fin b n k) = (.fin c p q, false) ∧
      ∀ z w, z ≤ e → w ≤ k → scaled c p q (z + w) = scaled a m e z * scaled b n k w) ∧
  -- R31 to R33: the values of B4 codes under a scale of 2^0, and the NaN blocks
  (∀ r ∈ [(0x60, [0, 1, 2, 3, 4, 6, 8, 12]), (0xA0, [0, 2, 4, 8, 16, 32, 64, 128]), (0xE0, [0, 2, 4, 6, 8, 10, 16, 32])],
    ∀ c, c < 8 → blockValue 4 r.1 c = .fin false (r.2.getD c 0) (-1) ∧
      blockValue 4 r.1 (c + 8) = .fin true (r.2.getD c 0) (-1)) ∧
  (∀ c, c < 16 → blockValue 4 0x20 c = if c < 8 then .fin false c 0 else .fin true (16 - c) 0) ∧
  (∀ bits ty e code, bits = 4 ∨ bits = 6 → ty < 4 → e < 64 →
    if isNanScale bits (64 * ty + e) then blockValue bits (64 * ty + e) code = .nan false
    else ∃ neg m q, blockValue bits (64 * ty + 32) code = .fin neg m q ∧
      blockValue bits (64 * ty + e) code = .fin neg m (q + e - 32)) ∧
  ∀ (bits ty mode : Nat) (sat : Bool) (xs : List (Option FVal × Nat)) (g : Rng), (∃ x ∈ xs, ∃ sg, x.1 = some (.nan sg)) →
    encodeBlock bits ty mode sat xs g =
      (0xFF, List.replicate 32 0, if xs.any (fun x => x.1 = some (.nan true)) then fNV else 0, g)

/-- R142: SETVL sets VL, VTYPE and sd; a refused vtype14 raises ILLI. -/
def Obligations.SetVectorLength : Prop :=
  ∀ (s : State) (sd sa : BitVec 6) (vt : BitVec 14),
    let sew := vt.toNat / 2 ^ 11 % 8
    let lmul := vt.toNat / 2 ^ 8 % 8
    let ok := sew ≤ 2 ∧ lmul ≤ 3 ∧ vt.toNat % 32 = 0
    let vlmax := 4096 / (8 * 2 ^ sew) * 2 ^ lmul
    (¬ ok → StopsWith (.setvl sd sa vt) s (trapSlot cILLI 1)) ∧
    (ok → ∀ (u : State) (n : Word), (if sa = 0 then u = s.clean ∧ n.toNat = vlmax else s.clean.readS 1 sa = .ok (n, u)) →
      let vl : Word := BitVec.ofNat 64 (Nat.min n.toNat vlmax)
      ∀ t, (u.modRegs (fun r => { r with vl := vl, vtype := vt.zeroExtend 64 })).writeS 1 sd vl = .ok t →
        exec (.setvl sd sa vt) s = .next t)

/-! Control (07 R115 to R132). -/

/-- R116, R115: where control goes next; the sequential address stands until a transfer replaces it. -/
def Obligations.ControlTransfers : Prop :=
  (∀ (s : State), exec .nop s = .next s.clean) ∧
  (∀ (s : State) (off : BitVec 26),
    exec (.br off) s = .next (s.clean.jump (s.ctx.pc + 2 * off.signExtend 64)) ∧
    exec (.call off) s = .next ((s.clean.setS 63 s.ctx.npc).jump (s.ctx.pc + 2 * off.signExtend 64))) ∧
  ∀ (s u : State) (sa : BitVec 6) (x : Word), s.clean.readS 0 sa = .ok (x, u) →
    exec (.jr sa) s = .next (u.jump x) ∧
    exec (.callr sa) s = .next ((u.setS 63 s.ctx.npc).jump x) ∧
    (sa = 63 → exec .ret s = .next (u.jump x)) ∧
    ∀ (cond : BitVec 4) (off : BitVec 16),
      let taken := fun (c : Nat) => match c with
        | 0 => x = 0
        | 1 => x ≠ 0
        | 2 => x.toInt < 0
        | 3 => 0 ≤ x.toInt
        | 4 => 0 < x.toInt
        | _ => x.toInt ≤ 0
      cond.toNat ≤ 5 →
        (taken cond.toNat → exec (.bc cond sa off) s = .next (u.jump (s.ctx.pc + 2 * off.signExtend 64))) ∧
        (¬ taken cond.toNat → exec (.bc cond sa off) s = .next u)

/-- R118 to R120: LOOP pushes a level, or skips a body whose count is not positive; a full stack, or a body that leaves the
innermost level, raises ILLI. LBREAK n pops the n innermost levels and goes to the end of the outermost of them. At the
end of a level the next address goes round again, or the level is popped and its outer ones are tested. -/
def Obligations.LoopLevels : Prop :=
  (∀ (s u : State) (sa : BitVec 6) (cnt : BitVec 11) (len : BitVec 9) (n : Word),
    (if sa = 0 then u = s.clean ∧ n = cnt.zeroExtend 64 else s.clean.readS 0 sa = .ok (n, u)) →
    let start := u.ctx.npc
    let stop := start + 2 * len.zeroExtend 64
    let l := u.ctx.loopsNow
    let inside := ∀ top rest, l.levels = top :: rest → stop.toNat ≤ top.stop.toNat
    (6 ≤ l.levels.length → StopsWith (.loop sa cnt len) s (trapSlot cILLI 0)) ∧
    (l.levels.length < 6 → ¬ inside → StopsWith (.loop sa cnt len) s (trapSlot cILLI 0)) ∧
    (l.levels.length < 6 → inside → 0 < n.toInt → exec (.loop sa cnt len) s =
      .next { u with ctx := u.ctx.setLoops { l with levels := ⟨start, stop, n, 0⟩ :: l.levels } }) ∧
    (l.levels.length < 6 → inside → n.toInt ≤ 0 → exec (.loop sa cnt len) s = .next (u.jump stop))) ∧
  (∀ (s : State) (n : BitVec 3), 1 ≤ n.toNat →
    let l := s.ctx.loopsNow
    (l.levels.length < n.toNat → StopsWith (.lbreak n) s (trapSlot cILLI 0)) ∧
    (∀ level, l.levels[n.toNat - 1]? = some level → ∃ t, exec (.lbreak n) s = .next t ∧
      t.ctx.loopsNow.levels = l.levels.drop n.toNat ∧ t.ctx.npc = level.stop)) ∧
  (∀ (top : LoopLevel) (rest : List LoopLevel) (n : Word),
    (n ≠ top.stop → advance (top :: rest) n = (top :: rest, n)) ∧
    (n = top.stop → (top.index + 1).toInt < top.count.toInt →
      advance (top :: rest) n = ({ top with index := top.index + 1 } :: rest, top.start)) ∧
    (n = top.stop → top.count.toInt ≤ (top.index + 1).toInt → advance (top :: rest) n = advance rest n) ∧
    advance [] n = ([], n))

/-- R123 to R125, R127, R132: where SETFMT, SLEEPU, YIELD, HALT and MWAIT complete, with the next state of each: SETFMT at
every value that R38 accepts, SLEEPU from its target cycle on, YIELD and HALT in every state, MWAIT once its status is
settled. Elsewhere SETFMT raises ILLI, and SLEEPU and MWAIT block. HALT tells the host which context of which task stops, and
where it would go on (R391). That an MWAIT ends with status 3 while its watch is set and a save is requested is the model's
choice (log 58). -/
def Obligations.FormatAndWaits : Prop :=
  (∀ (s : State) (imm : BitVec 26), fmtOk imm.toNat = true →
    exec (.setfmt imm) s = .next (s.clean.setFmt (imm.zeroExtend 64))) ∧
  (∀ (s : State) (imm : BitVec 26), fmtOk imm.toNat = false → StopsWith (.setfmt imm) s (trapSlot cILLI 0)) ∧
  (∀ (s u : State) (sa : BitVec 6) (x : Word), s.clean.readS 0 sa = .ok (x, u) → x.toNat ≤ s.cyc →
    exec (.sleepu sa) s = .next u) ∧
  (∀ (s u : State) (sa : BitVec 6) (x : Word), s.clean.readS 0 sa = .ok (x, u) → s.cyc < x.toNat →
    StopsWith (.sleepu sa) s .block) ∧
  (∀ (s : State), ∃ t, exec .yield s = .next t ∧
    t = { s.clean with
      ctx := { s.ctx with cr := { s.ctx.cr with bused := 0 } },
      core := { s.core with selected := t.core.selected, woken := t.core.woken } } ∧
    (s.core.selected < 4 → s.ctxId < 4 → (∃ k, k < 4 ∧ k ≠ s.core.selected ∧ (s.getCtx (4 * s.coreId + k)).isReady = true) →
      t.core.selected < 4 ∧ t.core.selected ≠ s.core.selected ∧
        (s.getCtx (4 * s.coreId + t.core.selected)).isReady = true)) ∧
  (∀ (s : State), ∃ (t : State) (w : Word), exec .halt s = .next t ∧
    t = { s.clean with
      ctx := { s.ctx with status := .halted },
      out := s.out ++ [⟨0, 2 * s.ctx.part + 1, 0x14, [w, s.ctx.npc], 0⟩] } ∧
    (s.ctx.part < 2 ^ 8 → s.coreId < 2 ^ 6 → s.ctxId < 2 ^ 2 →
      w.extractLsb' 0 8 = BitVec.ofNat 8 s.ctx.part ∧ w.extractLsb' 8 6 = BitVec.ofNat 6 s.coreId ∧
      w.extractLsb' 16 2 = BitVec.ofNat 2 s.ctxId ∧ w.extractLsb' 32 32 = s.ctx.cr.taskid.truncate 32 ∧
      w.extractLsb' 14 2 = 0 ∧ w.extractLsb' 18 14 = 0)) ∧
  (∀ (s u : State) (sd sa : BitVec 6) (x : Word), s.clean.readS 0 sa = .ok (x, u) →
    let w := u.ctx.watch
    let v := fun (status : Nat) => BitVec.ofNat 64
      ((if w.st ≠ .idle ∧ w.msl then 2 ^ 10 else 0) + (if w.cnt ≠ 0 then w.orig * 2 ^ 8 else 0) + w.cnt * 2 ^ 4 + status)
    let ends := fun (y : Word) =>
      (∀ t, ({ u with ctx := { u.ctx with watch := Watch.none } }).writeS 0 sd y = .ok t → exec (.mwait sd sa) s = .next t) ∧
      (sd ≠ 62 → ∃ t, exec (.mwait sd sa) s = .next t ∧ t.ctx.watch = Watch.none ∧
        (sd ≠ 0 → aget 0 t.ctx.r.s sd.toNat = y))
    let told := ∃ n e y, u.ctx.status = .cleared n e (some y)
    (∀ n e y, u.ctx.status = .cleared n e (some y) → ends y) ∧
    (¬ told → w.st = .seen → ends (v 0)) ∧
    (¬ told → w.st = .dropped → ends (v 1)) ∧
    (¬ told → w.st = .idle → ends (v 1)) ∧
    (¬ told → w.st = .set → (u.getPart u.ctx.part).preState = 1 → ends (v 3)) ∧
    (¬ told → w.st = .set → (u.getPart u.ctx.part).preState ≠ 1 → StopsWith (.mwait sd sa) s .block))

/-! Exceptions (07 R130, R131; 23 R358 to R364). -/

/-- R130, R359: TRAP raises TRAP with its immediate as the record, in either mode; the rule's example encodes as it says. -/
def Obligations.TrapRaisesItsCause : Prop :=
  encode (.trap 0x42) = some 0x38000042 ∧ ∀ (s : State) (imm : BitVec 16), StopsWith (.trap imm) s (.trap 0x13 [imm.zeroExtend 64] .none)

/-- R358: entry in USER mode with a handler, once nothing earlier is to come and the frame is written. -/
def Obligations.TrapEntersHandler : Prop :=
  ∀ (s u : State) (c : BitVec 8) (rec : List Word), s.quiet → s.ctx.mode = .user → s.ctx.cr.trapvec ≠ 0 →
    ({ s with ctx := { s.ctx with pend := { s.ctx.pend with replay := [] } } }).writeFrame ⟨c, s.ctx.pc, rec⟩ = .ok u →
    let t := s.stopWith (trapR c rec)
    t.ctx.mode = .handler ∧ t.ctx.pc = s.ctx.cr.trapvec ∧ t.ctx.cr.trapcause = c.zeroExtend 64 ∧
    t.ctx.cr.trappc = s.ctx.pc ∧ t.ctx.cr.trapinfo = s.saveArea ∧ t.ctx.cr.rqcount = 0 ∧
    t.ctx.r.handlerBase = s.saveArea ∧ t.ctx.histHandler = [] ∧ t.ctx.loopsHandler.levels = [] ∧
    t.ctx.r.s = s.ctx.r.s ∧ t.ctx.r.a = s.ctx.r.a ∧ t.ctx.hist = s.ctx.hist ∧ t.ctx.loops = s.ctx.loops ∧
    t.core.vregs = s.core.vregs ∧ t.core.tiles = s.core.tiles ∧ t.mem = u.mem

/-- R358 step 3, R48: the results not yet written are frozen, up to the 32 entries of the replay queue: of 32 or fewer
all of them, and nothing stays in flight. What lies beyond 32 stays pending (the model's choice, log 73). -/
def Obligations.TrapFreezesResults : Prop :=
  ∀ (s : State), let t := s.freezeResults
    let n := s.ctx.pend.flight.length + s.ctx.pend.reinject.length + s.ctx.pend.shadows.length
    (n ≤ 32 → t.ctx.pend.flight = [] ∧ t.ctx.pend.shadows = [] ∧
      ∀ sh ∈ s.ctx.pend.shadows, Replay.shadow sh ∈ t.ctx.pend.replay) ∧
    t.ctx.pend.replay.length = min n 32 ∧ t.ctx.pend.flight.length + t.ctx.pend.shadows.length = n - 32 ∧
    (∀ sh ∈ s.ctx.pend.shadows, Replay.shadow sh ∈ t.ctx.pend.replay ∨ sh ∈ t.ctx.pend.shadows) ∧
    t.ctx.pend.reinject = [] ∧ t.ctx.r = s.ctx.r ∧ t.core = s.core ∧ t.mem = s.mem

/-- R360, R361: the head of the frame is CAUSE, TPC, RPC, RQN, a zero and 28 words of record. -/
def Obligations.TrapFrameLayout : Prop :=
  ∀ (c : BitVec 8) (pc rpc : Word) (rec : List Word) (n : Nat), n < 2 ^ 32 →
    let b := frameHead ⟨c, pc, rec⟩ rpc n
    b.length = 256 ∧ ofBytes (b.take 8) = c.toNat ∧ ofBytes ((b.drop 8).take 8) = pc.toNat ∧
    ofBytes ((b.drop 16).take 8) = rpc.toNat ∧ ofBytes ((b.drop 24).take 4) = n ∧ ofBytes ((b.drop 28).take 4) = 0 ∧
    ∀ i, i < 28 → ofBytes ((b.drop (32 + 8 * i)).take 8) = (rec.getD i 0).toNat

/-- R359: without a handler, and in HANDLER mode, a trap ends the task: with status 0x80 | cause, told to the host of a root
task; in HANDLER mode a host fault record names the frame, with KIND 7. The words of the completion message and of the
host fault record, and their places, are the model's layout of what the rules list (log 25). -/
def Obligations.TrapsThatEndTheTask : Prop :=
  (∀ (s : State) (c : BitVec 8) (rec : List Word), s.quiet → s.ctx.mode = .user → s.ctx.cr.trapvec = 0 →
    let t := s.stopWith (trapR c rec)
    t.ctx.status = .idle ∧ ∀ task tag, (s.getPart s.ctx.part).task? s.ctx.cr.taskid.toNat = some task →
      task.parent = none → task.tag = some tag →
      ∃ m ∈ t.out, m.kind = 0x02 ∧ m.body.take 3 = [tag, BitVec.ofNat 64 s.ctx.cr.taskid.toNat, (0x80 ||| c).zeroExtend 64]) ∧
  (∀ (s : State) (c : BitVec 8) (rec : List Word), s.quiet → s.ctx.mode = .handler →
    let t := s.stopWith (trapR c rec)
    t.ctx.status = .idle ∧ ∃ m ∈ t.out, m.kind = 0x03 ∧ m.body.take 7 =
      [BitVec.ofNat 64 s.ctx.part, BitVec.ofNat 64 s.coreId, BitVec.ofNat 64 s.ctxId, s.ctx.cr.taskid, c.zeroExtend 64,
        s.ctx.cr.trapinfo, 7])

/-- R131, R363, R364: ERET outside HANDLER mode raises ILLI; inside, it goes on at RPC in USER mode with the USER history
and loops as they stood, and skips C only where a TRAP is returned to in place; a frame that was altered is refused. -/
def Obligations.TrapReturnResumesUser : Prop :=
  (∀ (s : State), s.ctx.mode = .user → StopsWith .eret s (trapSlot cILLI 0)) ∧
  ∀ (s u v : State) (f : TrapReq) (h : List Byte) (rpc : Word), s.quiet → s.ctx.mode = .handler →
    s.ctx.frame = some f → s.ctx.pend.replay = [] → s.clean.loadBytes s.ctx.cr.trapinfo 256 .load 1 257 = .ok (h, u) →
    rpc = wordOf 64 ((h.drop 16).take 8) →
    (h ≠ frameHead f rpc 0 → StopsWith .eret s (trapSlot cILLI 0)) ∧
    (h = frameHead f rpc 0 → u.readEmpty s.ctx.cr.trapinfo 0 32 = .ok v →
      ∃ t, exec .eret s = .next t ∧ t.ctx.mode = .user ∧ t.ctx.npc = rpc ∧ t.ctx.cr.trappc = rpc ∧
        t.ctx.hist = v.ctx.hist ∧ t.ctx.loops = v.ctx.loops ∧ t.ctx.histHandler = [] ∧ t.ctx.frame = none ∧
        t.ctx.r = v.ctx.r ∧ t.mem = v.mem ∧ t.core = v.core ∧
        (t.ctx.skipC = true ↔ f.cause = 0x13 ∧ rpc = f.pc))

/-! Loads, stores and streams (10 R193 to R206; 18 R313 to R322). -/

/-- R193 to R195: LDQ and STQ take a place in their address queue; the access must be aligned, and STQ claims scalar
entries of SDQ. -/
def Obligations.QueueLoadsAndStores : Prop :=
  ∀ (s : State) (an inc : BitVec 4) (size : BitVec 3) (off : BitVec 16),
    let n := 2 ^ size.toNat
    let a := s.readA an + off.signExtend 64
    let k := (n + 7) / 8
    let claimable := ∀ e ∈ (s.ctx.pend.sdq.drop s.ctx.pend.claims.length).take k, e.isVector = false
    let room := (s.ctx.pend.lq.filter LoadOp.queued).length < 64
    (a.toNat % n ≠ 0 → StopsWith (.ldq an inc size off) s (trapR cALIGN [a]) ∧
      StopsWith (.stq an inc size off) s (trapR cALIGN [a])) ∧
    (a.toNat % n = 0 → ¬ room → StopsWith (.ldq an inc size off) s .block) ∧
    (a.toNat % n = 0 → ¬ claimable → StopsWith (.stq an inc size off) s (trapSlot cQORDER 2)) ∧
    (a.toNat % n = 0 → room → ∀ l u, s.clean.resolve a n .load 1 = .ok (l, u) →
      exec (.ldq an inc size off) s = .next (u.pushLoad .queue [(some l, n)])) ∧
    (a.toNat % n = 0 → room → ∀ e, s.clean.resolve a n .load 1 = .error e → StopsWith (.ldq an inc size off) s e) ∧
    (a.toNat % n = 0 → claimable → ∀ l u, s.clean.resolve a n .store 2 = .ok (l, u) →
      exec (.stq an inc size off) s = .next (u.pushStore (.queue k) [(some l, n)])) ∧
    (a.toNat % n = 0 → claimable → ∀ e, s.clean.resolve a n .store 2 = .error e → StopsWith (.stq an inc size off) s e)

/-- R193, R196: LD reserves the destination it will write, and ST gives the low bytes of a register. -/
def Obligations.ScalarLoadsAndStores : Prop :=
  ∀ (s : State) (an : BitVec 4) (r : BitVec 6) (size : BitVec 3) (sx : BitVec 1) (off : BitVec 13),
    let n := 2 ^ size.toNat
    let a := s.readA an + off.signExtend 64
    (a.toNat % n ≠ 0 → StopsWith (.ld an r size sx off) s (trapR cALIGN [a]) ∧
      StopsWith (.st an r size off) s (trapR cALIGN [a])) ∧
    (a.toNat % n = 0 → ∀ l u t, s.clean.resolve a n .load 1 = .ok (l, u) →
      (if r = 62 then u.pushSdq 2 ⟨false, u.ctx.pend.seq + 1, none⟩ = .ok t else t = u) →
      exec (.ld an r size sx off) s = .next (t.pushLoad (.reg r.toNat (sx = 1)) [(some l, n)])) ∧
    (a.toNat % n = 0 → ∀ v u l t, s.clean.readS 2 r = .ok (v, u) → u.resolve a n .store 2 = .ok (l, t) →
      exec (.st an r size off) s = .next (t.issueStore (.data (toBytes v.toNat n)) [(some l, n)]))

/-- R197 to R199: strided vector accesses take VL elements from the base on, in element order; VL 0 accesses nothing;
a first-fault load shortens VL to the elements before the fault, and keeps at least one; a store may leave an element that
it cannot reach, and whose data is still to come, to be translated when it is performed (the model's reading of R193 and
R197, assumption log 64). That ALIGN names the base, where the stride alone is misaligned, is the model's choice (log 57). -/
def Obligations.VectorLoadsAndStores : Prop :=
  (∀ (s u : State) (an : BitVec 4) (ss : BitVec 6) (ff : BitVec 1) (off : BitVec 9) (inc : BitVec 4) (st : Word),
    let w := sewBits s.rd.vtype
    let n := w / 8
    let vl := s.rd.vl.toNat
    let b := s.readA an + 512 * off.signExtend 64
    let p := 4096 / w
    let at_ := fun (e : Nat) => some (b + BitVec.ofNat 64 e * st)
    (if ss = 0 then st = BitVec.ofNat 64 n ∧ u = s.clean else s.clean.readS 2 ss = .ok (st, u)) →
    (b.toNat % n ≠ 0 ∨ st.toNat % n ≠ 0 → StopsWith (.vldq an ss ff off inc) s (trapR cALIGN [b]) ∧
      StopsWith (.vstq an ss off inc) s (trapR cALIGN [b])) ∧
    (b.toNat % n = 0 → st.toNat % n = 0 →
      (vl = 0 → exec (.vldq an ss ff off inc) s = .next u ∧ exec (.vstq an ss off inc) s = .next u) ∧
      (vl ≠ 0 → (u.ctx.pend.lq.filter LoadOp.queued).length < 64 →
        ∀ us t, u.elements at_ n .load 1 (ff = 1) 0 vl = .ok (us, t) →
        exec (.vldq an ss ff off inc) s = .next ((if us.length < vl then
          t.modRegs (fun r => { r with vl := BitVec.ofNat 64 us.length }) else t).pushLoad
            (.vector w ((us.length + p - 1) / p)) us)) ∧
      (vl ≠ 0 → (∀ e ∈ (u.ctx.pend.sdq.drop u.ctx.pend.claims.length).take ((vl + p - 1) / p), e.isVector = true) →
        let es := (u.ctx.pend.sdq.drop u.ctx.pend.claims.length).take ((vl + p - 1) / p)
        ∀ us late t, u.storeElements at_ n es 0 vl = .ok (us, late, t) →
        exec (.vstq an ss off inc) s = .next (t.pushVectorStore (.vector w ((vl + p - 1) / p)) us late)))) ∧
  (∀ (s t : State) (at_ : Nat → Option Word) (n : Nat) (es : List SdqEntry) (vl : Nat) (us : List (Option Loc × Nat))
    (late : List (Nat × Word)), s.storeElements at_ n es 0 vl = .ok (us, late, t) →
    us.length = vl ∧ (∀ x ∈ us, x.2 = n) ∧
    (∀ x ∈ late, x.1 < vl ∧ at_ x.1 = some x.2 ∧ (us.getD x.1 (none, n)).1 = none ∧
      ∀ e, es[x.1 / (512 / n)]? = some e → e.data = none)) ∧
  ∀ (s t : State) (at_ : Nat → Option Word) (n : Nat) (acc : Acc) (kind : FaultKind) (ff : Bool) (vl : Nat)
    (us : List (Option Loc × Nat)), s.elements at_ n acc kind ff 0 vl = .ok (us, t) →
    us.length ≤ vl ∧ (ff = false → us.length = vl) ∧ (0 < vl → 0 < us.length) ∧ ∀ x ∈ us, x.2 = n

/-- R200: a gather or scatter takes element i at base + index × element size; an index out of bound raises INDEX with
the lowest such element, is clamped, or leaves its element out, by the mode. That a scatter does the same for both values of
bit 16 of its word is the model's choice (log 26). -/
def Obligations.GatherAndScatter : Prop :=
  ∀ (s u : State) (an : BitVec 4) (sb : BitVec 6) (ff : BitVec 1) (vi : BitVec 9) (mode : BitVec 3) (inc : BitVec 4)
    (bd : Word) (regs : List VReg),
    let w := sewBits s.rd.vtype
    let n := w / 8
    let vl := s.rd.vl.toNat
    let emul := lmulRegs s.rd.vtype * 32 / w
    let a := s.readA an
    let p := 4096 / w
    let index := fun (e : Nat) => (BitVec.ofNat 32 (velem (regs.getD (e / 128) 0) 32 (e % 128))).toInt
    let inside := fun (e : Nat) => 0 ≤ index e ∧ index e < bd.toNat
    let at_ := fun (e : Nat) =>
      if 0 ≤ index e ∧ index e < bd.toNat then some (a + BitVec.ofInt 64 (index e * n))
      else if mode = 1 ∧ bd ≠ 0 then
        some (a + BitVec.ofInt 64 ((if index e < 0 then 0 else (bd.toNat : Int) - 1) * n))
      else none
    emul ≤ 8 → vi.toNat % emul = 0 → s.clean.vgroup vi.toNat emul = .ok regs →
    (if sb = 0 then bd = BitVec.ofNat 64 (2 ^ 31) ∧ u = s.clean else s.clean.readS 2 sb = .ok (bd, u)) →
    a.toNat % n = 0 →
    (∀ e, mode = 0 → e < vl → ¬ inside e → (∀ k, k < e → inside k) →
      StopsWith (.vgathq an sb ff vi mode inc) s (trapR cINDEX [BitVec.ofNat 64 e, BitVec.ofInt 64 (index e), bd]) ∧
      StopsWith (.vscatq an sb ff vi mode inc) s (trapR cINDEX [BitVec.ofNat 64 e, BitVec.ofInt 64 (index e), bd])) ∧
    ((mode = 0 → ∀ e, e < vl → inside e) →
      (vl = 0 → exec (.vgathq an sb ff vi mode inc) s = .next u ∧ exec (.vscatq an sb ff vi mode inc) s = .next u) ∧
      (vl ≠ 0 → (u.ctx.pend.lq.filter LoadOp.queued).length < 64 →
        ∀ us t, u.elements at_ n .load 1 (ff = 1) 0 vl = .ok (us, t) →
        exec (.vgathq an sb ff vi mode inc) s = .next ((if us.length < vl then
          t.modRegs (fun r => { r with vl := BitVec.ofNat 64 us.length }) else t).pushLoad
            (.vector w ((us.length + p - 1) / p)) us)) ∧
      (vl ≠ 0 → (∀ e ∈ (u.ctx.pend.sdq.drop u.ctx.pend.claims.length).take ((vl + p - 1) / p), e.isVector = true) →
        let es := (u.ctx.pend.sdq.drop u.ctx.pend.claims.length).take ((vl + p - 1) / p)
        ∀ us late t, u.storeElements at_ n es 0 vl = .ok (us, late, t) →
        exec (.vscatq an sb ff vi mode inc) s = .next (t.pushVectorStore (.vector w ((vl + p - 1) / p)) us late)))

/-- R201 to R203: an atomic issues as one access, with its operands read at issue. Performed, between the release and the
acquire that its ordering names, it reads its location and writes it as one action: `amoValue` of what it read, or the
counter after a CHUNK, in a bank, at the memory unit of a page with MS, or at the home die; sd takes what it read, or the
chunk; of a poisoned location, what is updated is poisoned and sd takes 0 (R402). What the values of `amoValue` and
`chunkStep` are. -/
def Obligations.Atomics : Prop :=
  (∀ (s c v u t : State) (an : BitVec 4) (sd sa : BitVec 6) (op : BitVec 4) (size ord : BitVec 2) (scope : BitVec 3)
    (old x : Word) (l : Loc),
    let n := 4 * 2 ^ size.toNat
    let a := s.readA an
    (a.toNat % n ≠ 0 → StopsWith (.amo an sd sa op size ord scope) s (trapR cALIGN [a])) ∧
    (a.toNat % n = 0 → (if op = 9 then s.clean.readS 2 sd = .ok (old, c) else old = 0 ∧ c = s.clean) →
      c.readS 2 sa = .ok (x, v) → v.resolve a n .amo 2 = .ok (l, u) →
      (if sd = 62 then u.pushSdq 2 ⟨false, u.ctx.pend.seq + 1, none⟩ = .ok t else t = u) →
      exec (.amo an sd sa op size ord scope) s =
        .next (t.pushLoad (.amo op.toNat x old sd.toNat n ord.toNat scope.toNat) [(some l, n)]))) ∧
  (∀ (s u t : State) (an : BitVec 4) (sd sa : BitVec 6) (ord : BitVec 2) (scope : BitVec 3) (l : Loc),
    let a := s.readA an
    (a.toNat % 32 ≠ 0 → StopsWith (.amoChunk an sd sa ord scope) s (trapR cALIGN [a])) ∧
    (a.toNat % 32 = 0 → s.clean.resolve a 32 .amo 2 = .ok (l, u) →
      (if sd = 62 then u.pushSdq 2 ⟨false, u.ctx.pend.seq + 1, none⟩ = .ok t else t = u) →
      exec (.amoChunk an sd sa ord scope) s =
        .next (t.pushLoad (.chunk sd.toNat ord.toNat scope.toNat) [(some l, 32)]))) ∧
  (∀ (w : Nat) (m x c : BitVec w), w = 32 ∨ w = 64 →
    let new := fun (op : Nat) => BitVec.ofNat w (amoValue op w m.toNat x.toNat c.toNat)
    new 0 = m + x ∧ new 1 = m &&& x ∧ new 2 = m ||| x ∧ new 3 = m ^^^ x ∧
    new 4 = (if m.toInt ≤ x.toInt then m else x) ∧ new 5 = (if m.toInt ≤ x.toInt then x else m) ∧
    new 6 = (if m.toNat ≤ x.toNat then m else x) ∧ new 7 = (if m.toNat ≤ x.toNat then x else m) ∧
    new 8 = x ∧ new 9 = (if m = c then x else m)) ∧
  (∀ (m x c : Nat), amoValue 10 32 m x c = (rne32 (FVal.add 0 (fmtFP32.decode m) (fmtFP32.decode x)).1).1 ∧
    ((∃ q, fmtFP32.decode m = .nan q) ∨ (∃ q, fmtFP32.decode x = .nan q) → amoValue 10 32 m x c = 0x7FC00000)) ∧
  -- performing it
  (∀ (s : State) (o : LoadOp) (l : Loc) (z : Nat), o.units = [(some l, z)] →
    let u := s.modPend (fun p => p.dropLoad o)
    let performs := fun (ord scope sd n k : Nat) (new : List Byte → List Byte) (gives : List Byte → Nat) =>
      let r := (if 2 ≤ ord then u.releaseL1 scope else u).atomicAt l n new
      let t := if ord % 2 = 1 then r.2.acquire scope else r.2
      s.performLoad o = some (if u.atomicBad ord scope l n then (t.setPoison l k).lateS o.seq sd 0
        else t.lateS o.seq sd (BitVec.ofNat 64 (gives r.1)))
    (∀ op x c sd n ord scope, o.kind = .amo op x c sd n ord scope → performs ord scope sd n n
      (fun bs => toBytes (amoValue op (8 * n) (ofBytes bs) (x.toNat % 2 ^ (8 * n)) (c.toNat % 2 ^ (8 * n))) n) ofBytes) ∧
    ∀ sd ord scope, o.kind = .chunk sd ord scope → performs ord scope sd 24 8
      (fun bs => toBytes (chunkStep bs).2 8) (fun bs => (chunkStep bs).1)) ∧
  (∀ (s : State) (l : Loc) (n m : Nat) (new : List Byte → List Byte), (∀ bs, (new bs).length = m) → 0 < m → m ≤ n →
    let r := s.atomicAt l n new
    (∀ c o, l = .sram c o → s.ctx.views = [] → r.1 = agetN zeroByte (s.getCore c).sram o n ∧
      agetN zeroByte (r.2.getCore c).sram o m = new r.1 ∧ r.2.mem = s.mem ∧
      ((s.getCore c).modeAt o = .scratch → aget false (r.2.getCore c).fe (o / 4) = true) ∧
      ∀ x, x < o ∨ o + m ≤ x → aget zeroByte (r.2.getCore c).sram x = aget zeroByte (s.getCore c).sram x) ∧
    (∀ a page, l = .phys a true page → r.1 = agetN zeroByte s.mem a n ∧ agetN zeroByte r.2.mem a m = new r.1 ∧
      ∀ x, x < a ∨ a + m ≤ x → aget zeroByte r.2.mem x = aget zeroByte s.mem x) ∧
    ∀ a page, l = .phys a false page → a % 128 + n ≤ 128 → (∀ d, (s.getDie d).inbox = [] ∧ (s.getDie d).own = []) →
      afind s.core.l1 (a / 128) = none → r.1 = agetN zeroByte s.mem a n ∧ ∀ x, r.2.dieByte (homeDie a) x =
        if a ≤ x ∧ x < a + m then (new r.1).getD (x - a) 0 else aget zeroByte s.mem x) ∧
  ∀ (next stop least div : Nat), next < 2 ^ 64 → stop < 2 ^ 64 → least < 2 ^ 32 → div < 2 ^ 32 →
    let r := stop - next
    let d := if div = 0 then 1 else div
    let c := if r = 0 then 0 else min (min r (max least ((r + d - 1) / d))) (2 ^ 24 - 1)
    chunkStep (toBytes next 8 ++ toBytes stop 8 ++ toBytes least 4 ++ toBytes div 4) =
      (next % 2 ^ 40 + c * 2 ^ 40, (next + c) % 2 ^ 64)

/-- R204: LDFE and LDFF take a full word, LDFE leaving it empty; STEF fills an empty one; each waits while its word is
in the other state; FEMARK with count 0 marks nothing, and else is a store of marks. -/
def Obligations.FullEmptyWords : Prop :=
  (∀ (s u : State) (an inc : BitVec 4) (off : BitVec 16) (c o : Nat),
    let a := s.readA an + off.signExtend 64
    a.toNat % 4 = 0 → lwin ≤ a.toNat → s.ctx.pend.lq = [] → s.ctx.pend.stq = [] → s.core.arr.queue = [] →
    s.core.arr.repeat_ = none →
    let there := s.clean.slotsReady (.sram c o) 4
    (s.ctx.pend.ldq.length < 64 → there = true → s.clean.poisoned (.sram c o) 4 = false →
      let v : Word := wordOf 64 (s.clean.sramBytes c o 4)
      let filled := s.clean.modPend (fun p => { p with seq := p.seq + 1, ldq := p.ldq ++ [.scalar v] })
      (s.clean.resolve a 4 .fullEmpty 1 = .ok (.sram c o, u) → s.clean.feFull (c, o) = true →
        exec (.ldfe an inc off) s = .next (filled.feSet (c, o) false)) ∧
      (s.clean.resolve a 4 .ldff 1 = .ok (.sram c o, u) → s.clean.feFull (c, o) = true →
        exec (.ldff an inc off) s = .next filled)) ∧
    (s.clean.resolve a 4 .fullEmpty 1 = .ok (.sram c o, u) → s.clean.feFull (c, o) = false ∨ there = false →
      StopsWith (.ldfe an inc off) s .block) ∧
    (s.clean.resolve a 4 .ldff 1 = .ok (.sram c o, u) → s.clean.feFull (c, o) = false ∨ there = false →
      StopsWith (.ldff an inc off) s .block) ∧
    (∀ b i v rest, s.ctx.pend.sdq = ⟨b, i, some (.scalar v)⟩ :: rest → b = false →
      s.clean.resolve a 4 .fullEmpty 1 = .ok (.sram c o, u) →
      (s.clean.feFull (c, o) = false → there = true → exec (.stef an inc off) s =
        .next ((s.clean.modPend (fun p => { p with sdq := rest })).sramWrite c o (toBytes v.toNat 4) (some s.coreId))) ∧
      (s.clean.feFull (c, o) = true ∨ there = false → StopsWith (.stef an inc off) s .block))) ∧
  ∀ (s u : State) (an : BitVec 4) (sc : BitVec 6) (full : BitVec 1) (off : BitVec 13) (k : Word),
    let a := s.readA an + off.signExtend 64
    a.toNat % 4 = 0 → s.clean.readS 2 sc = .ok (k, u) →
    (k = 0 → exec (.femark an sc full off) s = .next u) ∧
    (k ≠ 0 → k.toNat ≤ 0x400000 → lwin ≤ a.toNat → ∀ us t,
      u.elements (fun e => some (a + BitVec.ofNat 64 (4 * e))) 4 .fullEmpty 2 false 0 k.toNat = .ok (us, t) →
      exec (.femark an sc full off) s = .next (t.issueStore (.mark (full = 1)) us))

/-- R126, R205, R206, R250, R289, R294: MARM sets the watch on its line, PREF changes nothing the context can read and drops
its faults, and FENCE acts at its place among the context's accesses: a release writes the L1's dirty words back, an acquire
discards its clean ones, and a full or sc fence the core's instruction cache. That an sc fence makes what its die had applied,
and what the context has seen, apply at all four dies, is the model's reading of R289 (log 22). -/
def Obligations.WatchPrefetchFence : Prop :=
  (∀ (s : State) (an inc : BitVec 4) (size : BitVec 3) (off : BitVec 16),
    let n := 2 ^ size.toNat
    let a := s.readA an + off.signExtend 64
    (a.toNat % n ≠ 0 → StopsWith (.marm an inc size off) s (trapR cALIGN [a]) ∧
      StopsWith (.pref an inc size off) s (trapR cALIGN [a])) ∧
    (a.toNat % n = 0 →
      (∀ l u, s.clean.resolve a n .load 1 = .ok (l, u) → ∃ t, exec (.marm an inc size off) s = .next t ∧
        t.ctx.watch.line = l.line ∧ t.ctx.watch.cnt = 0 ∧ (t.ctx.watch.msl = true ↔ ∃ pa page, l = .phys pa true page) ∧
        (t.ctx.watch.st = .set ∨ t.ctx.watch.msl = true ∧ t.ctx.watch.st = .dropped) ∧ t.ctx.r = u.ctx.r ∧
        ((∀ pa page, l ≠ .phys pa false page) → t.mem = u.mem)) ∧
      (∀ c o u, s.clean.resolve a n .load 1 = .ok (.sram c o, u) → exec (.pref an inc size off) s = .next u) ∧
      (∀ pa page u, s.clean.resolve a n .load 1 = .ok (.phys pa true page, u) → exec (.pref an inc size off) s = .next u) ∧
      (∀ pa page u, s.clean.resolve a n .load 1 = .ok (.phys pa false page, u) → u.core.ways = [] →
        exec (.pref an inc size off) s = .next u) ∧
      (∀ pa page u, s.clean.resolve a n .load 1 = .ok (.phys pa false page, u) → u.core.ways ≠ [] →
        ∃ t, exec (.pref an inc size off) s = .next t ∧ t.ctx.r = u.ctx.r ∧ t.ctx.pend = u.ctx.pend) ∧
      ∀ e, s.clean.resolve a n .load 1 = .error e → exec (.pref an inc size off) s =
        .next (s.clean.modPart s.ctx.part (fun q => { q with prefetchFaults := q.prefetchFaults + 1 })))) ∧
  ∀ (s : State) (kind : BitVec 2) (scope : BitVec 3), s.ctx.pend.lq = [] → s.ctx.pend.stq = [] →
    let n := scope.toNat
    (kind = 0 → exec (.fence kind scope) s = .next (s.clean.acquire n)) ∧
    (kind = 1 → exec (.fence kind scope) s = .next (s.clean.releaseL1 n)) ∧
    (kind = 2 → exec (.fence kind scope) s =
      let t := (s.clean.releaseL1 n).acquire n
      .next { t with core := { t.core with icache := [] } }) ∧
    (kind = 3 → exec (.fence kind scope) s =
      let r := s.clean.releaseL1 n
      let t := (if 3 ≤ n then
        r.spread (clockJoin (r.getDie (dieOf r.coreId)).clock r.ctx.seen) [0, 1, 2, 3] else r).acquire n
      .next { t with core := { t.core with icache := [] } })

/-- R313, R317, R321: QOPEN and QDOWN open a stream for a parent position, QCLOSE closes it, and QSTAT reads it; QDOWN and QSTAT read
the descriptor of a restored stream again first. -/
def Obligations.StreamsOpenAndClose : Prop :=
  (∀ (s u t : State) (qn : BitVec 3) (an : BitVec 4) (sp : BitVec 6) (p : Word) (w : Walk),
    s.clean.readS 2 sp = .ok (p, u) → (u.ctx.pend.lq.filter LoadOp.queued).length < 64 →
    u.settle.openStream qn.toNat (s.readA an) p.toNat = .ok (w, t) →
    exec (.qopen qn an sp) s = .next (t.putStream w) ∧ (t.putStream w).ctx.streams =
      aset Stream.reset t.ctx.streams w.q w.st ∧ w.q = qn.toNat ∧ w.st.opened = true) ∧
  (∀ (s t : State) (qn qp : BitVec 3) (an : BitVec 4) (w : Walk),
    let parent := aget Stream.reset s.ctx.streams qp.toNat
    (parent.opened = false ∨ parent.ended = true → StopsWith (.qdown qn qp an) s (trapSlot cILLI 2)) ∧
    (parent.opened = true → parent.ended = false → (s.ctx.pend.lq.filter LoadOp.queued).length < 64 →
      ∀ v, s.clean.renew qp.toNat = .ok v → v.settle.openStream qn.toNat (v.readA an) parent.pos = .ok (w, t) →
      exec (.qdown qn qp an) s = .next (t.putStream w))) ∧
  (∀ (s : State) (qn : BitVec 3), ∃ t, exec (.qclose qn) s = .next t ∧
    aget Stream.reset t.ctx.streams qn.toNat = Stream.reset ∧
    (∀ k, k ≠ qn.toNat → aget Stream.reset t.ctx.streams k = aget Stream.reset s.ctx.streams k) ∧
    t = { s.clean with ctx := { s.ctx with streams := t.ctx.streams } }) ∧
  (∀ (s : State) (q : Nat), let st := aget Stream.reset s.ctx.streams q
    st.opened = false ∨ st.copy ≠ none → s.renew q = .ok s) ∧
  ∀ (s r t : State) (qn : BitVec 3) (sd : BitVec 6) (pos : BitVec 1) (v : Word), s.clean.renew qn.toNat = .ok r →
    let old := aget Stream.reset s.ctx.streams qn.toNat
    (old.opened = true → old.copy = none → (s.ctx.pend.lq.filter LoadOp.queued).length < 64) →
    let q := aget Stream.reset r.ctx.streams qn.toNat
    let b := fun (x : Bool) (n : Nat) => if x then 2 ^ n else 0
    (q.opened = false → v = 0) → (q.opened = true → pos = 1 → v = BitVec.ofNat 64 q.pos) →
    (q.opened = true → pos = 0 → v = BitVec.ofNat 64
      (2 ^ 63 + b q.ended 62 + b q.held 61 + b q.parked 60 + q.kind.toNat * 2 ^ 58 + q.coord)) →
    r.writeS 2 sd v = .ok t → exec (.qstat qn sd pos) s = .next t

/-- R316, R318 to R320: QNEXT gives the held element or the next one, QSKIP the first from a coordinate on, QAND the
next coordinate that both streams have, QOR the next that either has, with the marker for a stream that lacks it; a stream at
its end gives markers, and one that is ahead is held. -/
def Obligations.StreamsWalk : Prop :=
  (∀ (s u : State) (qn : BitVec 3) (val nc : BitVec 1) (w : Walk),
    (s.ctx.pend.lq.filter LoadOp.queued).length < 64 → s.clean.settle.takeUp qn.toNat = .ok (w, u) →
    ∀ m t, (if w.st.held then m = w.release ∧ t = u else u.move w = .ok (m, t)) →
    (m.st.ended = true → exec (.qnext qn val nc) s =
      .next ((t.putStream m).deliverAll (if nc = 1 then [known endMarker] else [known endMarker, known endMarker]))) ∧
    (m.st.ended = false → ∀ x v, t.entryOf m (val = 1) = .ok (x, v) → exec (.qnext qn val nc) s =
      .next ((v.putStream m).deliverAll (if nc = 1 then [x] else [known (BitVec.ofNat 64 m.st.coord), x])))) ∧
  (∀ (s u v : State) (qn : BitVec 3) (st : BitVec 6) (val nc : BitVec 1) (c : Word) (w : Walk),
    s.clean.readS 2 st = .ok (c, u) → (u.ctx.pend.lq.filter LoadOp.queued).length < 64 →
    u.settle.takeUp qn.toNat = .ok (w, v) →
    ∀ m t, (if w.st.ended ∨ (w.st.held ∧ c.toNat ≤ w.st.coord) then m = w ∧ t = v
      else v.search w c.toNat = .ok (m, t)) →
    (m.st.ended = true → exec (.qskip qn st val nc) s =
      .next ((t.putStream m).deliverAll (if nc = 1 then [known endMarker] else [known endMarker, known endMarker]))) ∧
    (m.st.ended = false → ∀ x y, t.entryOf m.release (val = 1) = .ok (x, y) → exec (.qskip qn st val nc) s =
      .next ((y.putStream m.release).deliverAll (if nc = 1 then [x] else [known (BitVec.ofNat 64 m.st.coord), x])))) ∧
  (∀ (s u : State) (qa qb : BitVec 3) (np val nc : BitVec 1) (a b : Walk), s.clean.candidates qa qb = .ok (a, b, u) →
    (∀ m n t, u.meet a b (2 * a.lv.ext + 2) = .ok (m, n, t) → m.st.ended = false → n.st.ended = false →
      ∀ x y v w, t.entryOf m (val = 1) = .ok (x, v) → v.entryOf n (val = 1) = .ok (y, w) →
      exec (.qand qa qb np val nc) s = .next (((w.putStream m.release).putStream n.release).deliverAll
        ((if nc = 1 then [] else [known (BitVec.ofNat 64 m.st.coord)]) ++ [x, y] ++ (if np = 1 then [] else [known 3])))) ∧
    let keep := fun (w : Walk) (held : Bool) => { w with st := { w.st with held := held } }
    (∀ m n t, u.meet a b (2 * a.lv.ext + 2) = .ok (m, n, t) → m.st.ended = true ∨ n.st.ended = true →
      exec (.qand qa qb np val nc) s = .next (((t.putStream (keep m (!m.st.ended))).putStream
        (keep n (!n.st.ended))).deliverAll (markers (np = 1) (nc = 1)))) ∧
    let first := fun (p q : Walk) => p.st.ended = false ∧ (q.st.ended = true ∨ p.st.coord < q.st.coord)
    let merged := fun (c : Nat) (x y : Delivery) (bits : Word) (v : State) (p q : Walk) =>
      exec (.qor qa qb np val nc) s = .next (((v.putStream p).putStream q).deliverAll
        ((if nc = 1 then [] else [known (BitVec.ofNat 64 c)]) ++ [x, y] ++ (if np = 1 then [] else [known bits])))
    (first a b → ∀ x v, u.entryOf a (val = 1) = .ok (x, v) →
      merged a.st.coord x (known endMarker) 1 v (keep a false) (keep b (!b.st.ended))) ∧
    (first b a → ∀ y v, u.entryOf b (val = 1) = .ok (y, v) →
      merged b.st.coord (known endMarker) y 2 v (keep a (!a.st.ended)) (keep b false)) ∧
    (a.st.ended = false → b.st.ended = false → a.st.coord = b.st.coord → ∀ x v y w,
      u.entryOf a (val = 1) = .ok (x, v) → v.entryOf b (val = 1) = .ok (y, w) →
      merged a.st.coord x y 3 w (keep a false) (keep b false)) ∧
    (a.st.ended = true → b.st.ended = true → exec (.qor qa qb np val nc) s =
      .next (((u.putStream a).putStream b).deliverAll (markers (np = 1) (nc = 1))))) ∧
  ∀ (s t : State) (w m : Walk), s.move w = .ok (m, t) → w.st.ended = false → w.st.kind = 0 →
    t = s ∧ (w.st.pos + 1 < w.st.fend → m.st.pos = w.st.pos + 1 ∧ m.st.coord = w.st.pos + 1 - w.st.fbase ∧
      m.st.ended = false) ∧ (w.st.fend ≤ w.st.pos + 1 → m.st.ended = true)

/-! The V, X and M slots (08 R144 to R155; 09 R173 to R191; 03 R65). -/

/-- R144, R151, R152: VH issues the named entry, its register codes raised by 8 × ROFF: a bad entry raises HCW, a code that
ROFF carries beyond 383 VWIN, a form that R151 to R168 exclude ILLI, and then the first register of its operands that lies
outside the window (R55) VWIN, the sources first, then DST and MREG; what it captures it keeps until it completes. What an
entry computes whose three stages are element stages (R145, R146, R148 to R150, R153 to R160): each stage takes the one before
it, every written element of DST holds the last stage's result, or ones where it is inactive, each other element is kept, and
the flags are those of the active elements. What an entry of one stage computes: a comparison and the mask stages write a mask;
the lane movements, COMPRESS, IOTA and SEL, MPOPC, the reductions by the tree of R167, CVT, CVTB and CVTBX their results (R163
to R168). The integer stages by their values and bits, FABS and FNEG by their codes, the function stages by their special and
exact cases and, elsewhere, within their bounds of the model's exact result. Log 72 and log 82 name what the spec leaves open
here; that the exact result is the model's own is log 16. -/
def Obligations.ControlWordIssue : Prop :=
  (∀ (s : State) (idx : BitVec 9) (roff : BitVec 4),
    let e := aget 0 s.ctx.hcw idx.toNat
    let h := hcwOf e
    let add := fun (c : Nat) => if c < 384 then c + 8 * roff.toNat else c
    let codes := h.src.map add
    let vt := s.rd.vtype
    let vl := s.rd.vl.toNat
    let fits := (∀ f, f < 4 → h.reads.getD f false = true → h.src.getD f 0 < 384 → add (h.src.getD f 0) < 384) ∧
      (h.dst < 384 → add h.dst < 384)
    let n := h.dstGroup vt + (if h.ops.contains 0x41 then 1 else 0)
    let named := ((List.range 4).filter (fun f => h.reads.getD f false)).map (fun f => h.src.getD f 0) ++ [h.dst]
    let registers := (((List.range 4).filter (fun f => h.reads.getD f false && decide (codes.getD f 0 < 384))).map (fun f =>
        (List.range (h.groupOf vt f)).map (fun k => codes.getD f 0 + k))).flatten ++
      (if add h.dst < 384 then (List.range n).map (fun k => add h.dst + k) else []) ++ (if h.men then [h.mreg] else [])
    let refuses := fun (c : Nat) => StopsWith (.vh idx roff) s (trapR cVWIN [BitVec.ofNat 64 c])
    (aget false s.ctx.hcwGood idx.toNat = false → StopsWith (.vh idx roff) s (trapR cHCW [BitVec.ofNat 64 idx.toNat])) ∧
    (aget false s.ctx.hcwGood idx.toNat = true →
      ∀ c, named.find? (fun c => decide (c < 384 ∧ 384 ≤ add c)) = some c → refuses (add c)) ∧
    (aget false s.ctx.hcwGood idx.toNat = true → fits → h.structOk vt codes (add h.dst) = false →
      StopsWith (.vh idx roff) s (trapSlot cILLI 3)) ∧
    (aget false s.ctx.hcwGood idx.toNat = true → fits → h.structOk vt codes (add h.dst) = true →
      ∀ c, registers.find? (fun c => decide (vwinSize s.ctx.cr.vwin ≤ c)) = some c → refuses c) ∧
    (aget false s.ctx.hcwGood idx.toNat = true → fits → h.structOk vt codes (add h.dst) = true →
      (∀ c ∈ registers, c < vwinSize s.ctx.cr.vwin) →
      ∀ mask ops u v, (if h.men then s.clean.vgroup h.mreg 1 = .ok mask else mask = [0]) →
      s.clean.vfields h vt vl ((List.range 4).zip codes) = .ok (ops, u) →
      u.reserveSdq 3 true (h.pushes vt vl) = .ok v →
      let f : VFlight := {
        idx := idx.toNat, entry := e, roff := roff.toNat, ops := ops, mask := mask.headD 0, vl := vl, vtype := vt, fmt := s.rd.fmt, gens := s.ctx.gens,
        seed := s.ctx.genSeed, base := vwinBase s.ctx.cr.vwin }
      exec (.vh idx roff) s = .next ((if h.rnd = 5 then v.setRng (vcompute f s.coreId).rng else v).launch
        (.v f)))) ∧
  -- three element stages, each on the result of the one before
  (∀ (f : VFlight) (core w : Nat), f.shaped w →
    let h := hcwOf f.entry
    let ra := fun (e : Nat) => f.element h.opa (f.arg h.opa w 0 e) (f.arg h.opa w 1 e) (f.arg h.opa w 2 e)
    let rb := fun (e : Nat) => f.element h.opb (ra e).1 (f.arg h.opb w (if h.bsel then 3 else 2) e) 0
    let rc := fun (e : Nat) => f.element h.opc (rb e).1 (if h.csel then f.imm h.opc else f.arg h.opc w 3 e) 0
    f.hasElements h.opa → f.hasElements h.opb → f.hasElements h.opc →
      f.writes core w (fun e => (rc e).1) ∧
      ((∀ k, k < 4 → afind f.ops k = none → h.src.getD k 0 ≠ 385 ∧ h.src.getD k 0 ≠ 387) → h.csel = false →
        f.raises core w (emul f.vtype w * (4096 / w)) (fun e => (ra e).2 ||| (rb e).2 ||| (rc e).2))) ∧
  -- one stage
  (∀ (f : VFlight) (core : Nat) (c : TypeClass), f.oneStage c → (∀ b, c ≠ .block b) →
    let h := hcwOf f.entry
    let w := c.width
    let per := 4096 / w
    let n := emul f.vtype w * per
    let x := fun (k e : Nat) => f.elem w k e
    let S := 512 / w
    let first := fun (e : Nat) => e - e % S
    let pure := fun (val : Nat → Nat) => f.writes core w val ∧ (vcompute f core).flags = 0
    let counts := fun (num : Nat → Nat) =>
      f.writes core w (fun e => (countIn c h.satb (num e)).1) ∧ f.raises core w n (fun e => (countIn c h.satb (num e)).2)
    (f.vl ≤ n → ((∃ t, c = .int t) ∧ h.opa ∈ [0x10, 0x11, 0x12]) ∨ ((∃ g, c = .float g) ∧ h.opa ∈ [0x29, 0x2A, 0x2B]) →
      f.writesMask core w (fun e => (compareStage h.opa c (x 0 e) (x 1 e)).1) ∧
      f.raises core w n (fun e => (compareStage h.opa c (x 0 e) (x 1 e)).2)) ∧
    (∀ p ∈ [(0x60, fun (a b : Bool) => a && b), (0x61, fun a b => a || b), (0x62, fun a b => a != b), (0x63, fun a _ => !a)],
      h.opa = p.1 → f.writesMask core w (fun e => p.2 (f.bit 0 e) (f.bit 1 e)) ∧ (vcompute f core).flags = 0) ∧
    (h.opa = 0x64 → (vcompute f core).flags = 0 ∧ f.writesMask core w (fun e =>
      f.bit 0 e && (List.range e).all (fun k => !(f.isOn w k && f.bit 0 k)))) ∧
    (h.opa = 0x65 → counts (fun _ => ((List.range f.vl).filter (fun k => f.isOn w k && f.bit 0 k)).length)) ∧
    (h.opa = 0x70 → pure (fun e => if f.bit 0 e then x 1 e else x 2 e)) ∧
    (h.opa = 0x50 → pure (fun e => x 0 (first e + (e % S ^^^ (x 1 e % S))))) ∧
    (h.opa = 0x51 → pure (fun e => x 0 (first e + x 1 e % S))) ∧
    (h.opa = 0x52 → pure (fun e => if e % S = 0 then x 1 e else x 0 (e - 1))) ∧
    (h.opa = 0x53 → pure (fun e => if e % S + 1 = S then x 1 e else x 0 (e + 1))) ∧
    (h.opa = 0x54 → pure (fun e => x 0 (first e + x 1 (first e) % S))) ∧
    (h.opa = 0x58 → pure (fun e => (((List.range S).filter (fun q => f.isOn w (first e + q) && f.bit 1 (first e + q))).map
      (fun q => x 0 (first e + q))).getD (e % S) 0)) ∧
    (h.opa = 0x59 → counts (fun e =>
      ((List.range (e % S)).filter (fun q => f.isOn w (first e + q) && f.bit 0 (first e + q))).length)) ∧
    (let mine := fun (e : Nat) => (List.range n).filter (fun k => k % per / S = e % per / S)
     (∀ t, c = .int t →
      let on := fun (e : Nat) => ((mine e).filter (fun k => f.isOn w k)).map (fun k => t.decode (x 0 k))
      (h.opa = 0x55 → f.writes core w (fun e => (t.narrow h.satb (on e).sum).1) ∧
        f.raises core w n (fun e => (t.narrow h.satb (on e).sum).2)) ∧
      ∀ p ∈ [(0x56, t.minV, fun (a b : Int) => a ≤ b), (0x57, t.maxV, fun a b => b ≤ a)], h.opa = p.1 →
        ∃ val, pure val ∧ ∀ e, e < n → (on e = [] → val e = t.encode p.2.1) ∧
          (on e ≠ [] → t.decode (val e) ∈ on e ∧ ∀ y ∈ on e, p.2.2 y (t.decode (val e)))) ∧
     ∀ g, c = .float g → h.rnd ≠ 5 → ∀ p ∈ [(0x55, 0x20, 0), (0x56, 0x26, g.signed true (if g.ieee then g.infCode else g.maxCode)),
        (0x57, 0x25, if g.ieee then g.infCode else g.maxCode)], h.opa = p.1 →
      let r := fun (e : Nat) => (treeRoot (fun a b => let z := floatStage p.2.1 g h.rnd h.satb a b 0 .none 0; (z.1, z.2.1)) 16
        ((mine e).map (fun k => if f.isOn w k then some (x 0 k, 0) else none))).getD (p.2.2, 0)
      f.writes core w (fun e => (r e).1) ∧ f.raises core w n (fun e => (r e).2))) ∧
  -- the conversions
  (∀ (f : VFlight) (core : Nat) (c src : TypeClass) (rs : List VReg),
    let h := hcwOf f.entry
    let w := c.width
    h.opa = 0x40 → h.opb = 0 → h.opc = 0 → h.dst < 384 → h.rnd ≠ 5 → typeClass (resolveType f.vtype 0x40 h.et) = some c →
    typeClass (h.imm % 32) = some src → (∀ b, c ≠ .block b ∧ src ≠ .block b) → emul f.vtype w ≠ 0 → emul f.vtype src.width ≠ 0 →
    afind f.ops 0 = some (.group rs) → rs.length = emul f.vtype src.width →
      let r := fun (e : Nat) => convert src c h.rnd h.satb (f.elem src.width 0 e) .none 0
      f.writes core w (fun e => (r e).1) ∧ f.raises core w (emul f.vtype w * (4096 / w)) (fun e => (r e).2.1)) ∧
  (∀ (f : VFlight) (core : Nat) (c : TypeClass) (rs sc : List VReg),
    let h := hcwOf f.entry
    let w := c.width
    let bits := if h.imm % 32 = 0x10 then 4 else 6
    h.opa = 0x42 → h.opb = 0 → h.opc = 0 → h.dst < 384 → h.rnd ≠ 5 → typeClass (resolveType f.vtype 0x42 h.et) = some c →
    (h.imm % 32 = 0x10 ∨ h.imm % 32 = 0x11) → (∀ b, c ≠ .block b) → emul f.vtype w ≠ 0 →
    emul f.vtype (if bits = 4 then 4 else 8) ≠ 0 → afind f.ops 0 = some (.group rs) → afind f.ops 1 = some (.group sc) →
    rs.length = emul f.vtype (if bits = 4 then 4 else 8) →
      let code := fun (e : Nat) => if bits = 4 then velem (rs.getD (e / 1024) 0) 4 (e % 1024)
        else (rs.getD (e / 512) 0).toNat / 2 ^ (256 * (e % 512 / 32) + 6 * (e % 32)) % 64
      let r := fun (e : Nat) => decodeBlockTo bits c h.rnd h.satb (velem (sc.headD 0) 8 (e / 32)) (code e) .none 0
      f.writes core w (fun e => (r e).1) ∧ f.raises core w (emul f.vtype w * (4096 / w)) (fun e => (r e).2.1)) ∧
  (∀ (f : VFlight) (core : Nat) (rs : List VReg),
    let h := hcwOf f.entry
    let o := vcompute f core
    let bits := if h.et = 0x10 then 4 else 6
    let em := emul f.vtype (if bits = 4 then 4 else 8)
    let per := if bits = 4 then 32 else 16
    let size := if bits = 4 then 128 else 256
    let ty := if bits = 4 then fmtBt4 f.fmt else if f.fmt.getLsbD 12 then 1 else 0
    h.opa = 0x41 → h.opb = 0 → h.opc = 0 → h.dst < 384 → h.rnd ≠ 5 → (h.et = 0x10 ∨ h.et = 0x11) → em ≠ 0 → fmtOk f.fmt.toNat = true →
    emul f.vtype 32 ≠ 0 → afind f.ops 0 = some (.group rs) → rs.length = emul f.vtype 32 →
      let within := fun (k : Nat) => (List.range 32).map (fun i => 32 * k + i)
      let on := fun (k : Nat) => f.laneOn 32 (32 * k) && f.laneOn 32 (32 * k + 31)
      let live := fun (k : Nat) => on k && decide (32 * k < f.vl) && (within k).any (fun e => f.isOn 32 e)
      let block := fun (k : Nat) => encodeBlock bits ty h.rnd h.satb ((within k).map (fun e =>
        (if f.isOn 32 e then some (fmtFP32.decode (f.elem 32 0 e)) else none, e % 128))) .none
      let fate := fun (k : Nat) => if live k then some ((block k).1, (block k).2.1)
        else if on k && (if 32 * k < f.vl then f.maskAgnostic else f.tailAgnostic) then some (0xFF, List.replicate 32 (2 ^ bits - 1))
        else none
      (∀ i, o.flags.getLsbD i = true ↔ ∃ k, k < em * per ∧ live k = true ∧ (block k).2.2.1.getLsbD i = true) ∧
      ∀ k, k < em * per → ∃ v m sv sm, o.regs[k / per]? = some (h.dst + 8 * f.roff + k / per, v, m) ∧
        o.regs[em]? = some (h.dst + 8 * f.roff + em, sv, sm) ∧
        (fate k = none → velem m size (k % per) = 0 ∧ velem sm 8 k = 0) ∧
        ∀ scale cs, fate k = some (scale, cs) → velem m size (k % per) = 2 ^ size - 1 ∧ velem sm 8 k = 0xFF ∧
          velem v size (k % per) = cs.foldr (fun c a => c + 2 ^ bits * a) 0 ∧ velem sv 8 k = scale) ∧
  -- the element stages
  (∀ (t : IntFmt), t.width ∈ [8, 16, 32, 64] → ∀ (sat : Bool) (a b c : Nat),
    let w := t.width
    let x := t.decode a
    let y := t.decode b
    let r := fun (op : Nat) => intStage op t sat a b c
    let bits := fun (op : Nat) (p : Nat → Bool) => (r op).2 = 0 ∧ ∀ i, (r op).1.testBit i = (decide (i < w) && p i)
    r 1 = t.narrow sat (x + y) ∧ r 2 = t.narrow sat (x - y) ∧ r 3 = t.narrow sat (x * y) ∧
    r 7 = t.narrow sat (if x < 0 then -x else x) ∧ r 8 = t.narrow true (x + y) ∧ r 9 = t.narrow true (x - y) ∧
    (t.decode (r 4).1 * (2 ^ w : Nat) ≤ x * y ∧ x * y < (t.decode (r 4).1 + 1) * (2 ^ w : Nat)) ∧
    t.decode (r 5).1 = min x y ∧ t.decode (r 6).1 = max x y ∧ (r 4).2 = 0 ∧ (r 5).2 = 0 ∧ (r 6).2 = 0 ∧
    bits 10 (fun i => a.testBit i && b.testBit i) ∧ bits 11 (fun i => a.testBit i || b.testBit i) ∧
    bits 12 (fun i => a.testBit i != b.testBit i) ∧
    bits 13 (fun i => decide (b % w ≤ i) && a.testBit (i - b % w)) ∧
    bits 14 (fun i => decide (i + b % w < w) && a.testBit (i + b % w)) ∧
    bits 15 (fun i => if i + b % w < w then a.testBit (i + b % w) else a.testBit (w - 1)) ∧
    (let pos := b % w
     let len := min (c % 2 ^ w) w
     bits 0x13 (fun i => let k := pos + if i < len then i else len - 1
       decide (len ≠ 0 ∧ k < w ∧ (i < len ∨ t.signed = true)) && a.testBit k)) ∧
    bits 0x14 (fun i => if i + c % w < w then b.testBit (i + c % w) else a.testBit (i + c % w - w)) ∧
    (r 0x15).1 = ((List.range w).filter (fun i => a.testBit i)).length ∧
    ((r 0x16).1 ≤ w ∧ a % 2 ^ w < 2 ^ (w - (r 0x16).1) ∧ ((r 0x16).1 < w → 2 ^ (w - (r 0x16).1 - 1) ≤ a % 2 ^ w)) ∧
    ((compareStage 0x10 (.int t) a b).1 = true ↔ x = y) ∧ ((compareStage 0x11 (.int t) a b).1 = true ↔ x < y) ∧
    ((compareStage 0x12 (.int t) a b).1 = true ↔ x ≤ y)) ∧
  (∀ f ∈ [fmtE4M3, fmtE5M2, fmtFP16, fmtBF16, fmtFP32], ∀ (mode lane a b c : Nat) (sat : Bool) (g : Rng),
    a < 2 ^ f.width → mode ≤ 5 → ((∃ neg m e, f.decode a = .fin neg m e) →
      floatStage 0x27 f mode sat a b c g lane = (a % f.signBit, 0, g) ∧
      floatStage 0x28 f mode sat a b c g lane = ((a + f.signBit) % 2 ^ f.width, 0, g)) ∧
    -- R160: the function stages
    let gives := fun (op : Nat) (v : FVal) (fl : Flags) => let r := f.round mode sat v g lane
      floatStage op f mode sat a b c g lane = (r.1, r.2.1 ||| fl, r.2.2)
    let zero := FVal.fin false 0 0
    let one := FVal.fin false 1 0
    (∀ sg, f.decode a = .nan sg → ∀ op ∈ [0x2C, 0x2D, 0x2E, 0x2F, 0x30, 0x31], gives op (.nan false) (if sg then fNV else 0)) ∧
    (∀ neg, f.decode a = .inf neg → gives 0x2C (.fin neg 0 0) 0 ∧
      (if neg then gives 0x2D (.nan false) fNV ∧ gives 0x2E zero 0 ∧ gives 0x2F (.nan false) fNV ∧ gives 0x31 zero 0
        else gives 0x2D zero 0 ∧ gives 0x2E (.inf false) 0 ∧ gives 0x2F (.inf false) 0 ∧ gives 0x31 one 0) ∧
      gives 0x30 (.fin neg 1 0) 0) ∧
    ∀ neg m e, f.decode a = .fin neg m e →
      let rest := fun (op : Nat) => gives op (functionResult op neg m e) fNX
      let whole := fun (n : Int) => -149 ≤ n ∧ n ≤ 127 ∧ m * 2 ^ e.toNat = n.natAbs * 2 ^ (-e).toNat ∧
        (n < 0 → neg = true) ∧ (0 < n → neg = false)
      (m = 0 → gives 0x2C (.inf neg) fDZ ∧ gives 0x2D (.inf neg) fDZ ∧ gives 0x2F (.inf true) fDZ ∧
        gives 0x30 (.fin neg 0 e) 0 ∧ gives 0x31 (.fin false 1 (-1)) 0) ∧
      (m ≠ 0 → neg = true → gives 0x2D (.nan false) fNV ∧ gives 0x2F (.nan false) fNV) ∧
      (∀ j : Nat, m = 2 ^ j → let k := e + j
        (if -149 ≤ -k ∧ -k ≤ 127 then gives 0x2C (.fin neg 1 (-k)) 0 else rest 0x2C) ∧
        (neg = false → gives 0x2F (.ofInt k) 0 ∧ if k % 2 = 0 then gives 0x2D (.fin false 1 (-(k / 2))) 0 else rest 0x2D)) ∧
      (m ≠ 0 → (∀ j : Nat, m ≠ 2 ^ j) → rest 0x2C ∧ (neg = false → rest 0x2D ∧ rest 0x2F)) ∧
      (∀ n, whole n → gives 0x2E (.fin false 1 n) 0) ∧ ((∀ n, ¬ whole n) → rest 0x2E) ∧ (m ≠ 0 → rest 0x30 ∧ rest 0x31)) ∧
  ∀ op ∈ [0x2C, 0x2D, 0x2E, 0x2F, 0x30, 0x31], ∀ (neg : Bool) (m : Nat) (e : Int), m ≠ 0 →
    let x := exactFn op neg m e
    (op = 0x2C → x.1 = neg ∧ x.2.2 = -128 - e ∧ x.2.1 * m ≤ 2 ^ 128 ∧ 2 ^ 128 < (x.2.1 + 1) * m) ∧
    (magTop x.2.1 x.2.2 < 127 →
      withinBound (if op ≤ 0x2D then 1 else 2) (decide (op = 0x2F ∧ (e + (bitLen m : Nat) = 0 ∨ e + (bitLen m : Nat) = 1)))
        x.1 x.2.1 x.2.2 (functionResult op neg m e) = true)

/-- R173 to R178: a move issues with the bytes it reads at issue, and what it will write; a row, a column or a pair of
types that the shapes do not have raises ILLI. R55: a register or tile outside its window raises VWIN with its code, in every
move, before the shapes are looked at. A result for s62 takes its SDQ entry at issue. That XBCAST leaves one shadow, of group
code 8 for all eight lane groups, is the model's choice (log 55), and so is the order in which the two operands of a move are
checked (log 82). -/
def Obligations.MovesIssue : Prop :=
  (∀ (s : State) (vd vs : BitVec 9) (lgd lgs : BitVec 3) (d v : Nat),
    s.vphys vd.toNat = .ok d → s.vphys vs.toNat = .ok v →
    let data : BitVec 512 := (s.getV v).extractLsb' (512 * lgs.toNat) 512
    let life := if s.ctx.mode = .user then 6 else 5
    (∃ t sh, exec (.xcopy vd vs lgd lgs) s = .next t ∧ t.ctx.pend.shadows = s.ctx.pend.shadows ++ [sh] ∧
      sh.remain = life ∧ sh.write = .lanes d vd.toNat lgd.toNat data ∧ t.core = s.core ∧ t.ctx.r = s.ctx.r) ∧
    ∃ t sh, exec (.xbcast vd vs lgs) s = .next t ∧ t.ctx.pend.shadows = s.ctx.pend.shadows ++ [sh] ∧
      sh.remain = life ∧ sh.write = .lanes d vd.toNat 8 data ∧ t.core = s.core ∧ t.ctx.r = s.ctx.r) ∧
  (∀ (s : State) (vd vs : BitVec 9) (sd sa : BitVec 6) (t td ts : BitVec 4) (row : BitVec 7) (lgd lgs : BitVec 3),
    let vout := fun (v : BitVec 9) => vwinSize s.ctx.cr.vwin ≤ v.toNat
    let tout := fun (t : BitVec 4) => twinCount s.ctx.cr.twin ≤ t.toNat
    let refuses := fun (n : Nat) (i : Instr) => StopsWith i s (trapR cVWIN [BitVec.ofNat 64 n])
    (vout vd → refuses vd.toNat (.xcopy vd vs lgd lgs) ∧ refuses vd.toNat (.xbcast vd vs lgs) ∧
      refuses vd.toNat (.trrow vd t row) ∧ refuses vd.toNat (.trcol vd t row) ∧ refuses vd.toNat (.movsv vd sa row)) ∧
    (vout vs → refuses vs.toNat (.twrow t row vs) ∧ refuses vs.toNat (.movvs sd vs row)) ∧
    (¬ vout vd → vout vs → refuses vs.toNat (.xcopy vd vs lgd lgs) ∧ refuses vs.toNat (.xbcast vd vs lgs)) ∧
    (¬ vout vs → tout t → refuses t.toNat (.twrow t row vs)) ∧
    (¬ vout vd → tout t → refuses t.toNat (.trrow vd t row) ∧ refuses t.toNat (.trcol vd t row)) ∧
    (tout td → refuses td.toNat (.tunpk td ts)) ∧ (¬ tout td → tout ts → refuses ts.toNat (.tunpk td ts))) ∧
  (∀ (s : State) (t : BitVec 4) (row : BitVec 7) (vr : BitVec 9) (ph v : Nat),
    s.tphys t.toNat = .ok ph → s.vphys vr.toNat = .ok v →
    let h := s.shape t.toNat
    let agree := ¬ (h.type = 0x10 ∧ isIntType (vetFor s.rd.fmt s.rd.vtype h.type) = true)
    let noRow := h.rows ≤ row.toNat
    (noRow ∨ ¬ agree → StopsWith (.twrow t row vr) s (trapSlot cILLI 5) ∧
      StopsWith (.trrow vr t row) s (trapSlot cILLI 5)) ∧
    (¬ noRow → agree →
      exec (.twrow t row vr) s = .next (s.clean.moveIssue
        (s.clean.captured (.twrow t row vr) (bytesOf (s.getV v)) [] t.toNat t.toNat ph)) ∧
      exec (.trrow vr t row) s = .next (s.clean.moveIssue
        (s.clean.captured (.trrow vr t row) (rowImage s.core.tiles ph h row.toNat) [] t.toNat t.toNat v)))) ∧
  (∀ (s : State) (vd : BitVec 9) (t : BitVec 4) (col : BitVec 7) (ph v : Nat),
    s.tphys t.toNat = .ok ph → s.vphys vd.toNat = .ok v →
    let h := s.shape t.toNat
    let agree := ¬ (h.type = 0x10 ∧ isIntType (vetFor s.rd.fmt s.rd.vtype h.type) = true)
    (h.cols ≤ col.toNat ∨ ¬ agree → StopsWith (.trcol vd t col) s (trapSlot cILLI 5)) ∧
    (col.toNat < h.cols → agree → exec (.trcol vd t col) s = .next (s.clean.moveIssue
      (s.clean.captured (.trcol vd t col) (((List.range h.rows).map (fun r =>
        let code := tileCode s.core.tiles ph h r col.toNat
        if h.type = 0x10 then [BitVec.ofNat 8 code, BitVec.ofNat 8 (tileScale s.core.tiles ph h r col.toNat)]
        else toBytes code (typeWidth h.type / 8))).flatten) [] t.toNat t.toNat v)))) ∧
  (∀ (s : State) (td ts : BitVec 4) (d ph : Nat), s.tphys td.toNat = .ok d → s.tphys ts.toNat = .ok ph →
    let hd := s.shape td.toNat
    let hs := s.shape ts.toNat
    let shapes := hd.rows = hs.rows ∧ hd.cols = hs.cols
    let agree := ¬ (hd.type = 0x10 ∧ isIntType hs.type = true) ∧ ¬ (hs.type = 0x10 ∧ isIntType hd.type = true)
    (¬ shapes ∨ ¬ agree → StopsWith (.tunpk td ts) s (trapSlot cILLI 5)) ∧
    (shapes → agree →
      exec (.tunpk td ts) s = .next (s.clean.moveIssue (s.clean.captured (.tunpk td ts)
        (((List.range hs.rows).map (rowImage s.core.tiles ph hs)).flatten) [] td.toNat ts.toNat d)))) ∧
  (∀ (s u : State) (sd : BitVec 6) (vs : BitVec 9) (lane : BitVec 7) (v : Nat), s.vphys vs.toNat = .ok v →
    (if sd = 62 then s.clean.pushSdq 5 ⟨false, s.ctx.pend.seq + 1, none⟩ = .ok u else u = s.clean) →
    exec (.movvs sd vs lane) s = .next (u.launch (.x (u.captured (.movvs sd vs lane)
      (toBytes ((s.getV v).toNat / 2 ^ (32 * lane.toNat)) 4) [] 0 0 0)))) ∧
  ∀ (s u : State) (vd : BitVec 9) (sa : BitVec 6) (lane : BitVec 7) (x : Word) (d : Nat), s.vphys vd.toNat = .ok d →
    s.clean.readS 5 sa = .ok (x, u) →
    exec (.movsv vd sa lane) s = .next (u.launch (.x (u.captured (.movsv vd sa lane) [] [x] 0 0 d)))

/-- R65, R175: a shadow of XCOPY writes 64 bytes of one lane group of its register, one of XBCAST every group, and one
of FMT the whole register; nothing else changes. R173, R174, R176, R178: what a move in flight writes when it completes, from
what it captured: TRROW and TRCOL the converted row or column and zero behind it, TWROW one row of the tile and TUNPK all of
it, a B4 row in blocks of 32 columns, each with its scale; MOVVS the word of a lane, zero-extended, MOVSV one lane; and the
flags of the conversions. -/
def Obligations.ShadowsWriteTheirTarget : Prop :=
  (∀ (s : State) (sh : Shadow),
    (∀ v, sh.write = .fmt v → s.land sh = s.modRegs (fun r => { r with fmt := v })) ∧
    ∀ reg code lg data, sh.write = .lanes reg code lg data → lg ≤ 8 →
      let t := s.land sh
      t.mem = s.mem ∧ t.ctx = s.ctx ∧ t.core.tiles = s.core.tiles ∧ t.core.sram = s.core.sram ∧
      (∀ r, r ≠ reg → t.getV r = s.getV r) ∧
      ∀ i, i < 4096 → (t.getV reg).getLsbD i =
        if lg = 8 ∨ i / 512 = lg then data.getLsbD (i % 512) else (s.getV reg).getLsbD i) ∧
  ∀ (s : State) (seq : Nat) (f : XFlight),
    let t := s.completeX seq f
    let hd := shapeOf f.shapeD
    let hs := shapeOf f.shapeS
    let raised := fun (fl : List Flags) => t.ctx = (s.raise (fl.foldl (fun a x => a ||| x) 0)).ctx
    let tilesOnly := t.mem = s.mem ∧ t.core.sram = s.core.sram ∧ t.core.vregs = s.core.vregs ∧
      ∀ x, x < f.dst * 16384 ∨ (f.dst + 1) * 16384 ≤ x → aget zeroByte t.core.tiles x = aget zeroByte s.core.tiles x
    let regOnly := t.mem = s.mem ∧ t.core.sram = s.core.sram ∧ t.core.tiles = s.core.tiles ∧
      ∀ r, r ≠ f.dst → t.getV r = s.getV r
    let blockOf := fun (n k : Nat) (at_ : Nat → FVal) (lane : Nat → Nat) => encodeBlock 4 (fmtBt4 f.fmt) (fmtRm f.fmt) (fmtSat f.fmt)
      ((List.range 32).map (fun i => if 32 * k + i < n then (some (at_ (32 * k + i)), lane (32 * k + i)) else (none, 0))) .none
    fmtOk f.fmt.toNat = true → fmtRm f.fmt ≠ 5 → tshapeOk f.shapeD.toNat = true → tshapeOk f.shapeS.toNat = true →
    -- from a tile to a register
    (∀ tiles ph (at_ : BitVec 7) c, typeClass (f.vet hs.type) = some c → ¬ (hs.type = 0x10 ∧ isIntType (f.vet hs.type) = true) →
      let reads := fun (n : Nat) (row col : Nat → Nat) =>
        let r := fun (k : Nat) => if f.vet hs.type = hs.type then (tileCode tiles ph hs (row k) (col k), 0, Rng.none)
          else fromTile hs (tileCode tiles ph hs (row k) (col k)) (tileScale tiles ph hs (row k) (col k)) c f.fmt .none 0
        regOnly ∧ raised ((List.range n).map (fun k => (r k).2.1)) ∧ ∀ k, k < 4096 / c.width →
          velem (t.getV f.dst) c.width k = if k < n then (r k).1 else 0
      (∀ vd tn, f.i = .trrow vd tn at_ → f.src = rowImage tiles ph hs at_.toNat → reads hs.cols (fun _ => at_.toNat) (fun k => k)) ∧
      ∀ vd tn, f.i = .trcol vd tn at_ → f.src = ((List.range hs.rows).map (fun r =>
          let code := tileCode tiles ph hs r at_.toNat
          if hs.type = 0x10 then [BitVec.ofNat 8 code, BitVec.ofNat 8 (tileScale tiles ph hs r at_.toNat)]
          else toBytes code (typeWidth hs.type / 8))).flatten →
        reads hs.rows (fun k => k) (fun _ => at_.toNat)) ∧
    -- from a register to a row of a tile
    (∀ tn row vs (v : VReg) c, f.i = .twrow tn row vs → f.src = bytesOf v → row.toNat < hd.rows →
      typeClass (f.vet hd.type) = some c → ¬ (hd.type = 0x10 ∧ isIntType (f.vet hd.type) = true) →
      let code := fun (k : Nat) => velem v c.width k
      let b := fun (k : Nat) => blockOf hd.cols k (fun i => c.value (code i)) (laneOf c.width)
      tilesOnly ∧ (∀ i k, i < hd.rows → i ≠ row.toNat → k < hd.cols →
        tileCode t.core.tiles f.dst hd i k = tileCode s.core.tiles f.dst hd i k ∧
        (hd.type = 0x10 → tileScale t.core.tiles f.dst hd i k = tileScale s.core.tiles f.dst hd i k)) ∧
      (∀ k, k < hd.cols → hd.type = 0x10 → tileCode t.core.tiles f.dst hd row.toNat k = (b (k / 32)).2.1.getD (k % 32) 0 ∧
        tileScale t.core.tiles f.dst hd row.toNat k = (b (k / 32)).1) ∧
      (∀ d, typeClass hd.type = some d → hd.type ≠ 0x10 →
        let r := fun (k : Nat) => convert c d (fmtRm f.fmt) (fmtSat f.fmt) (code k) .none 0
        raised ((List.range hd.cols).map (fun k => (r k).2.1)) ∧
        ∀ k, k < hd.cols → tileCode t.core.tiles f.dst hd row.toNat k = (r k).1) ∧
      (hd.type = 0x10 → raised ((List.range hd.scalePitch).map (fun k => (b k).2.2.1)))) ∧
    -- from a tile to a tile
    (∀ td ts tiles ph, f.i = .tunpk td ts → f.src = ((List.range hs.rows).map (rowImage tiles ph hs)).flatten →
      hd.rows = hs.rows → hd.cols = hs.cols → ¬ (hd.type = 0x10 ∧ isIntType hs.type = true) →
      ¬ (hs.type = 0x10 ∧ isIntType hd.type = true) →
      let code := fun (i k : Nat) => tileCode tiles ph hs i k
      let scale := fun (i k : Nat) => tileScale tiles ph hs i k
      let b := fun (i k : Nat) => blockOf hd.cols k (fun c => codeValue hs.type (code i c) (scale i c)) (fun c => c)
      tilesOnly ∧ ∀ i k, i < hd.rows → k < hd.cols →
        let becomes := fun (n : Nat) => tileCode t.core.tiles f.dst hd i k = n
        (hs.type = hd.type → becomes (code i k) ∧ t.ctx = s.ctx ∧
          (hd.type = 0x10 → tileScale t.core.tiles f.dst hd i k = scale i k)) ∧
        (hs.type ≠ hd.type → hd.type = 0x10 → becomes ((b i (k / 32)).2.1.getD (k % 32) 0) ∧
          tileScale t.core.tiles f.dst hd i k = (b i (k / 32)).1 ∧
          raised ((List.range hs.rows).map (fun i => (List.range hs.scalePitch).map (fun k => (b i k).2.2.1))).flatten) ∧
        ∀ d, typeClass hd.type = some d → hs.type ≠ hd.type → hd.type ≠ 0x10 →
          becomes (fromTile hs (code i k) (scale i k) d f.fmt .none 0).1 ∧
          raised ((List.range hs.rows).map (fun i => (List.range hs.cols).map (fun k =>
            (fromTile hs (code i k) (scale i k) d f.fmt .none 0).2.1))).flatten) ∧
    -- one lane
    (∀ sd vs (lane : BitVec 7) (v : VReg), f.i = .movvs sd vs lane → f.src = toBytes (v.toNat / 2 ^ (32 * lane.toNat)) 4 →
      t = s.lateS seq sd.toNat (BitVec.ofNat 64 (v.toNat / 2 ^ (32 * lane.toNat) % 2 ^ 32))) ∧
    ∀ vd sa (lane : BitVec 7) (x : Word), f.i = .movsv vd sa lane → f.ops = [x] → regOnly ∧ t.ctx = s.ctx ∧
      ∀ i, i < 4096 → (t.getV f.dst).getLsbD i =
        if i / 32 = lane.toNat then x.getLsbD (i % 32) else (s.getV f.dst).getLsbD i

/-- R177: LDT loads bytes of a tile's row, from memory at the base plus the row's offset in the plane, into the same
place of the tile. -/
def Obligations.TileLoad : Prop :=
  ∀ (s : State) (t an : BitVec 4) (row : BitVec 7) (blk : BitVec 4) (size : BitVec 3) (inc : BitVec 5) (ph : Nat),
    s.tphys t.toNat = .ok ph →
    let h := s.shape t.toNat
    let k := if h.type = 0x10 then size.toNat ≤ 1 else 1 ≤ size.toNat ∧ typeWidth h.type = 4 * 2 ^ size.toNat
    let first := if h.type = 0x10 ∧ size = 1 then h.rows * h.pitch else 0
    let pitch := if h.type = 0x10 ∧ size = 1 then h.scalePitch else h.pitch
    let w := Nat.max 1 (2 ^ size.toNat / 2)
    let a := s.readA an + BitVec.ofNat 64 (row.toNat * pitch)
    let n := Nat.min ((blk.toNat + 1) * 64) (h.rows * pitch - row.toNat * pitch)
    (¬ k → StopsWith (.ldt t an row blk size inc) s (trapSlot cILLI 5)) ∧
    (k → h.rows ≤ row.toNat → StopsWith (.ldt t an row blk size inc) s (trapSlot cILLI 5)) ∧
    (k → row.toNat < h.rows → a.toNat % w ≠ 0 → StopsWith (.ldt t an row blk size inc) s (trapR cALIGN [a])) ∧
    (k → row.toNat < h.rows → a.toNat % w = 0 → ∀ us u,
      s.clean.elements (fun e => some (a + BitVec.ofNat 64 (e * w))) w .load 1 false 0 (n / w) = .ok (us, u) →
      exec (.ldt t an row blk size inc) s = .next (u.pushLoad (.tile (ph * 16384 + first + row.toNat * pitch)) us))

/-- R180, R187, R188, R299: the control sub-operations need the claim and no pending MREP; MREP makes the next beat or
drain repeat. -/
def Obligations.MatrixControl : Prop :=
  (∀ (s : State) (i : Instr), (∃ cnt, i = .mrep cnt) ∨ i = .mrstp ∨ i = .mdrainw ∨ (∃ a, i = .mzero a) ∨ (∃ r, i = .mmode r) →
    (s.core.arr.claim ≠ some s.ctxId → StopsWith i s (trapSlot cILLI 4)) ∧
    (s.core.arr.claim = some s.ctxId → s.core.arr.repeat_.isSome → StopsWith i s .hold) ∧
    (s.core.arr.claim = some s.ctxId → s.core.arr.repeat_ = none → s.ctx.mrepNow.isSome →
      StopsWith i s (.trap cILLI [4] .mrep))) ∧
  ∀ (s : State), s.core.arr.claim = some s.ctxId → s.core.arr.repeat_ = none → s.ctx.mrepNow = none →
    let u := s.core.arr
    let gives := fun (i : Instr) (x : ArrayUnit) => exec i s = .next { s.clean with core := { s.core with arr := x } }
    (∀ cnt, ∃ t, exec (.mrep cnt) s = .next t ∧ t.ctx.mrepNow = some (cnt.toNat + 1) ∧ t.core = s.core) ∧
    gives .mrstp { u with pc := 0, pbank := u.lbank } ∧
    (u.queue = [] → gives .mdrainw { u with dirty := false }) ∧ (u.queue ≠ [] → StopsWith .mdrainw s .hold) ∧
    (∀ rs, gives (.mmode rs) { u with rs := rs = 1 }) ∧
    (∀ acc, ∃ x, gives (.mzero acc) x ∧ (∀ i j, i < 128 → j < 128 → x.accAt acc.toNat i j = 0) ∧
      aget .empty x.accState acc.toNat = .empty ∧
      ∀ a i j, a ≠ acc.toNat → i < 128 → j < 128 → x.accAt a i j = u.accAt a i j) ∧
    (∀ sel, let next := pairIn (if sel = 1 then s.crd.mfp1 else s.crd.mfp0)
      (u.dirty = false ∨ next = s.pair → gives (.mfmt sel) { u with mfpSel := sel = 1 }) ∧
      (u.dirty = true → next ≠ s.pair → StopsWith (.mfmt sel) s (trapSlot cILLI 4))) ∧
    (∀ slot, let g := aget GroupSlot.reset s.core.groups slot.toNat
      (g.st = .valid → gives (.mguse slot) { u with slot := some slot.toNat, g := 0 }) ∧
      (g.st = .validating → StopsWith (.mguse slot) s .hold) ∧
      (g.st = .empty ∨ g.st = .failed →
        StopsWith (.mguse slot) s (trapR cGROUP [BitVec.ofNat 64 slot.toNat, g.stat]))) ∧
    (∀ g, (u.slot = none → (g = 0 → gives (.mgsel g) { u with g := 0 }) ∧
        (g ≠ 0 → StopsWith (.mgsel g) s (trap cGROUP))) ∧
      ∀ n, u.slot = some n → (aget GroupSlot.reset s.core.groups n).st = .valid →
        (g.toNat < (aget GroupSlot.reset s.core.groups n).n → gives (.mgsel g) { u with g := g.toNat }) ∧
        ((aget GroupSlot.reset s.core.groups n).n ≤ g.toNat → StopsWith (.mgsel g) s
          (trapR cGROUP [BitVec.ofNat 64 n, (aget GroupSlot.reset s.core.groups n).stat]))) ∧
    ∀ (t : BitVec 4) (bank : BitVec 1) ph, s.tphys t.toNat = .ok ph →
      let h := s.shape t.toNat
      (arrayType h.type = false → StopsWith (.mfload t bank) s (trapSlot cILLI 4)) ∧
      (arrayType h.type = true → ∃ x, gives (.mfload t bank) x ∧ x.lbank = bank.toNat ∧
        aget none x.ftypes bank.toNat = some h.type ∧ x.pbank = u.pbank ∧ x.acc = u.acc ∧ x.weights = u.weights)

/-- R181 to R186, R189 to R191: a beat changes the array and STAT only; a drain waits behind at most three others, and
leaves the accumulator as it was unless it clears its row; both start a pending repeat. A streaming beat accumulates, in
each column, the products of the row with the active weights, and a rank-1 beat those of two rows, over the old elements
where A says so; all other elements stay. What `accumulate` is: the exact sum modulo 2^32 for an integer pair, with IOV where
that loses, and for a float pair the exact chunk sums, each rounded once, added in ascending order with one rounding each. A
push takes the filter row at pc into the shadow bank and moves pc on; W swaps the banks. A drain queues the row unscaled,
converted once, with equal bits to its own type; performing it writes that row of the tile and no other element; a fold
without a slot in use adds row to row, with one rounding for each element. -/
def Obligations.MatrixBeatsAndDrains : Prop :=
  (∀ (s t : State) (p st a w : BitVec 1) (tile : BitVec 4) (row : BitVec 7) (acc : BitVec 3) (arow : BitVec 7)
    (inc : BitVec 3) (ainc : BitVec 2),
    let i : Instr := .mbeat p st a w tile row acc arow inc ainc
    (s.core.arr.claim ≠ some s.ctxId → StopsWith i s (trapSlot cILLI 4)) ∧
    (s.core.arr.claim = some s.ctxId → s.core.arr.repeat_ = none → a = 1 → st = 0 →
      StopsWith i s (trapSlot cILLI 4)) ∧
    (s.core.arr.claim = some s.ctxId → s.core.arr.repeat_ = none → s.ctx.mrepNow = none →
      (p = 0 → st = 0 → a = 0 → w = 0 → exec i s = .next s.clean) ∧
      (s.clean.beat (p = 1) (st = 1) (a = 1) (w = 1) tile.toNat row.toNat acc.toNat arow.toNat ainc.toNat
          (s.rd.lscale.truncate 8) = .ok t →
        exec i s = .next t ∧ t.mem = s.mem ∧ t.core.tiles = s.core.tiles ∧ t.core.vregs = s.core.vregs ∧
        t.core.sram = s.core.sram ∧ t.ctx.r.s = s.ctx.r.s ∧ t.ctx.r.a = s.ctx.r.a))) ∧
  (∀ (s t : State) (acc : BitVec 3) (row : BitVec 7) (sram : BitVec 1) (tile : BitVec 4) (drow : BitVec 7)
    (clr ls : BitVec 1) (inc : BitVec 3) (dinc : BitVec 2),
    let i : Instr := .mdrain acc row sram tile drow clr ls inc dinc
    let j : Instr := .mdrainOfold acc row sram tile clr ls inc
    s.core.arr.claim = some s.ctxId → s.core.arr.repeat_ = none → s.ctx.mrepNow = none →
    (4 ≤ s.core.arr.queue.length → StopsWith i s .hold ∧ StopsWith j s .hold) ∧
    (s.clean.drain acc.toNat row.toNat (sram = 1) tile.toNat drow.toNat (clr = 1) (ls = 1) = .ok t →
      exec i s = .next t ∧ t.core.arr.queue.length = s.core.arr.queue.length + 1 ∧ t.core.tiles = s.core.tiles ∧
      t.core.sram = s.core.sram ∧ t.mem = s.mem ∧
      ∀ b r c, r < 128 → c < 128 → t.core.arr.accAt b r c =
        if clr = 1 ∧ b = acc.toNat ∧ r = row.toNat then 0 else s.core.arr.accAt b r c) ∧
    (s.clean.fold acc.toNat row.toNat (sram = 1) tile.toNat (clr = 1) (ls = 1) = .ok t →
      exec j s = .next t ∧ t.core.arr.queue.length = s.core.arr.queue.length + 1 ∧ t.core.tiles = s.core.tiles ∧
      t.core.sram = s.core.sram ∧ t.mem = s.mem ∧
      ∀ b r c, r < 128 → c < 128 → t.core.arr.accAt b r c =
        if clr = 1 ∧ b = acc.toNat ∧ r = row.toNat then 0 else s.core.arr.accAt b r c)) ∧
  (∀ (s t : State) (i : Instr) (n : Nat), s.core.arr.claim = some s.ctxId → s.core.arr.repeat_ = none →
    s.ctx.mrepNow = some n → 1 < n → s.mrun (s.rd.lscale.truncate 8) i = .ok t →
    ∃ u, s.missue i = .ok u ∧ u.core.arr.repeat_ = some ⟨i, n - 1, s.here, s.rd.lscale.truncate 8, s.ctx.pc,
      s.ctx.mode, t.ctx.pend.seq⟩) ∧
  -- beats
  (∀ (s : State) (a : BitVec 1) (tile : BitVec 4) (row : BitVec 7) (acc : BitVec 3) (arow : BitVec 7) (inc : BitVec 3)
    (ainc : BitVec 2) (ph : Nat),
    let u := s.core.arr
    let pr := s.pair
    let high := if pr.b4b4 then 2 else 1
    s.core.arr.claim = some s.ctxId → s.core.arr.repeat_ = none → s.ctx.mrepNow = none → s.tphys tile.toNat = .ok ph →
    (s.shape tile.toNat).type = pr.a →
    (aget .empty u.accState acc.toNat = .empty ∨
      aget .empty u.accState acc.toNat = if pr.isInt then .int else .flt (s.rd.lscale.truncate 8)) →
    (u.rs = false → (∀ k, k < 128 → ∀ ty, aget none u.wtypes (u.activeBank * 128 + k) = some ty → ty = pr.b) →
      ∃ t, exec (.mbeat 0 1 a 0 tile row acc arow inc ainc) s = .next t ∧
        aget .empty t.core.arr.accState acc.toNat = (if pr.isInt then .int else .flt (s.rd.lscale.truncate 8)) ∧
        (∀ h n, h < high → n < pr.cols → t.core.arr.accAt acc.toNat ((arow.toNat + h) % 128) n =
          (accumulate pr (a = 1) (u.accAt acc.toNat ((arow.toNat + h) % 128) n) ((List.range 128).map (fun k =>
            FVal.mul (s.rowValue ph tile.toNat ((row.toNat + h) % 128) k) (u.activeWeight pr.b k n)))).1) ∧
        ∀ b i j, i < 128 → j < 128 → (b = acc.toNat → (∀ h, h < high → i ≠ (arow.toNat + h) % 128) ∨ pr.cols ≤ j) →
          t.core.arr.accAt b i j = u.accAt b i j) ∧
    ∀ ph2, u.rs = true → s.tphys (tile.toNat + 1) = .ok ph2 → (s.shape (tile.toNat + 1)).type = pr.b →
      ∃ t, exec (.mbeat 0 1 a 0 tile row acc 0 inc 0) s = .next t ∧
        (∀ i j, i < 128 → j < pr.cols →
          let old := u.accAt acc.toNat i j
          let ps := (List.range high).map (fun h => FVal.mul (s.rowValue ph tile.toNat ((row.toNat + h) % 128) i)
            (s.rowValue ph2 (tile.toNat + 1) ((row.toNat + h) % 128) j))
          t.core.arr.accAt acc.toNat i j =
            (if pr.isInt then accumulateInt (a = 1) old ps else accumulateFloat (a = 1) old [chunkSum ps]).1) ∧
        ∀ b i j, i < 128 → j < 128 → (b = acc.toNat → pr.cols ≤ j) → t.core.arr.accAt b i j = u.accAt b i j) ∧
  -- what `accumulate` is
  (∀ (pr : Pair) (a : Bool) (old : Nat) (xs : List (Int × Int)), pr.a ≤ 1 →
    let t : IntFmt := ⟨32, true⟩
    let sum := (if a then t.decode old else 0) + (xs.map (fun q => q.1 * q.2)).sum
    let r := accumulate pr a old (xs.map (fun q => FVal.mul (.ofInt q.1) (.ofInt q.2)))
    r.1 = t.encode sum ∧ r.2 = flagIf (decide (¬ (-(2 ^ 31) ≤ sum ∧ sum < 2 ^ 31))) fIOV) ∧
  (∀ (pr : Pair) (a : Bool) (old : Nat) (ps : List (FVal × Bool)), 1 < pr.a → ps.length = 128 →
    (accumulate pr a old ps).1 = (accumulateFloat a old ((List.range (128 / pr.chunk)).map (fun c =>
      chunkSum ((ps.drop (c * pr.chunk)).take pr.chunk)))).1) ∧
  (∀ (old : Nat) (c : FVal × Bool) (cs : List (FVal × Bool)),
    let r := (rne32 c.1).1
    (accumulateFloat true old []).1 = old ∧ (accumulateFloat false old (c :: cs)).1 = (accumulateFloat true r cs).1 ∧
    (accumulateFloat true old (c :: cs)).1 =
      (accumulateFloat true (rne32 (FVal.add 0 (fmtFP32.decode old) (fmtFP32.decode r)).1).1 cs).1) ∧
  (∀ (ps : List (Bool × Nat × Int)) (q : Int), q ≤ 0 → (∀ p, p ∈ ps → q ≤ p.2.2) →
    ∃ neg m e, chunkSum (ps.map (fun p => (FVal.fin p.1 p.2.1 p.2.2, false))) = (.fin neg m e, false) ∧ q ≤ e ∧
      scaled neg m e q = (ps.map (fun p => scaled p.1 p.2.1 p.2.2 q)).sum) ∧
  -- pushes
  (∀ (s : State) (w : BitVec 1) (tile : BitVec 4) (row : BitVec 7) (acc : BitVec 3) (arow : BitVec 7) (inc : BitVec 3)
    (ainc : BitVec 2) (ph : Nat),
    let u := s.core.arr
    s.core.arr.claim = some s.ctxId → s.core.arr.repeat_ = none → s.ctx.mrepNow = none → s.tphys tile.toNat = .ok ph →
    (s.shape tile.toNat).type = s.pair.a → u.rs = false → u.slot = none →
    (∀ ty, aget none u.ftypes u.pbank = some ty → ty = s.pair.b) →
    ∃ t, exec (.mbeat 1 0 0 w tile row acc arow inc ainc) s = .next t ∧
      let v := t.core.arr
      let sh := u.shadowBank * 128 + u.pc
      (∀ n, n < 128 → aget 0 v.weights (sh * 128 + n) = aget 0 u.filters ((u.pbank * 128 + u.pc) * 128 + n)) ∧
      aget none v.wtypes sh = some s.pair.b ∧ v.pc = (u.pc + 1) % 128 ∧ v.acc = u.acc ∧
      (∀ k, k < sh * 128 ∨ sh * 128 + 128 ≤ k → aget 0 v.weights k = aget 0 u.weights k) ∧
      v.active = (if w = 1 then !u.active else u.active)) ∧
  -- drains
  (∀ (s : State) (acc : BitVec 3) (row : BitVec 7) (tile : BitVec 4) (drow : BitVec 7) (clr ls : BitVec 1)
    (inc : BitVec 3) (dinc : BitVec 2) (ph : Nat),
    let u := s.core.arr
    let h := s.shape tile.toNat
    let isInt := decide (aget .empty u.accState acc.toNat = .int)
    let old := u.accAt acc.toNat row.toNat
    let queues := fun (i : Instr) op => ∃ t, exec i s = .next t ∧
      t.core.arr.queue = u.queue ++ [(s.here, s.drainNumber, op)]
    s.core.arr.claim = some s.ctxId → s.core.arr.repeat_ = none → s.ctx.mrepNow = none → u.queue.length < 4 →
    (s.tphys tile.toNat = .ok ph → drow.toNat < h.rows →
      ((isInt = true ∧ ls = 0 ∧ h.type = 0x04) ∨ (isInt = false ∧ ls = 0 ∧ h.type = 0x0C) →
        queues (.mdrain acc row 0 tile drow clr ls inc dinc)
          (.tile ph (rowBytes s.core.tiles ph h drow.toNat ((List.range h.cols).map old) []))) ∧
      ∀ c l, typeClass h.type = some c → (∀ b, c ≠ .block b) → isInt = false → h.type ≠ 0x0C → fmtRm s.rd.fmt ≠ 5 →
        h.cols ≤ 128 → (ls = 0 ∧ l = 0 ∨ ls = 1 ∧ (∃ x, aget .empty u.accState acc.toNat = .flt x ∧ l = x.toInt)) →
        queues (.mdrain acc row 0 tile drow clr ls inc dinc)
          (.tile ph (rowBytes s.core.tiles ph h drow.toNat ((List.range h.cols).map (fun k =>
            (convertTo c false (fmtRm s.rd.fmt) (fmtSat s.rd.fmt) (match fmtFP32.decode (old k) with
              | .fin neg m e => .fin neg m (e - l)
              | v => v) .none k).1)) []))) ∧
    (∀ locs, s.rd.fmt.toNat % 32 = 0x0C → isInt = false → ls = 0 →
      s.localUnits (s.readA tile + BitVec.ofNat 64 (drow.toNat * 512)) 4 128 = .ok locs →
      queues (.mdrain acc row 1 tile drow clr ls inc dinc)
        (.sram ((locs.zip ((List.range 128).map old)).map (fun q => (q.1, toBytes q.2 4))))) ∧
    (s.tphys tile.toNat = .ok ph → h.type = 0x0C → row.toNat < h.rows → u.slot = none → isInt = false → ls = 0 →
      queues (.mdrainOfold acc row 0 tile clr ls inc)
        (.foldTile ph (s.tshape tile.toNat) [(row.toNat, 0x3F80)] ((List.range 128).map old) 0))) ∧
  ∀ (s : State) (ph : Nat) (v : Word) (d : Nat),
    let h := shapeOf v
    d < h.rows → typeWidth h.type = 32 → h.rows * h.cols * 4 ≤ 16384 →
    (∀ codes : List Nat, codes.length = h.cols →
      let t := s.performDrain (.tile ph (rowBytes s.core.tiles ph h d codes []))
      ∀ i c, i < h.rows → c < h.cols → tileCode t.core.tiles ph h i c =
        if i = d then codes.getD c 0 % 2 ^ 32 else tileCode s.core.tiles ph h i c) ∧
    ∀ (w : Nat) (g : List Nat) (l : Int), h.cols ≤ g.length →
      let t := s.performDrain (.foldTile ph v [(d, w)] g l)
      ∀ i c, i < h.rows → c < h.cols → tileCode t.core.tiles ph h i c =
        if i = d then (foldAdd (tileCode s.core.tiles ph h d c) w (g.getD c 0) l).1
        else tileCode s.core.tiles ph h i c

/-! The E and T slots (10 R207 to R222; 11 R223 to R240; 12 R246; 15 R299; 07 R128). -/

/-- R210, R222, R128: ECFG writes one field of a nest set; PHLIVE and PHINT matter to a save only. -/
def Obligations.NestSetsAndHints : Prop :=
  (∀ (s : State) (nset dim : BitVec 3) (fsel : BitVec 1) (val : BitVec 29),
    ∃ t, exec (.ecfg nset dim fsel val) s = .next t ∧ t.core = s.core ∧ t.mem = s.mem ∧ t.ctx.r = s.ctx.r ∧
    (∀ k, k ≠ nset.toNat → aget NestSet.reset t.ctx.nest k = aget NestSet.reset s.ctx.nest k) ∧
    let old := aget NestSet.reset s.ctx.nest nset.toNat
    let new := aget NestSet.reset t.ctx.nest nset.toNat
    let d := dim.toNat
    (∀ e, new.boundAt e = if d < 6 ∧ fsel = 0 ∧ e = d then val.toNat else old.boundAt e) ∧
    (∀ e, new.strideAt e = if d < 6 ∧ fsel = 1 ∧ e = d then val.toInt else old.strideAt e) ∧
    (new.elem = if 6 ≤ d ∧ fsel = 0 then val.truncate 5 else old.elem) ∧
    (∀ e, aget 0 new.origin e = if 6 ≤ d ∧ fsel = 1 ∧ e = (val.extractLsb' 26 3).toNat then (val.extractLsb' 0 26).toNat
      else aget 0 old.origin e)) ∧
  (∀ (s : State) (chunks tiles : BitVec 16) (accs sg : BitVec 8), exec (.phlive chunks tiles accs sg) s = .next
    { s.clean with ctx := { s.ctx with live := some (chunks.toNat, tiles.toNat, accs.toNat, sg.toNat) } }) ∧
  ∀ (s : State) (g : BitVec 24), let q := s.getPart s.ctx.part
    (s.ctx.mode = .user → q.preState = 1 → q.hvState = 0 → exec (.phint g) s = .next
      { s.clean with ctx := { s.ctx with status := .saving (some (g, s.ctx.live)) } }) ∧
    (s.ctx.mode = .handler ∨ q.preState ≠ 1 ∨ q.hvState ≠ 0 → exec (.phint g) s = .next s.clean)

/-- R207, R208, R397: a command enters its queue with the addresses and nest sets it read, behind those before it, with its
amount, its place in the core's issue order, and the accesses of the context that must be performed before it starts, its
own release among them; the release takes its place among the context's accesses; a full queue holds it. A PUT through a route entry that names a barrier takes the
entry's arrival number, which advances. -/
def Obligations.EngineCommandsEnqueue : Prop :=
  ∀ (s : State) (q : BitVec 4),
    let bar : BitVec 18 := 0x3FFFF
    let set := fun (n : BitVec 3) => aget NestSet.reset s.ctx.nest n.toNat
    let count := fun (n : BitVec 3) => (set n).count * (set n).size
    let rows := fun (n : BitVec 3) => (set n).boundAt 0 * (set n).boundAt 1 * (set n).size
    let enters := fun (i : Instr) (as : List (BitVec 4)) (sets : List (BitVec 3)) (amount scope : Nat) =>
      (32 ≤ s.core.outstanding q.toNat → StopsWith i s .hold) ∧
      (s.core.outstanding q.toNat < 32 → ∃ t c, exec i s = .next t ∧
        t.core.queue q.toNat = s.core.queue q.toNat ++ [c] ∧ c.i = i ∧ c.aregs = as.map s.readA ∧ c.sets = sets.map set ∧
        c.amount = amount ∧ c.bar = none ∧ c.done = 0 ∧ c.wait = .none ∧ c.task = s.ctx.cr.taskid.toNat ∧ c.ctx = s.here ∧
        let r := ({ s.clean with core := { s.core with stamp := s.core.stamp + 1 } }).placeRelease scope
        c.stamp = s.core.stamp + 1 ∧ t.core.stamp = s.core.stamp + 1 ∧ c.after = r.ctx.pend.seq ∧ c.scope = scope ∧
        t.ctx.r = s.ctx.r ∧ t.core.vregs = s.core.vregs ∧ t.core.tiles = s.core.tiles ∧ t.core.sram = s.core.sram ∧
        t.mem = r.mem ∧ t.dies = r.dies ∧ t.core.l1 = r.core.l1 ∧ t.ctx.pend = r.ctx.pend)
    (∀ ss ds a b op, enters (.copy q bar ss ds a b op) [a, b] [ss, ds] (count ds) 3) ∧
    (∀ n a b c mode op, enters (.gather q bar n a b c mode op) [a, b, c] [n] (rows n) 3 ∧
      enters (.scatter q bar n a b c mode op) [a, b, c] [n] (rows n) 3) ∧
    (∀ n a b c op ix, enters (.nmop q bar n a b c op ix) [a, b, c] [n] (if ix = 1 then rows n else count n) 3) ∧
    (∀ a b c alg cnt, enters (.nmopt q bar a b c alg cnt) [a, b, c] [] (cnt.toNat * 512) 3) ∧
    enters (.nmfence q bar) [] [] 1 3 ∧ (∀ mask, enters (.qfence q bar mask) [] [] 1 0) ∧
    (∀ a n ring first cnt slot, enters (.subscr q bar a n ring first cnt slot) [a] [n] 1 3) ∧
    (∀ ring k, enters (.slotret q bar ring k) [] [] 1 0) ∧ (∀ ring, enters (.unsubscr q bar ring) [] [] 1 0) ∧
    (∀ a first cnt, enters (.hcwld q bar a first cnt) [a] [] (cnt.toNat * 32) 0) ∧
    (∀ a tier pages, enters (.pmig q bar a tier pages) [a] [] (pages.toNat * 65536) 3) ∧
    (∀ a b peer op n, enters (.put q bar a b peer op n) [a, b] [n] (count n) 4 ∧
      ∀ port rpart rb log k, aget [] (s.getPart s.myPart).routes peer.toNat = [port, rpart, rb, log, k] →
        s.core.outstanding q.toNat < 32 → ∃ t, exec (.put q bar a b peer op n) s = .next t ∧
          (rb ≠ 0 → ((t.core.queue q.toNat).getLast?).map Cmd.anum = some k ∧
            aget [] (t.getPart s.myPart).routes peer.toNat = [port, rpart, rb, log, (k + 1) % 2 ^ 32]) ∧
          (rb = 0 → aget [] (t.getPart s.myPart).routes peer.toNat = [port, rpart, rb, log, k])) ∧
    (∀ a b peer op n, enters (.get q bar a b peer op n) [a, b] [n] (count n) 4) ∧
    (∀ bank mode ring, enters (.bankcfg q bar bank mode ring) [] [] 1 0) ∧
    (∀ a lines, enters (.zerom q bar a lines) [a] [] (lines.toNat * 128) 3) ∧
    (s.core.arr.claim ≠ some s.ctxId → (∀ a k, StopsWith (.gload q bar a k) s (trapSlot cILLI 6)) ∧
      ∀ a n bank, StopsWith (.floadm q bar a n bank) s (trapSlot cILLI 6)) ∧
    (s.core.arr.claim = some s.ctxId →
      (∀ a k, enters (.gload q bar a k) [a] [] 1 0 ∧ ∀ t, exec (.gload q bar a k) s = .next t →
        s.core.outstanding q.toNat < 32 → (aget GroupSlot.reset t.core.groups k.toNat).st = .validating) ∧
      ∀ a n bank, enters (.floadm q bar a n bank) [a] [n] (count n) 0 ∧ ∀ t, exec (.floadm q bar a n bank) s = .next t →
        s.core.outstanding q.toNat < 32 → t.core.arr.lbank = bank.toNat)

/-- R208, R214, R229: the amount of every command that names a barrier is added to that barrier's PTX at issue, and the
command enters its queue with it; an amount that would leave PTX's range, or an object that is not in a scratchpad bank,
keeps the command from issuing; an amount of 0 adds nothing. The addition is a write that comes after the accesses its
command's release covers, so the clauses on it are about a context whose accesses are performed (14 R278). A COPY that
promises also sets PRM. -/
def Obligations.CommandOwesItsBarrier : Prop :=
  ∀ (s : State) (q : BitVec 4) (bar : BitVec 18), bar ≠ 0x3FFFF → s.core.outstanding q.toNat < 32 →
    let idle := s.ctx.pend.lq = [] ∧ s.ctx.pend.stq = []
    let set := fun (n : BitVec 3) => aget NestSet.reset s.ctx.nest n.toNat
    let count := fun (n : BitVec 3) => (set n).count * (set n).size
    let rows := fun (n : BitVec 3) => (set n).boundAt 0 * (set n).boundAt 1 * (set n).size
    let b := crewPlace (crewOf s.coreId) (bar.toNat * 16)
    let x := s.getBar b
    let free := s.scratchAt b = true ∧ s.viewHits b.1 b.2 16 = []
    let owes := fun (i : Instr) (m : Nat) (y : Barrier → Prop) =>
      (m ≠ 0 → idle → ¬ free → StopsWith i s (trap cPROT)) ∧
      (m ≠ 0 → idle → free → 2 ^ 32 ≤ x.ptx + m → StopsWith i s (.trap cOVERRUN [] (.ovr b))) ∧
      (m ≠ 0 → idle → free → x.ptx + m < 2 ^ 32 → ∃ t c, exec i s = .next t ∧ y (t.getBar b) ∧
        t.core.queue q.toNat = s.core.queue q.toNat ++ [c] ∧ c.i = i ∧ c.bar = some b ∧ c.amount = m) ∧
      (m = 0 → ∃ t c, exec i s = .next t ∧ t.getBar b = x ∧
        t.core.queue q.toNat = s.core.queue q.toNat ++ [c] ∧ c.i = i ∧ c.bar = some b ∧ c.amount = 0)
    let plain := fun (i : Instr) (m : Nat) => owes i m (fun y => y = { x with ptx := x.ptx + m })
    (∀ ss ds a c op, (op.getLsbD 5 = false → plain (.copy q bar ss ds a c op) (count ds)) ∧
      (op.getLsbD 5 = true → owes (.copy q bar ss ds a c op) (count ds)
        (fun y => ∃ prom, y = { x with ptx := x.ptx + count ds, prm := true, prom := prom }))) ∧
    (∀ n a c d mode op, plain (.gather q bar n a c d mode op) (rows n) ∧ plain (.scatter q bar n a c d mode op) (rows n)) ∧
    (∀ n a c d op ix, plain (.nmop q bar n a c d op ix) (if ix = 1 then rows n else count n)) ∧
    (∀ a c d alg cnt, plain (.nmopt q bar a c d alg cnt) (cnt.toNat * 512)) ∧
    plain (.nmfence q bar) 1 ∧ (∀ mask, plain (.qfence q bar mask) 1) ∧
    (∀ a n ring first cnt slot, plain (.subscr q bar a n ring first cnt slot) 1) ∧
    (∀ ring k, plain (.slotret q bar ring k) 1) ∧ (∀ ring, plain (.unsubscr q bar ring) 1) ∧
    (∀ a first cnt, plain (.hcwld q bar a first cnt) (cnt.toNat * 32)) ∧
    (∀ a tier pages, plain (.pmig q bar a tier pages) (pages.toNat * 65536)) ∧
    (∀ a c peer op n, plain (.put q bar a c peer op n) (count n) ∧ plain (.get q bar a c peer op n) (count n)) ∧
    (∀ bank mode ring, plain (.bankcfg q bar bank mode ring) 1) ∧
    (∀ a lines, plain (.zerom q bar a lines) (lines.toNat * 128)) ∧
    (s.core.arr.claim = some s.ctxId → (∀ a k, plain (.gload q bar a k) 1) ∧
      ∀ a n bank, plain (.floadm q bar a n bank) (count n))

/-- R223 to R229: BINIT, BARRIVE and BEXPECT change one barrier object, and the completion check turns its phase; an
operation that R227 to R229 reject sets OVR only and raises OVERRUN with its record. -/
def Obligations.BarrierOperations : Prop :=
  ∀ (s u : State) (sa : BitVec 6) (a : Word) (b : Nat × Nat), s.ctx.pend.lq = [] → s.ctx.pend.stq = [] →
    s.core.arr.queue = [] → s.core.arr.repeat_ = none → s.clean.readS 7 sa = .ok (a, u) → u.object a = .ok b →
    let x := u.getBar b
    let turned := fun (y : Barrier) => { y with ph := (y.ph + 1) % 16, pend := y.arr, prm := false, wait := 0 }
    (∀ cnt : BitVec 12,
      (x.ptx = 0 → x.wait = 0 → ∃ t, exec (.binit sa cnt) s = .next t ∧ t.ctx.r = s.ctx.r ∧ t.getBar b =
        { x with ph := 0, ovr := false, flt := false, prm := false, arr := cnt.toNat, pend := cnt.toNat, prom := 0 }) ∧
      (x.ptx ≠ 0 ∨ x.wait ≠ 0 → StopsWith (.binit sa cnt) s
        (.trap cOVERRUN [a, cnt.zeroExtend 64, BitVec.ofNat 64 x.ptx, BitVec.ofNat 64 x.wait] (.ovr b)))) ∧
    (∀ cnt : BitVec 12,
      let y := { x with pend := x.pend - cnt.toNat }
      (x.pend < cnt.toNat → StopsWith (.barrive sa cnt) s
        (.trap cOVERRUN [a, cnt.zeroExtend 64, BitVec.ofNat 64 x.pend] (.ovr b))) ∧
      (cnt.toNat ≤ x.pend → (y.pend ≠ 0 ∨ y.ptx ≠ 0) →
        ∃ t, exec (.barrive sa cnt) s = .next t ∧ t.getBar b = y ∧ t.ctx.r = s.ctx.r) ∧
      (cnt.toNat ≤ x.pend → y.pend = 0 → y.ptx = 0 → y.wait = 0 →
        ∃ t, exec (.barrive sa cnt) s = .next t ∧ t.getBar b = turned y ∧ t.ctx.r = s.ctx.r)) ∧
    ∀ (sb : BitVec 6) (v : Word) (w : State), u.readS 7 sb = .ok (v, w) →
      let n := (x.ptx : Int) + v.toInt
      let y := { x with ptx := n.toNat }
      (n < 0 ∨ 2 ^ 32 ≤ n → StopsWith (.bexpect sa sb) s (.trap cOVERRUN [a, v, BitVec.ofNat 64 x.ptx] (.ovr b))) ∧
      (0 ≤ n → n < 2 ^ 32 → (y.pend ≠ 0 ∨ y.ptx ≠ 0) →
        ∃ t, exec (.bexpect sa sb) s = .next t ∧ t.getBar b = y ∧ t.ctx.r = s.ctx.r) ∧
      (0 ≤ n → n < 2 ^ 32 → y.pend = 0 → y.ptx = 0 → y.wait = 0 →
        ∃ t, exec (.bexpect sa sb) s = .next t ∧ t.getBar b = turned y ∧ t.ctx.r = s.ctx.r)

/-- R225, R231 to R233, R403: BWAIT and BTEST compare phases modulo 16, SLEEPB looks at the promise; what is not complete
blocks, or is told as 3. Each ends with the completion check: where nothing is pending any more, it turns the phase itself.
The value of a poisoned object reaches no register: BWAIT and BTEST of it are consumed. -/
def Obligations.BarrierWaits : Prop :=
  ∀ (s u : State) (sd sa : BitVec 6) (a : Word) (b : Nat × Nat), s.ctx.pend.lq = [] → s.ctx.pend.stq = [] →
    s.core.arr.queue = [] → s.core.arr.repeat_ = none →
    s.clean.readS 7 sa = .ok (a, u) → u.object a = .ok b → s.ctx.status = .ready →
    let x := u.getBar b
    let spent := x.pend = 0 ∧ x.ptx = 0
    let turned := { x with ph := (x.ph + 1) % 16, pend := x.arr, prm := false, wait := 0 }
    let sound := u.bankBad b.1 b.2 16 = false
    let fresh := sound ∧ u.deferredOn b = none ∧ u.mergeOn b = none
    (∀ (ph : BitVec 4) (tmo : BitVec 10), ¬ sound →
      StopsWith (.btest sd sa ph) s (.poison (u.poisonPlace (.sram b.1 b.2) 16)) ∧
      StopsWith (.bwait sd sa ph tmo) s (.poison (u.poisonPlace (.sram b.1 b.2) 16))) ∧
    (∀ (ph : BitVec 4) (tmo : BitVec 10), fresh →
      let d := (x.ph + 16 - ph.toNat) % 16
      (¬ spent →
        (d = 0 → StopsWith (.bwait sd sa ph tmo) s .block ∧
          ∀ t, u.writeS 7 sd 3 = .ok t → exec (.btest sd sa ph) s = .next t) ∧
        (1 ≤ d → d ≤ 8 → ∀ t, (u.acquire 2).writeS 7 sd 0 = .ok t →
          exec (.bwait sd sa ph tmo) s = .next t ∧ exec (.btest sd sa ph) s = .next t) ∧
        (9 ≤ d → ∀ t, u.writeS 7 sd 2 = .ok t →
          exec (.bwait sd sa ph tmo) s = .next t ∧ exec (.btest sd sa ph) s = .next t)) ∧
      (spent → x.wait = 0 → sd ≠ 62 →
        (∃ t, exec (.btest sd sa ph) s = .next t ∧ t.getBar b = turned ∧
          (sd ≠ 0 → aget 0 t.ctx.r.s sd.toNat = if d = 0 then 3 else if d ≤ 8 then 0 else 2)) ∧
        (d ≠ 0 ∨ x.arr ≠ 0 → ∃ t, exec (.bwait sd sa ph tmo) s = .next t ∧ t.getBar b = turned ∧
          (sd ≠ 0 → aget 0 t.ctx.r.s sd.toNat = if d ≤ 8 then 0 else 2)))) ∧
    (∀ (ph : BitVec 4) (tmo : BitVec 10) d, sound → u.deferredOn b = some d → d.indices.length = 6 → d.aregs.length = 4 →
      StopsWith (.bwait sd sa ph tmo) s (.trap cDEFER ([d.code.zeroExtend 64, d.pc] ++ d.indices ++
        [BitVec.ofNat 64 d.enc, BitVec.ofNat 64 d.element] ++ d.aregs) (.defer b))) ∧
    (x.prm = false → ¬ spent → exec (.sleepb sa) s = .next (u.acquire 2)) ∧
    (x.prm = false → spent → x.wait = 0 → ∃ t, exec (.sleepb sa) s = .next t ∧ t.getBar b = turned ∧ t.ctx.r = s.ctx.r) ∧
    (x.prm = true → spent → x.wait = 0 → ∃ t, exec (.sleepb sa) s = .next t ∧ t.getBar b = turned ∧ t.ctx.r = s.ctx.r) ∧
    (x.prm = true → ¬ spent → (s.cyc % 2 ^ 32 + 2 ^ 32 - x.prom) % 2 ^ 32 < 2 ^ 31 → StopsWith (.sleepb sa) s
      (trapR cCRAB [a, BitVec.ofNat 64 x.prom, BitVec.ofNat 64 (s.cyc % 2 ^ 32)])) ∧
    (x.prm = true → ¬ spent → 2 ^ 31 ≤ (s.cyc % 2 ^ 32 + 2 ^ 32 - x.prom) % 2 ^ 32 → StopsWith (.sleepb sa) s .block)

/-- R234, R235, R327: TSPAWN enters a child under a fresh TASKID, or answers −1 or −2 where there is no room; TVIEW
declares, or drops, one view. -/
def Obligations.SpawnAndViews : Prop :=
  (∀ (s u w : State) (sd sa : BitVec 6) (a : Word) (l : Loc), s.ctx.pend.lq = [] → s.ctx.pend.stq = [] →
    s.core.arr.queue = [] → s.core.arr.repeat_ = none → s.clean.readS 7 sa = .ok (a, u) → sd ≠ 62 →
    (a.toNat % 64 ≠ 0 → StopsWith (.tspawn sd sa) s (trapR cALIGN [a])) ∧
    (a.toNat % 64 = 0 → (u.releaseL1 3).resolve a 64 .load 1 = .ok (l, w) → w.slotsReady l 64 = true →
      w.poisoned l 64 = false →
      let bs := (w.readUnit w.coreId l 64).1
      let v := (w.readUnit w.coreId l 64).2
      let q := v.getPart v.ctx.part
      (q.reserveViews (crewOf v.coreId) v.ctx.viewDecls = none → ∃ t, v.writeS 7 sd (-1) = .ok t ∧
        exec (.tspawn sd sa) s = .next t) ∧
      ∀ r views, q.reserveViews (crewOf v.coreId) v.ctx.viewDecls = some (r, views) →
        (r.freeEntry = none → ∃ t, v.writeS 7 sd (-2) = .ok t ∧ exec (.tspawn sd sa) s = .next t) ∧
        ∀ k id z, r.freeEntry = some (k, id) →
          v.storeBytes (a + 0x38) (toBytes (id + v.ctx.cr.taskid.toNat * 2 ^ 32) 8) .store 2 9 = .ok z →
          (jobOf bs).refused false = none → k < 0x4000 → afind (z.getPart v.ctx.part).tasks k = none →
          ∃ t x, exec (.tspawn sd sa) s = .next t ∧ afind (t.getPart v.ctx.part).tasks k = some x ∧ x.id = id ∧
            x.job = jobOf bs ∧ x.st = .ready ∧ ((∀ y ∈ views, y.2.backing = none) → x.views = views) ∧
            x.views.map (fun y => (y.1, y.2.desc, y.2.crew, y.2.backing)) =
              views.map (fun y => (y.1, y.2.desc, y.2.crew, y.2.backing)) ∧ x.parent = some v.ctx.cr.taskid.toNat ∧
            (sd ≠ 0 → aget 0 t.ctx.r.s sd.toNat = BitVec.ofNat 64 id))) ∧
  ∀ (s u : State) (view : BitVec 3) (sa : BitVec 6) (a : Word), s.ctx.pend.lq = [] → s.ctx.pend.stq = [] →
    s.core.arr.queue = [] → s.core.arr.repeat_ = none → s.clean.readS 7 sa = .ok (a, u) →
    (a = 0 → exec (.tview view sa) s =
      .next { u with ctx := { u.ctx with viewDecls := adel u.ctx.viewDecls view.toNat } }) ∧
    (a ≠ 0 → a.toNat % 32 ≠ 0 → StopsWith (.tview view sa) s (trapR cALIGN [a])) ∧
    (a ≠ 0 → a.toNat % 32 = 0 → ∀ l w, u.resolve a 32 .load 1 = .ok (l, w) → w.slotsReady l 32 = true →
      w.poisoned l 32 = false →
      let bs := (w.readUnit w.coreId l 32).1
      let v := (w.readUnit w.coreId l 32).2
      let others := (v.ctx.viewDecls.filter (fun x => x.1 ≠ view.toNat)).map Prod.snd
      (viewOk bs others = none → StopsWith (.tview view sa) s (trapSlot cILLI 7)) ∧
      ∀ d, viewOk bs others = some d → exec (.tview view sa) s =
        .next { v with ctx := { v.ctx with viewDecls := aput v.ctx.viewDecls view.toNat d } })

/-- R236 to R240, R329, R330: where TEND, TSUSPEND, TSIGNAL and TNOTIFY complete, with what each leaves. TEND of a task
without families frees the context and tells a root's host; with families it waits, and its open family is closed; that the
core's other contexts may issue while it waits is the model's reading (log 31). TSUSPEND frees the
context and leaves its record in the object's waiter list, or enqueues its continuation where the phase has passed or a
signal is there. TSIGNAL counts one signal, or hands it to the first waiter; a full count raises OVERRUN. TNOTIFY spends one
credit and posts its message; without credit it is held. The words of the completion and notification messages, and their
places, are the model's layout of what R351 and R240 list (log 25). -/
def Obligations.EndSuspendSignalNotify : Prop :=
  let quiet := fun (s : State) => s.ctx.pend.lq = [] ∧ s.ctx.pend.stq = [] ∧ s.ctx.pend.flight = [] ∧
    s.ctx.pend.reinject = [] ∧ s.core.arr.queue = [] ∧ s.core.arr.repeat_ = none
  (∀ (s : State), quiet s → s.families = [] → s.ctx.merges = [] →
    ∃ t, exec .tend s = .next t ∧ t.evt = .ended ∧ t.ctx.status = .idle ∧
      ∀ x tag, (s.getPart s.ctx.part).task? s.ctx.cr.taskid.toNat = some x → x.parent = none → x.tag = some tag →
        ∃ m ∈ t.out, m.kind = 0x02 ∧ m.body.take 3 = [tag, BitVec.ofNat 64 s.ctx.cr.taskid.toNat, 0]) ∧
  (∀ (s : State), quiet s → s.families ≠ [] →
    ∃ t, exec .tend s = .next t ∧ t.evt = .stopped .block ∧ t.ctx = s.ctx ∧ t.core = s.core ∧ t.mem = s.mem ∧
      t.families.length = s.families.length ∧ t.families.getLast?.map Family.closed = some true) ∧
  (∀ (s u v : State) (sa sb : BitVec 6) (a r : Word) (o b : Nat × Nat), quiet s →
    s.clean.readS 7 sa = .ok (a, u) → u.readS 7 sb = .ok (r, v) → v.object a = .ok o → v.object r = .ok b →
    crewOffset b ≠ 0 → s.ctx.deferred = [] →
    let live := v.bankNat (b.1, b.2 + 8) 8
    let ctl := v.bankNat (b.1, b.2 + 0x10) 4
    let n := (liveRegs live).length
    let x := v.getBar o
    let count := v.bankNat (o.1, o.2 + 12) 4
    live.testBit 0 = false → live.testBit 62 = false → v.bankNat b 8 % 2 = 0 → ctl < 32 →
    b.2 / 0x8000 = (b.2 + 0x28 + 8 * n - 1) / 0x8000 → v.viewHits b.1 b.2 (0x28 + 8 * n) = [] →
    (o.1 = b.1 → o.2 + 16 ≤ b.2 + 0x14 ∨ b.2 + 0x28 + 8 * n ≤ o.2) →
    ∃ t, exec (.tsuspend sa sb) s = .next t ∧ t.evt = .ended ∧ t.ctx.status = .idle ∧
      (ctl < 16 → ctl = x.ph → (x.pend ≠ 0 ∨ x.ptx ≠ 0) → t.getBar o = { x with wait := crewOffset b }) ∧
      (16 ≤ ctl → count = 0 → t.bankNat o 4 = crewOffset b ∧ t.bankNat (o.1, o.2 + 12) 4 = 0)) ∧
  (∀ (s u : State) (sa : BitVec 6) (a : Word) (b : Nat × Nat), s.ctx.pend.lq = [] → s.ctx.pend.stq = [] →
    s.core.arr.queue = [] → s.core.arr.repeat_ = none → s.clean.readS 7 sa = .ok (a, u) → u.object a = .ok b →
    let wait := u.bankNat b 4
    let count := u.bankNat (b.1, b.2 + 12) 4
    let w := crewPlace (crewOf b.1) wait
    (wait = 0 → count ≠ 0xFFFFFFFF → ∃ t, exec (.tsignal sa) s = .next t ∧ t.bankNat (b.1, b.2 + 12) 4 = count + 1 ∧
      t.bankNat b 4 = 0 ∧ t.ctx.r = s.ctx.r) ∧
    (wait ≠ 0 → ∃ t, exec (.tsignal sa) s = .next t ∧ t.ctx.r = s.ctx.r ∧
      (¬ (w.1 = b.1 ∧ b.2 ≤ w.2 + 0x1C ∧ w.2 + 0x1C < b.2 + 16) →
        t.bankNat (b.1, b.2 + 12) 4 = count ∧ t.bankNat b 4 = u.bankNat (w.1, w.2 + 0x14) 4)) ∧
    (wait = 0 → count = 0xFFFFFFFF → StopsWith (.tsignal sa) s (trapR cOVERRUN [a, 0, 0xFFFFFFFF]))) ∧
  ∀ (s u : State) (sa : BitVec 6) (v : Word), s.ctx.pend.lq = [] → s.ctx.pend.stq = [] →
    s.clean.readS 7 sa = .ok (v, u) →
    ((s.getPart s.ctx.part).credit < 64 →
      ∃ t, exec (.tnotify sa) s = .next t ∧ (t.getPart s.ctx.part).credit = (s.getPart s.ctx.part).credit + 1 ∧
        t.ctx.r = s.ctx.r ∧ t.out = s.out ++ [⟨0, 2 * s.ctx.part + 1, 0x05,
          [BitVec.ofNat 64 s.ctx.part, s.ctx.cr.taskid, BitVec.ofNat 64 s.cyc, v], 0⟩]) ∧
    (64 + Config.extraCredit ≤ (s.getPart s.ctx.part).credit → StopsWith (.tnotify sa) s .hold)

/-! What finishes by itself: results, waits, engines and memory (08 R155; 09 R188, R191; 10 R194 to R209; 11 R231 to
R233; 12 R254, R257; 14 R287, R291; 15 R300; 23 R363). -/

/-- R194 to R196, R201, R204, R155, R179, R363, R65, R68, R119, R403: an access or a result of a context that may be performed
is, where it is the only one of its kind that may: its data enters LDQ, its register, memory, the full/empty bits or a tile;
sd of an LD or an atomic takes its value, zero-extended or sign-extended; a fence's release acts; an element of a store that was
left to be translated is translated now, and where that fails the store stays and its fault stops the context. A load that is
not the oldest, or that finds no room in LDQ, keeps its data in its place of the queue. Poisoned data that would reach a
register or LDQ is consumed instead. A shadow that has counted its bundles lands. A line pad that is met moves the program
counter to the next line, and does what its end of a loop body does. -/
def Obligations.ResultsLand : Prop :=
  ∀ (s : State) (k : BitVec 8),
    let t := s.clean.focus (k.toNat / 4) (k.toNat % 4)
    let back := fun (u : State) => Host.Outcome.next (u.focus s.coreId s.ctxId)
    let only := fun (p : LoadKind → Bool) (o : LoadOp) => t.loadsReady.filter (fun x => p x.kind) = [o]
    (∀ o bs u, (t.modPend (fun p => p.dropLoad o)).readUnits o.units = (bs, false, u) →
      let enters := fun (es : List QEntry) =>
        ((∀ x ∈ u.ctx.pend.lq, o.seq < x.seq) → u.ctx.pend.ldq.length + es.length ≤ 64 →
          exec (.loadDataReturn k) s = back (u.modPend (fun p => { p with ldq := p.ldq ++ es }))) ∧
        ((∃ x ∈ u.ctx.pend.lq, x.seq ≤ o.seq) ∨ 64 < u.ctx.pend.ldq.length + es.length →
          ∃ v, exec (.loadDataReturn k) s = back v ∧ v.ctx.pend.ldq = u.ctx.pend.ldq ∧
            ⟨o.seq, .ready es, []⟩ ∈ v.ctx.pend.lq ∧ v.mem = u.mem ∧ v.core = u.core)
      (only LoadKind.queued o → o.kind = .queue →
        enters ((chunks 8 o.entries bs.flatten).map (fun b => QEntry.scalar (wordOf 64 b)))) ∧
      (∀ w n, only LoadKind.queued o → o.kind = .vector w n → enters (vectorEntries w n (bs.map ofBytes))) ∧
      (∀ sd, only LoadKind.scalar o → o.kind = .reg sd false →
        exec (.scoreboardResultWrite k) s = back (u.lateS o.seq sd (wordOf 64 bs.flatten))) ∧
      (∀ sd (v : Word), only LoadKind.scalar o → o.kind = .reg sd true → 0 < bs.flatten.length → bs.flatten.length ≤ 8 →
        (∀ i, i < 64 → v.getLsbD i = (wordOf 64 bs.flatten).getLsbD (min i (8 * bs.flatten.length - 1))) →
        exec (.scoreboardResultWrite k) s = back (u.lateS o.seq sd v)) ∧
      (∀ base, only (fun x => !x.queued && !x.scalar) o → o.kind = .tile base →
        firstFlight false t.ctx.pend.flight = none → exec (.xMoveComplete k) s =
          back { u with core := { u.core with tiles := asetN zeroByte u.core.tiles base bs.flatten } })) ∧
    (∀ o, only LoadKind.scalar o → (∀ u, t.performLoad o = some u → exec (.scoreboardResultWrite k) s = back u) ∧
      (t.performLoad o = none → exec (.scoreboardResultWrite k) s = back (t.consume (t.badPlace o.units)))) ∧
    (∀ o u bs, only LoadKind.queued o → o.kind = .queue →
      (t.modPend (fun p => p.dropLoad o)).readUnits o.units = (bs, true, u) →
      exec (.loadDataReturn k) s = back (t.consume (t.badPlace o.units))) ∧
    (∀ o, t.storesReady = [o] → o.late = [] →
      let u := t.modPend (fun p => p.dropStore o)
      let es := ((t.ctx.pend.storeData o).filterMap (fun e => e.data)).map QEntry.store
      (∀ bs, o.kind = .data bs → exec (.storePerform k) s = back (u.writeUnits o.units (bs.map (fun b => (b, true))))) ∧
      (∀ n, o.kind = .queue n → exec (.storePerform k) s =
        back (u.writeUnits o.units (es.flatten.take ((o.units.map Prod.snd).foldl (· + ·) 0)))) ∧
      (∀ w n, o.kind = .vector w n → exec (.storePerform k) s = back (u.writeUnits o.units es.flatten)) ∧
      (∀ scope, o.kind = .fence scope → exec (.storePerform k) s = back (u.releaseL1 scope)) ∧
      ∀ full, o.kind = .mark full → ∃ v, exec (.storePerform k) s = back v ∧ v.mem = u.mem ∧ v.ctx = u.ctx ∧ ∀ c w,
        ((∃ x n, (some (.sram c x), n) ∈ o.units ∧ x / 4 = w) → aget false (v.getCore c).fe w = full) ∧
        ((∀ x n, (some (.sram c x), n) ∈ o.units → x / 4 ≠ w) →
          aget false (v.getCore c).fe w = aget false (u.getCore c).fe w)) ∧
    (∀ o, t.storesReady = [o] →
      (∀ p v, t.lateUnits o o.late = .ok (p, v) → exec (.storePerform k) s = back (v.performStore p)) ∧
      ∀ e, t.lateUnits o o.late = .error e → exec (.storePerform k) s =
        back (if t.ctx.isReady || t.ctx.isBlocked then t.stopWith e else t)) ∧
    (∀ q f, firstFlight true t.ctx.pend.flight = some (q, .v f) → exec (.vSlotComplete k) s =
      back ((t.modPend (fun p => { p with flight := p.flight.filter (fun x => x.1 ≠ q) })).completeV q f)) ∧
    (∀ q f, firstFlight false t.ctx.pend.flight = some (q, .x f) → exec (.xMoveComplete k) s =
      back ((t.modPend (fun p => { p with flight := p.flight.filter (fun x => x.1 ≠ q) })).completeX q f)) ∧
    (∀ sh, t.ctx.pend.shadows = [sh] → t.canLand sh = true → exec (.shadowLand k) s =
      back ((t.modPend (fun p => { p with shadows := [] })).land sh)) ∧
    (∀ due q f rest, t.ctx.pend.reinject = (due, q, f) :: rest → due ≤ t.cycle → t.ctx.pend.paused = false → exec (.replayLand k) s =
      back ((t.modPend (fun p => { p with reinject := p.reinject.filter (fun x => x.2.1 ≠ q) })).complete q f)) ∧
    (∀ bs u, t.ctx.isReady = true → t.fetch = .ok (bs, u) → bs.length = 2 → ofBytes bs = 0 →
      let n := BitVec.ofNat 64 ((u.ctx.pc.toNat / 64 + 1) * 64)
      exec (.linePad k) s = back ((u.goOn n).forcedPoint ((advance u.ctx.loopsNow.levels n).2 ≠ n)) ∧
      ((u.getPart u.ctx.part).preState ≠ 1 → exec (.linePad k) s = back (u.goOn n)))

/-- R188, R191: the array performs its oldest drain, once the accesses that its context issued before it to the same bytes
are performed, and executes its active repeat once more; a fault of the repeat is taken as one of the bundle that carried
it, and a repeat that finds no room for its drain goes on later. -/
def Obligations.ArrayGoesOn : Prop :=
  ∀ (s : State) (c : BitVec 6),
    let back := fun (u : State) => Host.Outcome.next (u.focus s.coreId s.ctxId)
    (∀ k n op rest, (s.clean.getCore c.toNat).arr.queue = (k, n, op) :: rest → k / 4 = c.toNat →
      let t := s.clean.focus (k / 4) (k % 4)
      (t.drainTurn = true → ∃ u, exec (.arrayOperationComplete c) s = back u ∧
        u = (t.modArr (fun u => { u with queue := rest })).performDrain op ∧ u.core.arr.queue = rest) ∧
      (t.drainTurn = false → exec (.arrayOperationComplete c) s = back t) ∧
      ((∀ o ∈ t.ctx.pend.lq, n < o.seq) → (∀ o ∈ t.ctx.pend.stq, n < o.seq) → t.drainTurn = true)) ∧
    ∀ r, (s.clean.getCore c.toNat).arr.repeat_ = some r →
      let t := s.clean.focus (r.ctx / 4) (r.ctx % 4)
      (∀ u, t.mrun r.ls (Instr.repeated r.i) = .ok u → ∃ v, exec (.mrepReissue c) s = back v ∧
        v.core.arr.repeat_ = (if r.left ≤ 1 then none else some { r with i := Instr.repeated r.i, left := r.left - 1 }) ∧
        v.mem = u.mem ∧ v.core.tiles = u.core.tiles ∧ v.core.arr.acc = u.core.arr.acc) ∧
      (∀ code rec side, t.mrun r.ls (Instr.repeated r.i) = .error (.trap code rec side) → exec (.mrepReissue c) s =
        back ((t.modArr (fun u => { u with repeat_ := none })).takeTrap ⟨code, r.pc, rec⟩ .none)) ∧
      (t.mrun r.ls (Instr.repeated r.i) = .error .hold → exec (.mrepReissue c) s = back t)

/-- R52, R124, R127, R231, R233, R53: what ends a wait, with the result it leaves, and the trap of a spent slice. That a BUSED
beyond BUDGET counts as spent is the model's reading of R53 (log 43); that the event of a condition on a context that does not
wait changes nothing is its choice (log 67). -/
def Obligations.WaitsEnd : Prop :=
  ∀ (s : State) (k : BitVec 8) (n : Nat) (e : Bool) (w : Option Word),
    let t := s.clean.focus (k.toNat / 4) (k.toNat % 4)
    let back := fun (u : State) => Host.Outcome.next (u.focus s.coreId s.ctxId)
    let woken := fun (e : Bool) (w : Option Word) => 
      back ({ t with ctx := { t.ctx with status := .cleared n e w } }).claimIssue
    (t.ctx.status = .blocked n e w →
      exec (.blockClear k) s = woken e w ∧
      (∀ sa x u, t.waiting = [.sleepu sa] → t.readS 0 sa = .ok (x, u) → x.toNat ≤ s.cyc →
        exec (.sleepuTarget k) s = woken e w) ∧
      (∀ sd sa ph tmo a u b, t.waiting = [.bwait sd sa ph tmo] → t.readS 7 sa = .ok (a, u) → t.object a = .ok b →
        tmo ≠ 0 → tmo.toNat * 64 ≤ t.cycle - n → (t.getBar b).distance ph = 0 →
        exec (.bwaitTimeout k) s = woken true w) ∧
      (∀ sd sa x u, t.waiting = [.mwait sd sa] → t.readS 0 sa = .ok (x, u) → t.ctx.watch.st = .set → w = none →
        (x ≠ 0 → x.toNat ≤ t.cycle - n → exec (.mwaitTimeout k) s = woken e (some (t.ctx.watch.result 2))) ∧
        (x = 0 ∨ t.cycle - n < x.toNat → (t.getPart t.ctx.part).preState ≠ 1 →
          exec (.spuriousWake k) s = woken e (some (t.ctx.watch.result 4)))) ∧
      (∀ sa a u b, t.waiting = [.sleepb sa] → t.readS 7 sa = .ok (a, u) → t.object a = .ok b →
        (t.getBar b).prm = true → t.promiseDue (t.getBar b) = true → exec (.sleepbPromiseDue k) s =
          back (t.stopWith (trapR cCRAB [a, BitVec.ofNat 64 (t.getBar b).prom, BitVec.ofNat 64 (t.cyc % 2 ^ 32)])).nowReady)) ∧
    (t.ctx.isReady = true → t.ctx.mode = .user → t.ctx.cr.budget ≠ 0 → t.ctx.cr.budget.toNat ≤ t.ctx.cr.bused.toNat →
      let u := t.stopWith (trapR cBUDGET [t.ctx.cr.bused, t.ctx.cr.budget])
      exec (.budgetExhausted k) s = back (if u.core.selected = u.ctxId then u.selectNext else u)) ∧
    ((t.ctx.status = .ready ∨ t.ctx.status = .idle) → exec (.blockClear k) s = back t)

/-- R207 to R209, R211, R212, R215, R216, R220, R221, R300, R382, R271: the engines' events act on the command at the head
of its queue, on a ring and on a group slot. What a command's step moves, in a core's scratchpad that holds no view and no
poison: the bytes of an element of a COPY, or its conversion, or its combination with the destination; the table row that an
index names, for GATHER and, the other way, for SCATTER, with INDEX, the nearest row, or zeros and nothing, where it names
none; for a reducing SCATTER the contribution, and what applying it writes; zeros for ZEROM; a control word for HCWLD; a row of
a filter bank for FLOADM, zero beyond the set; one element of an NMOP and of an NMOPT in memory; the ring that SUBSCR forms; the
elements of a PUT as a message and those that a GET has received. NMFENCE has nothing to do at the head of its queue, and QFENCE
waits for earlier commands of its queues. The bytes of a page move with PMIG. Elements of a COPY that fill an aligned word of
SRAM, one behind the other, are written by one step; that a run is written so is the model's choice (log 50). So are the
words of the PUT and GET messages, the pieces of both (log 25) and that an event with nothing to do changes nothing (log 67). -/
def Obligations.EnginesGoOn : Prop :=
  (∀ (s : State) (c : BitVec 6) (q : BitVec 4) (d : Cmd) (rest : List Cmd),
    (s.clean.getCore c.toNat).queue q.toNat = d :: rest → (∀ q bar an slot, d.i ≠ .gload q bar an slot) →
    s.clean.mayStart (s.clean.partOf (crewOf c.toNat)) c.toNat q.toNat d = true →
    let t := s.clean.focus c.toNat (d.ctx % 4)
    let back := fun (u : State) => Host.Outcome.next (u.focus s.coreId s.ctxId)
    (∀ u d', d.wait = .none → t.cmdGo d (2 * d.items + 2) = (u, d', none) → d'.items ≤ d'.done → d'.wait = .none →
      exec (.commandComplete c q) s = back (u.completeCmd q.toNat d')) ∧
    (∀ u d' code, d.wait = .none → t.cmdGo d (2 * d.items + 2) = (u, d', some (.fault code)) →
      exec (.engineFault c q) s = back ((u.setQueue q.toNat (u.core.queue q.toNat).tail).faultCmd d' code)) ∧
    (∀ q' bar al ar peer op n data bad, d.i = .get q' bar al ar peer op n → ∀ port, d.wait = .farEnd port →
      let asked := min (2 ^ 18) (((d.sets.headD .reset).count - d.done) * (d.sets.headD .reset).size)
      let have_ := d.data.length + data.length
      have_ ≤ asked → exec (.getData c q data bad) s = back (t.setQueue q.toNat
        ({ d with
          wait := if have_ = asked then .none else .farEnd port, data := d.data ++ data,
          bads := d.bads ++ List.replicate data.length bad } :: (t.core.queue q.toNat).tail))) ∧
    (∀ q' bar al ar peer op n, d.i = .put q' bar al ar peer op n → ∀ port, d.wait = .farEnd port →
      (d.items ≤ d.done → exec (.farEndAck c q 0) s = back (t.completeCmd q.toNat { d with wait := .none })) ∧
      (d.done < d.items → exec (.farEndAck c q 0) s = back (t.setQueue q.toNat
        ({ d with wait := .none } :: (t.core.queue q.toNat).tail))) ∧
      exec (.farEndAck c q 1) s = back ((t.setQueue q.toNat (t.core.queue q.toNat).tail).faultCmd d cPAGE))) ∧
  (∀ (s : State) (p : BitVec 4) (req : BitVec 32) (c q : Nat) (d : Cmd) (rest : List Cmd) (frames : List (BitVec 64)),
    s.clean.frameWaiter p.toNat req.toNat = some (c, q) → (s.clean.getCore c).queue q = d :: rest →
    s.clean.mayStart (s.clean.partOf (crewOf c)) c q d = true →
    ∀ q' bar an tier pages, d.i = .pmig q' bar an tier pages →
    let t := s.clean.focus c (d.ctx % 4)
    let back := fun (u : State) => Host.Outcome.next (u.focus s.coreId s.ctxId)
    exec (.frameGrant p req true frames) s = back ((t.setQueue q (t.core.queue q).tail).faultCmd d cPROT) ∧
    (frames.length = pages.toNat → (∀ f ∈ frames, f.toNat % 65536 = 0 ∧ t.owns p.toNat f.toNat = true ∧
      tierOf f.toNat = tier.toNat) → exec (.frameGrant p req false frames) s =
        back (t.setQueue q ({ d with wait := .none, frames := frames.map BitVec.toNat } :: (t.core.queue q).tail)))) ∧
  (∀ (s : State) (c : BitVec 6) (ring : BitVec 4) (d : Cmd),
    let r := (s.clean.getCore c.toNat).ring ring.toNat
    r.cmd = some d → d.wait = .none → r.ended = false → r.slots ≠ [] →
    (∀ q bar an n k first cnt slot, d.i = .subscr q bar an n k first cnt slot →
      (s.clean.getCore c.toNat).subscribed q.toNat d.stamp = false) →
    r.slots.getD (r.next % r.slots.length) .done = .free → ∃ t, exec (.riggerFill c ring) s = .next t ∧
      ((t.getCore c.toNat).ring ring.toNat).slots = r.slots.set (r.next % r.slots.length) .filling) ∧
  (∀ (s : State) (c : BitVec 6) (slot : BitVec 2),
    let g := aget GroupSlot.reset (s.getCore c.toNat).groups slot.toNat
    g.st = .validating → g.bytes ≠ [] → (s.getCore c.toNat).gloading slot.toNat = false → g.loader = none →
    ∃ t, exec (.groupValidation c slot) s = .next t ∧
      aget GroupSlot.reset (t.getCore c.toNat).groups slot.toNat = g.validate ∧
      (g.validate.st = .valid ∨ g.validate.st = .failed)) ∧
  -- the places of a nest set, and the operations on elements
  (∀ (n : NestSet) (i : Nat → Nat), (∀ d, d < 6 → i d < n.boundAt d) →
    let b := n.boundAt
    n.offset (i 0 + b 0 * (i 1 + b 1 * (i 2 + b 2 * (i 3 + b 3 * (i 4 + b 4 * i 5))))) =
      ((List.range 6).map (fun d => (i d : Int) * n.strideAt d)).sum) ∧
  (∀ (ty : Nat) (t : IntFmt) (x y : Nat), typeClass ty = some (.int t) → x < 2 ^ t.width → y < 2 ^ t.width →
    elemCombine ty 2 x y = (x + y) % 2 ^ t.width ∧
    t.decode (elemCombine ty 3 x y) = max (t.decode x) (t.decode y) ∧
    t.decode (elemCombine ty 4 x y) = min (t.decode x) (t.decode y) ∧ elemCombine ty 5 x y = x ||| y) ∧
  (∀ x y, elemCombine 0x0C 2 x y = (rne32 (FVal.add 0 (fmtFP32.decode x) (fmtFP32.decode y)).1).1) ∧
  -- what a step of a command moves
  (∀ (s : State) (c : Cmd) (j : Nat), s.ctx.views = [] → s.core.poison = [] →
    let n := c.sets.headD .reset
    let d := c.sets.getD 1 .reset
    let a := fun k => c.aregs.getD k 0
    let w := n.boundAt 0
    let old := fun o k => agetN zeroByte s.core.sram o k
    let writes := fun (o : Nat) (bs : List Byte) => ∃ t c', s.cmdItem c j = .ok (t, c') ∧ s.sramBecomes t o bs
    let index := fun (oi : Nat) => if j % w = 0 then (⟨32, true⟩ : IntFmt).decode (ofBytes (old oi 4)) else c.index
    let clamp := fun (i : Int) => if i < 0 then 0 else n.boundAt 2 - 1
    (∀ q bar n1 n2 r1 r2 op o1 o2, c.i = .copy q bar n1 n2 r1 r2 op → s.ownUnit (n.at (a 0) j) n.size o1 →
      s.ownUnit (d.at (a 1) j) d.size o2 →
      (op.toNat % 32 = 0 → n.elem = d.elem → writes o2 (old o1 n.size)) ∧
      (op.toNat % 32 = 1 →
        writes o2 (toBytes (cvtElem n.elem.toNat d.elem.toNat c.fmt (ofBytes (old o1 n.size))) d.size)) ∧
      (2 ≤ op.toNat % 32 → n.elem = d.elem → writes o2 (toBytes (elemCombine d.elem.toNat (op.toNat % 32)
        (ofBytes (old o2 n.size)) (ofBytes (old o1 n.size))) n.size))) ∧
    (∀ q bar ns at_ ai ad mode op oi o2, c.i = .gather q bar ns at_ ai ad mode op → c.indexBad = false → c.fetched = [] →
      (j % w = 0 → s.ownUnit (a 1 + BitVec.ofNat 64 (4 * (j / w))) 4 oi) →
      s.ownUnit (a 2 + BitVec.ofNat 64 (j * n.size)) n.size o2 →
      let i := index oi
      let row := fun (r : Nat) => ∀ o1, s.ownUnit (n.inRow (a 0) r (j % w)) n.size o1 → writes o2 (old o1 n.size)
      (0 ≤ i → i < n.boundAt 2 → row i.toNat) ∧
      (¬ (0 ≤ i ∧ i < n.boundAt 2) → (mode = 0 → s.cmdItem c j = .error (.fault cINDEX)) ∧
        (mode = 1 → n.boundAt 2 ≠ 0 → row (clamp i)) ∧ (2 ≤ mode.toNat → writes o2 (List.replicate n.size 0)))) ∧
    (∀ q bar ns at_ ai ad mode oi o1, c.i = .scatter q bar ns at_ ai ad mode 0 → c.indexBad = false →
      (j % w = 0 → s.ownUnit (a 1 + BitVec.ofNat 64 (4 * (j / w))) 4 oi) →
      s.ownUnit (a 2 + BitVec.ofNat 64 (j * n.size)) n.size o1 →
      let i := index oi
      let row := fun (r : Nat) => ∀ o2, s.ownUnit (n.inRow (a 0) r (j % w)) n.size o2 → writes o2 (old o1 n.size)
      (0 ≤ i → i < n.boundAt 2 → row i.toNat) ∧
      (¬ (0 ≤ i ∧ i < n.boundAt 2) → (mode = 0 → s.cmdItem c j = .error (.fault cINDEX)) ∧
        (mode = 1 → n.boundAt 2 ≠ 0 → row (clamp i)) ∧ (2 ≤ mode.toNat → writes 0 []))) ∧
    (∀ q bar an lines o, c.i = .zerom q bar an lines → s.ownUnit (a 0 + BitVec.ofNat 64 (128 * j)) 128 o →
      writes o (List.replicate 128 0)) ∧
    (∀ q bar an first cnt o, c.i = .hcwld q bar an first cnt → s.ownUnit (a 0 + BitVec.ofNat 64 (32 * j)) 32 o →
      (∀ f, s.modCmdCtx s.myPart c f = { s with ctx := f s.ctx }) →
      ∃ t, s.cmdItem c j = .ok (t, c) ∧ aget 0 t.ctx.hcw (first.toNat + j) = wordOf 256 (old o 32) ∧
        aget false t.ctx.hcwGood (first.toNat + j) = hcwOk (wordOf 256 (old o 32)) ∧
        ∀ k, k ≠ first.toNat + j → aget 0 t.ctx.hcw k = aget 0 s.ctx.hcw k) ∧
    (∀ q bar an ns bank o, c.i = .floadm q bar an ns bank → n.size ≤ 2 → j % n.filterCols + 1 = n.filterCols →
      c.data.length = (n.filterCols - 1) * n.size →
      s.ownUnit (n.inRow (a 0) (j / n.filterCols) (j % n.filterCols)) n.size o → j / n.filterCols < 128 →
      ∃ t c', s.cmdItem c j = .ok (t, c') ∧
        (∀ k, k < 128 → t.core.arr.filterCode bank.toNat (j / n.filterCols) k =
          if k < n.filterCols then ofBytes (((c.data ++ old o n.size).drop (k * n.size)).take n.size) else 0) ∧
        ∀ b r k, r < 128 → k < 128 → ¬ (b = bank.toNat ∧ r = j / n.filterCols) →
          t.core.arr.filterCode b r k = s.core.arr.filterCode b r k) ∧
    (∀ q bar l r peer ns o port rpart rbar log x, c.i = .put q bar l r peer 0 ns → n.count = j + 1 →
      s.ownUnit (n.at (a 0) j) n.size o → (∀ b ∈ c.bads, b = false) →
      aget [] (s.getPart s.myPart).routes peer.toNat = [port, rpart, rbar, log, x] → (s.getPort port).st ≠ 0 →
      let data := c.data ++ old o n.size
      s.cmdItem c j = .ok (s.post port (2 * s.myPart) 0x0A
        ([BitVec.ofNat 64 rpart, BitVec.ofNat 64 s.myPart, s.cmdTag c q, 0,
          n.elem.zeroExtend 64] ++ n.originWords ++
          [a 1 + BitVec.ofNat 64 (n.count * n.size - data.length), BitVec.ofNat 64 c.anum, BitVec.ofNat 64 rbar,
            BitVec.ofNat 64 log, BitVec.ofNat 64 data.length, 0, BitVec.ofNat 64 (n.count * n.size)] ++ wordsOf data),
        { c with wait := .farEnd port, data := [], bads := [] })) ∧
    (∀ q bar l r peer ns o, c.i = .get q bar l r peer 0 ns → s.ownUnit (n.at (a 0) j) n.size o →
      n.size ≤ c.data.length → (∀ b ∈ c.bads, b = false) → writes o (c.data.take n.size)) ∧
    -- a run of elements that fills a word
    (∀ q bar n1 n2 r1 r2 op k o2 (o1 : Nat → Nat), c.i = .copy q bar n1 n2 r1 r2 op → op.toNat % 32 = 0 → n.elem = d.elem →
      (n.size = 1 ∧ k = 4 ∨ n.size = 2 ∧ k = 2) → j + k ≤ c.items → o2 % 4 = 0 →
      (∀ i, i < k → s.ownUnit (n.at (a 0) (j + i)) n.size (o1 i) ∧ s.ownUnit (d.at (a 1) (j + i)) d.size (o2 + i * n.size) ∧
        (o1 i + n.size ≤ o2 ∨ o2 + 4 ≤ o1 i)) →
      ∃ t, s.cmdStep c j = .ok (t, c, j + k) ∧
        s.sramBecomes t o2 ((List.range k).flatMap (fun i => old (o1 i) n.size))) ∧
    -- a reducing SCATTER holds its last contribution; a contribution is applied
    (∀ q bar ns r1 r2 r3 mode op oi o1 o2, c.i = .scatter q bar ns r1 r2 r3 mode op → op ≠ 0 → c.indexBad = false →
      j + 1 = w * n.boundAt 1 → (j % w = 0 → s.ownUnit (a 1 + BitVec.ofNat 64 (4 * (j / w))) 4 oi) →
      0 ≤ index oi → index oi < n.boundAt 2 → s.ownUnit (a 2 + BitVec.ofNat 64 (j * n.size)) n.size o1 →
      let dst := n.inRow (a 0) (index oi).toNat (j % w)
      s.ownUnit dst n.size o2 → ∃ t c', s.cmdItem c j = .ok (t, c') ∧ c'.held = c.held ++ [(dst, old o1 n.size, false)] ∧
        t.core = s.core ∧ t.mem = s.mem) ∧
    (∀ q bar ns r1 r2 r3 mode op va bs o, c.i = .scatter q bar ns r1 r2 r3 mode op → s.ownUnit va bs.length o →
      ∃ t, s.applyHeld c (va, bs, false) = .ok t ∧ s.sramBecomes t o (toBytes (elemCombine n.elem.toNat op.toNat
        (ofBytes (old o bs.length)) (ofBytes bs)) bs.length)) ∧
    (∀ q bar k, c.i = .nmfence q bar → c.items = 0 ∧ s.cmdRun c k = (s, c, none)) ∧
    (∀ q bar mask, c.i = .qfence q bar mask →
      let earlier := fun (k : Nat) (x : Cmd) => x.stamp < c.stamp ∧ k ≠ q.toNat ∧ mask.toNat.testBit k = true
      (s.cmdItem c j = .ok (s, c) ∨ s.cmdItem c j = .error .wait) ∧
      (s.cmdItem c j = .error .wait ↔ (∃ k l x, (k, l) ∈ s.core.eq ∧ x ∈ l ∧ earlier k x) ∨
        ∃ r x q' b' an m ri f cn sl, r ∈ s.core.rings ∧ r.2.cmd = some x ∧ x.i = .subscr q' b' an m ri f cn sl ∧
          earlier q'.toNat x)) ∧
    ∀ q bar an ns ring first cnt slot, c.i = .subscr q bar an ns ring first cnt slot →
      (s.core.ring ring.toNat).active = false →
      let fit := (∀ b, first.toNat ≤ b → b < first.toNat + cnt.toNat → s.core.modeAt (b * 0x8000) = .fifo ∧
        aget 0 s.core.bankRing b = ring.toNat) ∧ slot ≠ 0 ∧ slot.toNat * 128 ≤ cnt.toNat * 32768
      let total := n.count * n.size
      (¬ fit → s.cmdItem c j = .error (.fault cILLI)) ∧
      (fit → (a 0).toNat % n.size ≠ 0 → s.cmdItem c j = .error (.fault cALIGN)) ∧
      (fit → (a 0).toNat % n.size = 0 → ∃ t, s.cmdItem c j = .ok (t, c) ∧ t.mem = s.mem ∧ t.core.sram = s.core.sram ∧
        let x := t.core.ring ring.toNat
        x.active = true ∧ x.first = first.toNat ∧ x.banks = cnt.toNat ∧ x.slotBytes = slot.toNat * 128 ∧ x.src = a 0 ∧
        x.set = n ∧ x.total = total ∧ x.slots = List.replicate (cnt.toNat * 32768 / (slot.toNat * 128))
          (if total = 0 then .done else .free) ∧ x.cmd = if total = 0 then none else some c)) ∧
  -- an optimiser step of a parameter
  (∀ (h : Nat → Nat) (p g m v : Nat),
    optimise 0 h p g m v = (f32Sub p (f32Mul (h 0) g), m, v) ∧
    (let m' := f32Add (f32Mul (h 1) m) g
     optimise 1 h p g m v = (f32Sub p (f32Mul (h 0) m'), m', v)) ∧
    (let m' := f32Add (f32Mul (h 1) m) (f32Mul (f32Sub f32One (h 1)) g)
     let v' := f32Add (f32Mul (h 2) v) (f32Mul (f32Mul (f32Sub f32One (h 2)) g) g)
     optimise 2 h p g m v = (f32Sub p (f32Mul (h 0) (f32Add (f32Div (f32Mul (h 5) m')
       (f32Add (f32Sqrt (f32Mul (h 6) v')) (h 3))) (f32Mul (h 4) p))), m', v')) ∧
    f32Add p g = (rne32 (FVal.add 0 (fmtFP32.decode p) (fmtFP32.decode g)).1).1 ∧
    f32Sub p g = (rne32 (FVal.add 0 (fmtFP32.decode p) (fmtFP32.decode g).neg).1).1 ∧
    f32Mul p g = (rne32 (FVal.mul (fmtFP32.decode p) (fmtFP32.decode g)).1).1 ∧
    f32Div p g = (rne32 (FVal.div (fmtFP32.decode p) (fmtFP32.decode g))).1 ∧
    f32Sqrt p = (rne32 (FVal.sqrt (fmtFP32.decode p))).1) ∧
  (∀ (s u v : State) (c : Cmd) (j pp pg : Nat) (q : BitVec 4) bar ap ag am alg cnt x y, c.i = .nmopt q bar ap ag am alg cnt →
    let o := BitVec.ofNat 64 (4 * j)
    let a := fun k => c.aregs.getD k 0
    let rd := fun (t : State) (l : Nat) => ofBytes (agetN zeroByte t.mem l 4)
    let holds := fun (t : State) (l val : Nat) => agetN zeroByte t.mem l 4 = toBytes val 4
    let apart := fun (x y : Nat) => x + 4 ≤ y ∨ y + 4 ≤ x
    let outside := fun (ls : List Nat) (i : Nat) => ∀ l ∈ ls, i < l ∨ l + 4 ≤ i
    s.nmLoc (a 0 + o) 4 = .ok (.phys pp true x, u) → u.nmRead (a 1 + o) 4 = .ok (.phys pg true y, v) →
    (alg = 0 → ∃ t, s.cmdItem c j = .ok (t, c) ∧
      holds t pp (optimise 0 (headerWord c.data) (rd v pp) (rd v pg) 0 0).1 ∧
      ∀ i, outside [pp] i → aget zeroByte t.mem i = aget zeroByte v.mem i) ∧
    ∀ w pm z, v.nmLoc (a 2 + 64 + o) 4 = .ok (.phys pm true z, w) → apart pp pm →
      (alg = 1 → ∃ t, s.cmdItem c j = .ok (t, c) ∧
        let r := optimise 1 (headerWord c.data) (rd w pp) (rd w pg) (rd w pm) (rd w pm)
        holds t pp r.1 ∧ holds t pm r.2.1 ∧ ∀ i, outside [pp, pm] i → aget zeroByte t.mem i = aget zeroByte w.mem i) ∧
      ∀ w' pv z', w.nmLoc (a 2 + 64 + BitVec.ofNat 64 (4 * (128 * cnt.toNat)) + o) 4 = .ok (.phys pv true z', w') →
        apart pp pv → apart pm pv → alg = 2 → ∃ t, s.cmdItem c j = .ok (t, c) ∧
        let r := optimise 2 (headerWord c.data) (rd w' pp) (rd w' pg) (rd w' pm) (rd w' pv)
        holds t pp r.1 ∧ holds t pm r.2.1 ∧ holds t pv r.2.2 ∧
        ∀ i, outside [pp, pm, pv] i → aget zeroByte t.mem i = aget zeroByte w'.mem i) ∧
  (∀ (s u : State) (c : Cmd) (q : BitVec 4) bar ns r1 r2 r3 op ix (va : Word) (bs : List Byte) bad pa page,
    c.i = .nmop q bar ns r1 r2 r3 op ix → s.nmLoc va bs.length = .ok (.phys pa true page, u) →
    ∃ t, s.applyHeld c (va, bs, bad) = .ok t ∧ agetN zeroByte t.mem pa bs.length =
        toBytes (elemCombine (c.sets.headD .reset).elem.toNat (if op.toNat ≤ 2 then 2 else op.toNat)
          (ofBytes (agetN zeroByte u.mem pa bs.length)) (ofBytes bs)) bs.length ∧
      ∀ x, x < pa ∨ pa + bs.length ≤ x → aget zeroByte t.mem x = aget zeroByte u.mem x) ∧
  ∀ (m : List (Nat × Byte)) (old new n : Nat), Memory.wf m = true →
    (∀ i, i < n → aget zeroByte (moveRange m old new n) (new + i) = aget zeroByte m (old + i)) ∧
    ∀ x, x < new ∨ new + n ≤ x → aget zeroByte (moveRange m old new n) x = aget zeroByte m x

/-- R254, R257, R259, R287, R291: a line crosses the network in the flits of its mode and arrives as it was; a probe and the
end of HOT change tags only; a die applies the one write it may apply; the host writes and reads memory as its home die holds
it, and is refused where there is none. The words of the host's answer and its kind 0x100 are the model's choice (log 25); so is
it that a probe with nothing to do changes nothing (log 67). -/
def Obligations.FabricEvents : Prop :=
  (∀ (raw : Bool) (x : List Byte), x.length = 128 → crossLine raw x = x ∧
    (linePayload (lineMode raw x) x).length = 32 * (lineMode raw x).flits) ∧
  (∀ (s : State) (d : BitVec 2) (line : BitVec 41) (g : L2Tag), afind (s.getDie d.toNat).tags line.toNat = some g →
    (g.dirty = true → g.kind = .own → g.hot = false → g.dd = true → s.cyc - g.idle ≥ 2048 →
      (∀ x, afind (s.getDie d.toNat).entries g.entry = some x → x.hv = false) →
      exec (.dedupProbe d line) s = .next (s.clean.probe d.toNat line.toNat)) ∧
    (g.hot = true → g.dirty = false → s.cyc - g.idle ≥ 8192 → ∃ t, exec (.hotClear d line) s = .next t ∧
      afind (t.getDie d.toNat).tags line.toNat = some { g with hot := false } ∧ t.mem = s.mem) ∧
    (s.cyc - g.idle < 2048 → exec (.dedupProbe d line) s = .next s.clean)) ∧
  (∀ (s : State) (d line : Nat), (s.probe d line).mem = s.mem ∧
    ∀ e pa, (s.probe d line).dieByte e pa = s.dieByte e pa) ∧
  (∀ (s : State) (d : BitVec 2) (w : ModWrite), (s.getDie d.toNat).inbox.filter (s.clean.applicable d.toNat) = [w] →
    exec (.moduleWriteApply d) s = .next (s.clean.applyWrite d.toNat w)) ∧
  (∀ (s : State) (write : Bool) (addr : BitVec 48) (size : Nat) (data : List (BitVec 8)),
    (s.recovery = true → exec (.hostMemoryAccess write addr size data) s =
      .next (s.clean.send 0x100 [addr.zeroExtend 64, 0x42])) ∧
    (s.recovery = false → s.berthOf addr.toNat = none → exec (.hostMemoryAccess write addr size data) s =
      .next (s.clean.send 0x100 [addr.zeroExtend 64, 1]))) ∧
  (∀ (s : State) (addr : BitVec 48) (size : Nat) (data : List (BitVec 8)), s.recovery = false → data ≠ [] →
    (s.berthOf addr.toNat).isSome →
    (s.berthOf (addr.toNat + data.length - 1)).isSome →
    (∀ i, i < data.length → afind (s.getDie (homeDie (addr.toNat + i))).own (addr.toNat + i) = none) →
    ∃ t, exec (.hostMemoryAccess true addr size data) s = .next t ∧ ∀ i, i < data.length →
      t.dieByte (homeDie (addr.toNat + i)) (addr.toNat + i) = data.getD i 0) ∧
  ∀ (s : State) (addr : BitVec 48) (size : Nat), s.recovery = false → size ≠ 0 → (s.berthOf addr.toNat).isSome →
    (s.berthOf (addr.toNat + size - 1)).isSome → s.clean.poisoned (.phys addr.toNat false .none) size = false →
    exec (.hostMemoryAccess false addr size []) s = .next (s.clean.send 0x100 ([addr.zeroExtend 64, 0] ++
      (List.range size).map (fun i => (s.dieByte (homeDie (addr.toNat + i)) (addr.toNat + i)).zeroExtend 64)))

/-! The cox, the host, pre-emption, the links, starts and errors (07 R132; 19 R336; 22 R350 to R357; 23 R365 to R373; 24
R381 to R385; 25 R391 to R398; 27 R401 to R407; 28 R408 to R415). -/

/-- R350, R353, R354, R56, R365, R380, R132, R336, R337, R333, R341: a root task is accepted or refused with its status; a chosen
task starts, with the registers, queues and windows that R56 gives it; the views of a family fold in the order of its children,
element by element, and join into the tile once all have, with the view table and the arrival; the host's replies let go on what waits, or end it: a context that a save holds becomes ready and issues nothing yet, and one that
a save waits for stands at its save point. That RESUME drops every translation of the partition is the model's choice (log
81: R380 asks only that the access that faulted walks again); so are the order in which a root's refusals are tested (log 69), that
a start while a save is under way changes nothing (log 67), that a context which a save waits for stands at its save point (log
76), that RESUME repeats the part at which its access stopped (log 47), and the completion's words (log 25). -/
def Obligations.CoxEvents : Prop :=
  (∀ (s : State) (p queue : BitVec 4) (crews : BitVec 16) (tag : BitVec 64) (rec : BitVec 512),
    let q := s.getPart p.toNat
    let refused := fun (status : Nat) => exec (.rootTask p queue crews tag rec) s =
      .next (s.clean.sendCompletion p.toNat tag 0 status 0)
    let fits := crews ≠ 0 ∧ crews.toNat &&& q.berths = crews.toNat
    let open_ := (aget 1 q.tqcfg queue.toNat).testBit 0 = true
    (s.recovery = true → refused 0x42) ∧
    (s.recovery = false → q.formed = true → ¬ fits → refused 0x43) ∧
    (s.recovery = false → q.formed = true → fits → ¬ open_ → refused 0x44) ∧
    (s.recovery = false → q.formed = true → fits → open_ → q.freeEntry = none → refused 0x41) ∧
    (s.recovery = false → q.formed = true → fits → open_ → ∀ k id, q.freeEntry = some (k, id) → k < 0x4000 →
      let job := jobOf (bytesOf rec)
      (∀ status, job.refused true = some status → refused status) ∧
      (job.refused true = none → ∃ t x, exec (.rootTask p queue crews tag rec) s = .next t ∧
        afind (t.getPart p.toNat).tasks k = some x ∧ x.id = id ∧ x.job = job ∧ x.tag = some tag ∧ x.parent = none ∧
        x.queue = queue.toNat ∧ x.crews = crews.toNat ∧ x.st = .ready ∧
        x.deadline = if job.deadline = 0 then BitVec.allOnes 64 else job.deadline))) ∧
  (∀ (s : State) (k : BitVec 8),
    let p := s.clean.partOf (k.toNat / 16)
    let q := s.getPart p
    (q.preState ≠ 0 ∨ q.hvState ≠ 0 → exec (.taskStart k) s = .next s.clean) ∧
    (q.preState = 0 → q.hvState = 0 → s.clean.nextFree p (k.toNat / 16) = some k.toNat → ∀ r t,
      s.clean.choice p k.toNat = (r, some t) → exec (.taskStart k) s =
        .next (((s.clean.setPart p r).onCtx k.toNat (fun s => s.startTask p t)).modPart p Part.turnOver))) ∧
  (∀ (u : State) (m : Nat) (t : Task), t.cont = none → t.job.hcwtab = 0 → t.job.vwin ≤ 12 → t.job.tiles ≤ 16 →
    let v := u.startTask m t
    let c := v.ctx
    (∀ k, aget 0 c.r.s k = 0 ∧ aget 0 c.r.a k = if k = 0 then t.job.arg else 0) ∧ c.r.vl = 0 ∧ c.r.vtype = 0 ∧ c.r.stat = 0 ∧
    c.r.lscale = 0 ∧ c.r.seed = 0 ∧ c.r.fmt = 0x080C ∧ c.cr.mfp0 = 0x108 ∧ c.cr.mfp1 = 0x108 ∧
    (∀ k, aget 0x7FFE0 c.cr.tshape k = 0x7FFE0) ∧ c.cr.trapvec = 0 ∧ c.cr.trapcause = 0 ∧ c.cr.trappc = 0 ∧
    c.cr.trapinfo = 0 ∧ c.cr.rqcount = 0 ∧ c.mode = .user ∧ c.pc = t.job.entry ∧ c.pend.ldq = [] ∧ c.pend.sdq = [] ∧
    c.pend.lq = [] ∧ c.pend.stq = [] ∧ c.streams = [] ∧ c.loops.levels = [] ∧ c.hist = [] ∧
    c.cr.taskid = BitVec.ofNat 64 t.id ∧ c.cr.deadl = t.deadline ∧ c.cr.budget = t.job.budget ∧
    vwinSize c.cr.vwin = 32 * t.job.vwin ∧ twinCount c.cr.twin = t.job.tiles ∧
    (∀ r, r < 32 * t.job.vwin → let x := vwinBase c.cr.vwin + r
      v.getV x = if aget none u.core.vlast x = some m then u.getV x else 0) ∧
    ∀ k i, k < t.job.tiles → i < 16384 → let x := twinBase c.cr.twin + k
      aget zeroByte v.core.tiles (x * 16384 + i) =
        if aget none u.core.tlast x = some m then aget zeroByte u.core.tiles (x * 16384 + i) else 0) ∧
  (∀ (s u : State) (p : BitVec 4) (task : BitVec 32), (s.getPart p.toNat).hvState = 0 →
    s.clean.foldStep p.toNat task.toNat = some u → exec (.viewFold p task) s = .next u) ∧
  -- the order of a fold, and its join
  (∀ (u : State) (m parent : Nat) (task : Task), (u.getPart m).task? parent = some task →
    (u.foldStep m parent = none ↔ ∀ i f, task.families[i]? = some f → u.foldMoves m (i = 0) f = [])) ∧
  (∀ (u : State) (m : Nat) (first : Bool) (f : Family),
    let moves := u.foldMoves m first f
    let goes := fun (k : Nat) (x : SlotFold) => (k, x) ∈ f.live ∧ x.paused = false ∧ x.joined = false
    (∀ t, .first t ∈ moves → f.folded = 0 ∧ (f.members[0]?).bind (u.childDone m) = some t) ∧
    (∀ t k x, .slot t k x ∈ moves → goes k x ∧ (f.members[x.members]?).bind (u.childDone m) = some t) ∧
    (∀ t, .done t ∈ moves → (f.members[f.folded]?).bind (u.childDone m) = some t ∧
      ∀ k x, (k, x) ∈ f.live → f.folded < x.members) ∧
    (∀ k x, .join k x ∈ moves → goes k x ∧ x.members = f.members.length ∧ first = true ∧ f.closed = true) ∧
    (.finish ∈ moves → first = true ∧ f.closed = true ∧ f.folded = f.members.length ∧
      ∀ k x, (k, x) ∈ f.live → x.joined = true)) ∧
  (∀ (u : State) (m n : Nat) (t : Task), u.childDone m n = some t ↔ (u.getPart m).task? n = some t ∧
    (∃ st d, t.st = .finished st d) ∧ t.families = [] ∧ u.hasCommands m n = false) ∧
  (∀ (u : State) (m : Nat) (f : Family) (t : Task), t.isDiscarded = false → let g := (u.foldFirst m f t).2
    g.acc = t.views ∧ g.firstDescs = t.views.map (fun v => (v.1, v.2.desc)) ∧ g.folded = f.folded + 1 ∧
      g.steps = t.views.map (fun v => (v.1, ⟨1, 0, false, false⟩))) ∧
  (∀ (u : State) (m : Nat) (f : Family) (t : Task) (k : Nat) (x : SlotFold) (acc v : View),
    afind f.acc k = some acc → afind t.views k = some v → acc.backing = none → v.backing = none → t.isDiscarded = false →
    (afind f.firstDescs k ≠ some v.desc → u.foldSlot m f t k x = (u, f.abandon k (x.members + 1), none)) ∧
    (afind f.firstDescs k = some v.desc → acc.desc = v.desc → 0 < acc.desc.width → ∃ t' g a,
      u.foldSlot m f t k x = (t', g, none) ∧ afind g.acc k = some a ∧ a.desc = acc.desc ∧ a.backing = none ∧
      afind g.steps k = some { x with members := x.members + 1, elem := 0 } ∧
      ∀ e, u.elem m a e = if x.elem ≤ e ∧ e < acc.desc.count then
          if acc.desc.op = 7 then if acc.isWritten e = false ∧ v.isWritten e = true then u.elem m v e else u.elem m acc e
          else (acc.desc.combine (u.elem m acc e) (u.elem m v e)).1 % 256 ^ acc.desc.width
        else u.elem m acc e)) ∧
  (∀ (d : ViewDesc) (t : IntFmt) (x y : Nat), typeClass d.type = some (.int t) →
    (d.op = 0 → (d.combine x y).1 = t.encode (t.decode x + t.decode y)) ∧
    (d.op = 1 → (d.combine x y).1 = t.encode (t.decode x * t.decode y)) ∧
    (d.op = 2 → (d.combine x y).1 = if t.decode x ≤ t.decode y then x else y) ∧
    (d.op = 3 → (d.combine x y).1 = if t.decode x ≤ t.decode y then y else x) ∧
    (d.op = 4 → (d.combine x y).1 = x &&& y) ∧ (d.op = 5 → (d.combine x y).1 = x ||| y) ∧
    (d.op = 6 → (d.combine x y).1 = x ^^^ y)) ∧
  (∀ (u : State) (m parent : Nat) (f : Family) (k e : Nat) (acc : View),
    let d := acc.desc
    let off := d.range + e * d.width
    let b := crewPlace f.crew off
    let r := d.combine (u.bankNat b d.width) (u.elem m acc e)
    acc.backing = none → acc.gives e = true →
    (∀ x ∈ u.taskViews m parent, ¬ (x.2.desc.range ≤ off ∧ off < x.2.desc.range + x.2.desc.len)) →
    (u.scratchAt b = false → u.joinElem m parent f k e acc = (u, { f with bad := aput f.bad k true }, none)) ∧
    (u.scratchAt b = true → ∃ t, u.joinElem m parent f k e acc = (t, f.raise k (if d.op = 7 then 0 else r.2), none) ∧
      t.mem = u.mem ∧ t.bankNat b d.width = (if d.op = 7 then u.elem m acc e else r.1) % 256 ^ d.width)) ∧
  (∀ (u : State) (m parent : Nat) (f : Family),
    let t := u.finishJoin m parent f
    let b := crewPlace f.crew f.join
    let x := u.getBar b
    (f.vtab ≠ 0 → f.vtab % 4 = 0 → f.join = 0xFFFFFFFF → ∀ k, k < 8 →
      let at_ := crewPlace f.crew (f.vtab + 4 * k)
      let word := t.bankNat at_ 4
      inCrew (f.vtab + 4 * k) = true → u.scratchAt at_ = true →
      word % 256 = (if (afind f.abandoned k).isSome then 2 else if (afind f.firstDescs k).isNone then 0
        else if aget false f.bad k then 3 else 1) ∧
      word / 256 = (if aget false f.disc k then 1 else 0) + (aget 0 f.flags k).toNat * 256) ∧
    (f.vtab = 0 → f.join ≠ 0xFFFFFFFF → inCrew f.join = true → u.scratchAt b = true →
      (x.pend = 0 → t.getBar b = { x with ovr := true }) ∧
      (x.pend ≠ 0 → x.pend ≠ 1 ∨ x.ptx ≠ 0 → t.getBar b = { x with pend := x.pend - 1 }))) ∧
  (∀ (s : State) (p : BitVec 4) (n k : Nat) (cause : BitVec 8),
    afind (s.getPart p.toNat).faults n = some (cause, .context k) →
    let t := (s.clean.modPart p.toNat (fun q => { q with faults := adel q.faults n })).dropTlbs p.toNat (fun _ _ => true)
    let c := t.focus (k / 4) (k % 4)
    let kept := afind (c.getPart c.ctx.part).saved c.here
    let back := fun (u : State) => Host.Outcome.next (u.focus s.coreId s.ctxId)
    (c.ctx.status = .hostWait none → c.ctx.startLoad = none →
      (kept.isSome → exec (.resume p n) s = back { c with ctx := { c.ctx with status := .ready } }) ∧
      (kept = none → c.savePending = false →
        exec (.resume p n) s = back ({ c with ctx := { c.ctx with status := .ready } }).claimIssue) ∧
      (kept = none → c.savePending = true →
        exec (.resume p n) s = back { c with ctx := { c.ctx with status := .saving none } })) ∧
    ∀ f, c.ctx.status = .hostWait (some f) → exec (.resume p n) s = back (c.finishEntry f).nowReady) ∧
  (∀ (s : State) (p : BitVec 4) (n k : Nat) (cause : BitVec 8) (f : Option TrapReq),
    afind (s.getPart p.toNat).faults n = some (cause, .context k) →
    let c := (s.clean.modPart p.toNat (fun q => { q with faults := adel q.faults n })).focus (k / 4) (k % 4)
    c.ctx.status = .hostWait f →
      exec (.abort p n) s = .next ((c.endTask (0x80 ||| cause).toNat true).focus s.coreId s.ctxId)) ∧
  ∀ (s : State) (p : BitVec 4) (task : BitVec 32),
    let c := s.ctx
    c.part = p.toNat → c.status = .halted → c.cr.taskid.toNat = task.toNat → s.ctxId < 4 →
    let kept := afind (s.getPart p.toNat).saved s.here
    (kept.isSome → exec (.haltDecision p task false) s = .next { s.clean with ctx := { s.ctx with status := .ready } }) ∧
    (kept = none → s.savePending = false → exec (.haltDecision p task false) s =
      .next ({ s.clean with ctx := { s.ctx with status := .ready } }).claimIssue) ∧
    (kept = none → s.savePending = true → exec (.haltDecision p task false) s =
      .next { s.clean with ctx := { s.ctx with status := .saving none } }) ∧
    exec (.haltDecision p task true) s = .next (s.clean.endTask 0x40 true)

/-- R242, R243, R376, R377, R379, R381, R383, R385: a walk gives the leaf of an address, or PAGE or PROT, level by level; an
access is translated by a TLB or a walk from PTROOT, and then needs the leaf's permission; an address of the local window
reaches a bank, whose mode must admit the access. SHOOT drops translations and ALL puts PTROOT into effect, SHOOTDONE answers
it, ZMAP holds a range back until ZDONE has zeroed it: a walk to a leaf that meets it gives PAGE. The model's choices: a root
outside the partition's memory gives PROT (log 78), SHOOTDONE waits until the partition's stores are performed everywhere (log
22), ZMAP refuses a misaligned frame with status 1 (log 82), and the words of the answers, in recovery too (log 25). -/
def Obligations.ShootdownAndZeroing : Prop :=
  -- walks
  (∀ (s : State) (p va table lv sh : Nat) (rest : List (Nat × Nat)), (lv, sh) ∈ [(4, 48), (3, 39), (2, 30), (1, 21), (0, 16)] →
    let i := va / 2 ^ sh % (if lv = 0 then 32 else 512)
    let e : Word := wordOf 64 (agetN zeroByte s.mem (table + 8 * i) 8)
    let addr := e.toNat / 2 ^ 12 % 2 ^ 36 * 2 ^ 12
    let leaf := e.getLsbD 1 = true
    let sound := e.extractLsb' 48 16 = 0 ∧ e.extractLsb' 9 3 = 0 ∧ (leaf → lv < 3 ∧ addr % 2 ^ sh = 0) ∧
      (¬ leaf → lv ≠ 0) ∧ e.toNat / 2 ^ 8 % 2 = tierOf addr ∧ s.owns p addr = true
    let held := ∃ z ∈ (s.getPart p).zeroing, z.1 < addr + 2 ^ sh ∧ addr < z.1 + z.2
    let w := s.walk p va table ((lv, sh) :: rest)
    (e.getLsbD 0 = false → w = .error cPAGE) ∧ (e.getLsbD 0 = true → ¬ sound → w = .error cPROT) ∧
    (e.getLsbD 0 = true → sound → leaf → (held → w = .error cPAGE) ∧ (¬ held → w = .ok (e.toNat, sh))) ∧
    (e.getLsbD 0 = true → sound → ¬ leaf → w = s.walk p va addr rest)) ∧
  (∀ e : Nat, let r := e.testBit 2
    let w := e.testBit 3
    leafAllows e .load = r ∧ leafAllows e .ldff = r ∧ leafAllows e .engineRead = r ∧ leafAllows e .store = w ∧
    leafAllows e .engineWrite = w ∧ leafAllows e .drain = w ∧ leafAllows e .amo = (r && w) ∧
    leafAllows e .fullEmpty = (r && w) ∧ leafAllows e .object = (r && w) ∧
    leafAllows e .fetch = (e.testBit 4 && !e.testBit 5)) ∧
  (∀ (s : State) (p va : Nat) (acc : Acc) (own : Bool),
    let x := s.translate p va acc own
    let canonical := va / 2 ^ 56 = 0 ∨ va / 2 ^ 56 = 0xFF
    let root := (s.getPart p).ptroot.toNat / 2 ^ 12 % 2 ^ 36 * 2 ^ 12
    let die := s.getDie (dieOf s.coreId)
    let leads := fun (e sh : Nat) => (leafAllows e acc = false → x = .error cPROT) ∧ (leafAllows e acc = true →
      ∃ t, x = .ok ((e / 2 ^ sh * 2 ^ sh % 2 ^ 48 + va % 2 ^ sh, e), t) ∧ t.mem = s.mem ∧ t.ctx = s.ctx)
    (¬ canonical → x = .error cPROT) ∧
    (∀ e sh, canonical → own = true → tlbFind s.core.tlb p va = some [e, sh] → leads e sh) ∧
    (canonical → own = false ∨ tlbFind s.core.tlb p va = none →
      (∀ e sh, tlbFind die.tlb p va = some [e, sh] → leads e sh) ∧
      (tlbFind die.tlb p va = none →
        (root = 0 → x = .error cPAGE) ∧ (root ≠ 0 → s.owns p root = false → x = .error cPROT) ∧
        (root ≠ 0 → s.owns p root = true →
          (∀ c, s.walk p va root walkLevels = .error c → x = .error c) ∧
          ∀ e sh, s.walk p va root walkLevels = .ok (e, sh) → leads e sh)))) ∧
  -- the local window
  (∀ (acc : Acc), BankMode.scratch.admits acc = true ∧ BankMode.cache.admits acc = false ∧
    (BankMode.fifo.admits acc = true ↔ acc = .load ∨ acc = .ldff ∨ acc = .drain ∨ acc = .engineRead)) ∧
  (∀ (core o : Nat), o < 0x100000 →
    let reaches := fun (m k : Nat) => localPlace core (lwin + m * 0x100000 + o) = if o < 0xC0000 then some (k, o) else none
    reaches 0 core ∧ (∀ k, k < 4 → reaches (4 + k) (core / 4 * 4 + k)) ∧
    ∀ m, m ∉ [0, 4, 5, 6, 7] → localPlace core (lwin + m * 0x100000 + o) = none) ∧
  (∀ (s : State) (va : Word) (n : Nat) (acc : Acc) (kind : FaultKind),
    let x := s.resolve va n acc kind
    (lwin ≤ va.toNat → 0 < n → s.ctx.views = [] →
      (localPlace s.coreId va.toNat = none → x = .error (trap cPROT)) ∧
      ∀ c o, localPlace s.coreId va.toNat = some (c, o) →
        (o / 0x8000 ≠ (o + n - 1) / 0x8000 → x = .error (trapR cALIGN [va])) ∧
        (o / 0x8000 = (o + n - 1) / 0x8000 →
          (((s.getCore c).modeAt o).admits acc = false → x = .error (trap cPROT)) ∧
          (((s.getCore c).modeAt o).admits acc = true → x = .ok (.sram c o, s)))) ∧
    (va.toNat < lwin →
      let y := s.translate s.myPart va.toNat acc (ownTlb acc kind)
      (∀ c, y = .error c → x = .error (.host c va kind none)) ∧
      ∀ pa e t, y = .ok ((pa, e), t) → x = .ok (.phys pa (e.testBit 5) ⟨e.testBit 7, e.testBit 6⟩, t))) ∧
  -- shootdown and zeroing
  (∀ (s : State) (p : BitVec 4) (base : BitVec 64) (size : BitVec 2) (count : Nat) (all : Bool) (frame : BitVec 48),
    s.recovery = true → exec (.shoot p base size count all) s = .next (s.clean.reply p.toNat 0x06 [0x42]) ∧
      exec (.zmap p frame size) s = .next (s.clean.reply p.toNat 0x08 [0x42])) ∧
  (∀ (s : State) (p : BitVec 4) (base : BitVec 64) (size : BitVec 2) (count : Nat) (all : Bool), s.recovery = false →
    ∃ t, exec (.shoot p base size count all) s = .next t ∧ t.mem = s.mem ∧
      (t.getPart p.toNat).shoots = (s.getPart p.toNat).shoots + 1 ∧
      (t.getPart p.toNat).ptroot = (if all then (s.getPart p.toNat).ptrootNext else (s.getPart p.toNat).ptroot) ∧
      (all = true → ∀ va, tlbFind t.core.tlb p.toNat va = none)) ∧
  (∀ (s : State) (p : BitVec 4), (s.getPart p.toNat).shoots ≠ 0 → s.clean.translatedPending p.toNat = false →
    exec (.shootdone p) s = .next (((s.clean.performStores p.toNat).modPart p.toNat
      (fun q => { q with shoots := q.shoots - 1 })).reply p.toNat 0x07 [BitVec.ofNat 64 p.toNat])) ∧
  (∀ (s : State) (p : BitVec 4) (frame : BitVec 48) (size : BitVec 2), s.recovery = false →
    let n := 2 ^ pageBits size
    let a := frame.toNat
    let whole := s.owns p.toNat a = true ∧ s.owns p.toNat (a + n - 1) = true ∧ a % n = 0
    (¬ whole → exec (.zmap p frame size) s = .next (s.clean.reply p.toNat 0x09
      [BitVec.ofNat 64 p.toNat, BitVec.ofNat 64 a, 1])) ∧
    (whole → ∃ t, exec (.zmap p frame size) s = .next t ∧ t.mem = s.mem ∧
      (t.getPart p.toNat).zeroing = (s.getPart p.toNat).zeroing ++ [(a, n)])) ∧
  ∀ (s : State) (p : BitVec 4) (a n : Nat) (rest : List (Nat × Nat)), (s.getPart p.toNat).zeroing = (a, n) :: rest →
    ∃ t, exec (.zdone p) s = .next t ∧ (t.getPart p.toNat).zeroing = rest ∧
      (∀ x, a ≤ x → x < a + n → aget zeroByte t.mem x = 0) ∧
      t.out = s.out ++ [⟨0, 2 * p.toNat + 1, 0x09, [BitVec.ofNat 64 p.toNat, BitVec.ofNat 64 a, 0], 0⟩]

/-- R349, R366, R370, R384, R385, R387, R397, R398, R405, R408, R409: the supervisor registers and what they mask, through the
physical function alone in recovery; FORM, DISSOLVE and RESET answer for what they do. The model's choices: 0x1B0 reads back
the pending PTROOT at once (log 44), FORM, DISSOLVE and RESET answer status 1 where they are refused (log 68), the words of the
answers (log 25), the route table at 0x200 and on with the layout of an entry, and that a register which the physical function
does not reach reads 0 through it and keeps its value (log 49). -/
def Obligations.PartitionsAndRegisters : Prop :=
  (∀ (s : State) (p : BitVec 4) (pf : Bool) (v : BitVec 64), s.recovery = false ∨ pf = true →
    (s.getPart p.toNat).formed = true →
    let writes := fun (reg : BitVec 12) (t : State) => exec (.registerWrite p pf reg v) s = .next t
    let kept := fun (lo n : Nat) => BitVec.ofNat 64 (fld v.toNat lo n * 2 ^ lo)
    -- a register of the bound virtual function alone
    let wrote := fun (reg : BitVec 12) (f : Part → Part) => writes reg (if pf then s.clean else s.clean.modPart p.toNat f)
    writes 0x1A3 (s.clean.modPart p.toNat (fun q => { q with hvbase := kept 21 36 })) ∧
    writes 0x1A0 (if pf then
        if v.getLsbD 3 then if v.toNat % 4 = 1 then s.clean.hvSave p.toNat
          else if v.toNat % 4 = 2 then s.clean.hvRestore p.toNat else s.clean
        else s.clean
      else if v.toNat % 4 = 1 ∨ v.toNat % 4 = 2 then s.clean.guestCommand p.toNat (v.toNat % 4) else s.clean) ∧
    wrote 0x1A1 (fun q => { q with pbound := kept 0 20 }) ∧ wrote 0x1A2 (fun q => { q with savebase := kept 21 36 }) ∧
    wrote 0x1A5 (fun q => { q with embase := kept 21 27 }) ∧
    wrote 0x190 (fun q => { q with slack := kept 0 32 }) ∧ wrote 0x1B0 (fun q => { q with ptrootNext := kept 12 36 }) ∧
    wrote 0x1B1 (fun q => { q with vbase := kept 21 36 }) ∧ wrote 0x1B2 (fun q => { q with vbsize := kept 0 16 }) ∧
    (∀ n : Nat, n < 16 → wrote (BitVec.ofNat 12 (0x180 + n)) (fun q =>
      { q with tqcfg := aset 1 q.tqcfg n (fld v.toNat 0 2) })) ∧
    (∀ n : Nat, n < 256 → writes (BitVec.ofNat 12 (0x200 + n)) (if pf then s.clean.modPart p.toNat (fun q =>
      { q with routes := aset [] q.routes n (routeEntry v.toNat) }) else s.clean)) ∧
    (pf = false → writes 0x1D4 s.clean)) ∧
  (∀ (s : State) (p : BitVec 4) (reg : BitVec 12) (v : BitVec 64), s.recovery = true →
    exec (.registerWrite p false reg v) s = .next (s.clean.reply p.toNat 0x10 [0x42]) ∧
    exec (.registerRead p false reg) s = .next (s.clean.reply p.toNat 0x11 [0x42])) ∧
  (∀ (s : State) (p : BitVec 4) (pf : Bool), s.recovery = false ∨ pf = true →
    let q := s.getPart p.toNat
    let reads := fun (reg : BitVec 12) (v : Word) => exec (.registerRead p pf reg) s = .next
      (s.clean.post 0 (if pf then 32 else 2 * p.toNat + 1) 0x11 [BitVec.ofNat 64 (p.toNat + reg.toNat * 2 ^ 8), v])
    let mine := fun (reg : BitVec 12) (v : Word) => reads reg (if pf then 0 else v)
    mine 0x190 q.slack ∧ mine 0x1A1 q.pbound ∧ mine 0x1A2 q.savebase ∧ mine 0x1A4 q.stolen ∧ mine 0x1A5 q.embase ∧
    mine 0x1B0 q.ptrootNext ∧ mine 0x1B1 q.vbase ∧ mine 0x1B2 q.vbsize ∧ mine 0x1B3 (BitVec.ofNat 64 q.berths) ∧
    reads 0x1A3 q.hvbase ∧ reads 0x1D0 (if q.compat then 1 else 0) ∧
    reads 0x1D1 (if pf then s.health else 0) ∧ reads 0x1D2 (if pf then s.cecnt else 0) ∧
    reads 0x1D5 (if pf then s.startstat else 0)) ∧
  (∀ (s : State) (p : BitVec 4) (compat : Bool),
    let q := s.getPart p.toNat
    (q.formed = true → q.tasks = [] → ∃ t, exec (.containWrite p compat) s = .next t ∧
      (t.getPart p.toNat).compat = compat ∧ t.measure.length = s.measure.length) ∧
    (q.formed = false ∨ q.tasks ≠ [] → exec (.containWrite p compat) s = .next s.clean)) ∧
  (∀ (s : State) (berths : BitVec 16) (vf : BitVec 8),
    let m := berths.toNat
    (m = 0 ∨ s.berthsTaken m = true ∨ s.functionTaken vf.toNat = true ∨ s.recovery = true → exec (.form berths vf) s =
      .next (s.clean.send 0x12 [BitVec.ofNat 64 m, 1])) ∧
    (m ≠ 0 → s.berthsTaken m = false → s.functionTaken vf.toNat = false → s.recovery = false → ∃ t, exec (.form berths vf) s = .next t ∧
      let q := t.getPart (lowestBerth m)
      q.formed = true ∧ q.berths = m ∧ q.vf = vf.toNat ∧ q.tasks = [] ∧ q.ptroot = 0 ∧ q.pbound = 200 ∧
      ∃ x ∈ t.out, x.kind = 0x12 ∧ x.body = [BitVec.ofNat 64 m, 0, BitVec.ofNat 64 (lowestBerth m)])) ∧
  (∀ (s : State) (p : BitVec 4),
    ((s.getPart p.toNat).formed = false → exec (.dissolve p) s = .next (s.clean.send 0x12 [BitVec.ofNat 64 p.toNat, 1])) ∧
    ((s.getPart p.toNat).formed = true → ∃ t, exec (.dissolve p) s = .next t ∧ t.getPart p.toNat = Part.reset ∧
      ∃ x ∈ t.out, x.kind = 0x12 ∧ x.body = [BitVec.ofNat 64 p.toNat, 0])) ∧
  ∀ (s : State) (p : BitVec 4) (pf : Bool),
    let vc := if pf then 32 else 2 * p.toNat + 1
    let served := s.recovery = false ∨ pf = true
    (∀ task : BitVec 32, ¬ served → exec (.reset p pf task) s = .next (s.clean.reply p.toNat 0x1A [0x42])) ∧
    (served → (s.getPart p.toNat).formed = true → exec (.reset p pf 0) s = .next ((s.clean.resetPart p.toNat).post 0 vc 0x1A
      [BitVec.ofNat 64 p.toNat, 0])) ∧
    (served → (s.getPart p.toNat).formed = false → ∀ task : BitVec 32, exec (.reset p pf task) s = .next (s.clean.post 0 vc 0x1A
      [BitVec.ofNat 64 (p.toNat + task.toNat * 2 ^ 32), 1]))

/-- R366 to R369, R371 to R373: the states that a save and a restore pass through, for the guest and for the hypervisor: a save
command reaches every busy context, a context at a save point whose work is done is held, and once all are, the partition is
SAVED. What a save keeps: the whole context, or, with a hint, the vector groups, tiles, scalar registers and accumulators that
it names, each other one reading zero, with a watch that is set DROPPED; of a core's banks what the saves name. A restore puts a
context back as it was kept. The model's choices: FAIL stays until the next save command clears it (log 43), PREEMPT_STATE_REACHED
with nothing to do changes nothing (log 67), the banks of a core without a saved context keep what they hold, and where the
writes of a save go (log 32). -/
def Obligations.PreemptionStates : Prop :=
  -- what reaches a context, and where it is held
  (∀ (u : State) (m k : Nat),
    let c := u.getCtx k
    (u.ctx.isBlocked = false → u.requestSave = u) ∧
    (∀ a e w, u.ctx.status = .blocked a e w → (∀ i ∈ u.waiting, ∀ sd sa, i ≠ .mwait sd sa) →
      u.requestSave = { u with ctx := { u.ctx with status := .saving none } }) ∧
    (∀ a e sd sa x v, u.ctx.status = .blocked a e none → u.waiting = [.mwait sd sa] → u.readS 0 sa = .ok (x, v) →
      (u.ctx.watch.st = .set → x = 0 ∨ u.cycle - a < x.toNat →
        u.requestSave = u.wake false (some (u.ctx.watch.result 3))) ∧
      (u.ctx.watch.st ≠ .set → u.requestSave = u.wake false none)) ∧
    (c.atPoint = true ↔ (∃ h, c.status = .saving h) ∨ (∃ a e w, c.status = .blocked a e w) ∨ c.status = .halted ∨
      c.status = .hostWait none) ∧
    ((u.getPart m).preState = 1 → (u.getPart m).hvState = 0 → c.part = m → afind (u.getPart m).saved k = none →
      (c.atPoint = true → u.saveClear k = true → u.saveCtx m k = ({ u with tick := u.tick + 1 }).onCtx k (fun t =>
        (t.holdCtx m).modPart m (fun q => q.setWrites k (saveImage u.tick)))) ∧
      (c.atPoint = false ∨ u.saveClear k = false → u.saveCtx m k = u))) ∧
  -- what a save keeps of a context
  (∀ (u : State) (m : Nat),
    let t := u.holdCtx m
    let k := u.ctx.kept
    let w := k.watch
    let part := fun (on : Bool) (x : Nat) => if on then x else 0
    (k = { u.ctx with watch := w, loops := k.loops, loopsHandler := k.loopsHandler, streams := k.streams, fetched := none } ∧
      k.loops.levels = u.ctx.loops.levels ∧ k.loopsHandler.levels = u.ctx.loopsHandler.levels ∧
      k.streams = u.ctx.streams.map (fun x => (x.1, { x.2 with copy := none }))) ∧
    w = { u.ctx.watch with st := w.st, waiting := w.waiting } ∧
    w.st = (if u.ctx.watch.st = .set then .dropped else u.ctx.watch.st) ∧
    t.ctx = { k with
      r := { u.ctx.r with s := t.ctx.r.s }, status := t.ctx.status, pend := u.ctx.pend.pause u.cycle } ∧
    t.mem = u.mem ∧ t.core.sram = u.core.sram ∧ t.core.l1 = u.core.l1 ∧
    ((∀ x, u.ctx.status ≠ .saving (some x)) → t.core = u.core ∧ t.ctx.r = u.ctx.r ∧
      afind (t.getPart m).saved u.here = some 0xFFFF) ∧
    ∀ (g : BitVec 24) l, u.ctx.status = .saving (some (g, l)) →
      (∀ r, r < vwinSize u.ctx.cr.vwin → (t.getV (vwinBase u.ctx.cr.vwin + r)).toNat =
        part (g.getLsbD (r / 16)) (u.getV (vwinBase u.ctx.cr.vwin + r)).toNat) ∧
      (l = none → t.core.tiles = u.core.tiles ∧ t.ctx.r = u.ctx.r ∧ t.core.arr = u.core.arr ∧
        afind (t.getPart m).saved u.here = some 0xFFFF) ∧
      ∀ chunks tiles accs sg, l = some (chunks, tiles, accs, sg) → afind (t.getPart m).saved u.here = some chunks ∧
        (∀ k, (aget 0 t.ctx.r.s k).toNat = part (sg.testBit (k / 8)) (aget 0 u.ctx.r.s k).toNat) ∧
        (∀ k i, k < twinCount u.ctx.cr.twin → i < 16384 →
          let x := (twinBase u.ctx.cr.twin + k) * 16384 + i
          aget zeroByte t.core.tiles x = if tiles.testBit k then aget zeroByte u.core.tiles x else 0) ∧
        (u.core.arr.claim = some u.ctxId → ∀ b i j, i < 128 → j < 128 →
          t.core.arr.accAt b i j = part (accs.testBit b) (u.core.arr.accAt b i j)) ∧
        (u.core.arr.claim ≠ some u.ctxId → t.core.arr = u.core.arr)) ∧
  -- what it keeps of a core, and what a restore puts back
  (∀ (u : State) (m c : Nat),
    let t := u.settleSaved m c
    let mine := (u.getPart m).saved.filter (fun x => x.1 / 4 = c)
    (∀ a, a < 0xC0000 → aget zeroByte (t.getCore c).sram a =
      if mine = [] ∨ (∃ x ∈ mine, x.2.testBit (a / 0xC000) = true) then aget zeroByte (u.getCore c).sram a else 0) ∧
    ∀ r, aget 0 (t.getCore c).vregs r =
      if ∃ x ∈ mine, vwinBase (u.getCtx x.1).cr.vwin ≤ r ∧ r < vwinBase (u.getCtx x.1).cr.vwin + vwinSize (u.getCtx x.1).cr.vwin
      then aget 0 (u.getCore c).vregs r else 0) ∧
  (∀ (u : State) (m : Nat), u.restoreFault m = none →
    let t := u.restoreHere m
    t.ctx = u.ctx ∧ t.mem = u.mem ∧ t.core = { u.core with selected := t.core.selected, woken := t.core.woken } ∧
    (t.getPart m).saved = adel (u.getPart m).saved u.here) ∧
  ∀ (s : State) (p : BitVec 4),
    let n := p.toNat
    let q := s.getPart n
    (q.hvState = 0 → q.preState = 0 → s.clean.busy n = [] → exec (.prectlSave p) s = .next (s.clean.modPart n
      (fun q => { q with preState := 1, preFail := false, preForced := false, preSince := s.cyc }))) ∧
    (q.hvState = 0 → q.preState = 0 →
      let u := s.clean.modPart n (fun q => { q with preState := 1, preFail := false, preForced := false, preSince := s.cyc })
      exec (.prectlSave p) s = .next ((u.busy n).foldl (fun s k => (s.onCtx k State.requestSave).saveCtx n k) u)) ∧
    (q.hvState = 0 → q.preState ≠ 0 → exec (.prectlSave p) s = .next s.clean) ∧
    (s.clean.allSaved n = true ↔ (∀ k ∈ s.clean.busy n, (afind q.saved k).isSome) ∧ q.saveWrites = [] ∧
      ∀ c ∈ s.clean.partCores n, (s.getCore c).emergency = none) ∧
    (q.hvState = 0 → q.preState = 1 → s.clean.allSaved n = false → exec (.preemptStateReached p) s = .next s.clean) ∧
    (q.hvState = 0 → q.preState = 1 → s.clean.allSaved n = true → ∃ t, exec (.preemptStateReached p) s = .next t ∧
      (t.getPart n).preState = 2 ∧ (t.getPart n).preForced = false ∧ ∃ m ∈ t.out, m.kind = 0x18 ∧
        m.body = [BitVec.ofNat 64 (n + 2 * 2 ^ 8 + (if (t.getPart n).preFail then 2 ^ 11 else 0)), BitVec.ofNat 64 t.cyc]) ∧
    (q.hvState = 0 → q.preState = 2 → q.saved = [] → exec (.prectlRestore p) s =
      .next (s.clean.modPart n (fun q => { q with preState := 3 }))) ∧
    (q.hvState = 0 → q.preState = 2 → exec (.prectlRestore p) s =
      .next ((s.clean.modPart n (fun q => { q with preState := 3 })).restoreAll n)) ∧
    (q.hvState = 0 → q.preState ≠ 2 → exec (.prectlRestore p) s = .next s.clean) ∧
    (q.hvState ≠ 0 →
      exec (.prectlSave p) s = .next (s.clean.modPart n (fun q => { q with guestCmds := q.guestCmds ++ [1] })) ∧
      exec (.prectlRestore p) s = .next (s.clean.modPart n (fun q => { q with guestCmds := q.guestCmds ++ [2] })) ∧
      exec (.hvSave p) s = .next s.clean) ∧
    (q.hvState = 0 → exec (.hvSave p) s =
      .next (s.clean.modPart n (fun q => { q with hvState := 1, hvSince := s.cyc }))) ∧
    (q.hvState = 2 → exec (.hvRestore p) s = .next (s.clean.modPart n (fun q => { q with hvState := 3 }))) ∧
    (q.hvState ≠ 2 → exec (.hvRestore p) s = .next s.clean) ∧
    (q.preState = 1 → q.hvState = 0 → q.bound ≤ s.cyc - q.preSince → exec (.preemptBoundExpiry p) s =
      .next (s.clean.modPart n (fun q => { q with preForced := true }))) ∧
    (q.preState = 1 → q.hvState = 0 → 2 * q.bound ≤ s.cyc - q.preSince → (∃ k ∈ s.clean.busy n,
      afind q.saved k = none ∧ (s.getCtx k).atPoint = false) → exec (.preemptFail p) s =
      .next (s.clean.modPart n (fun q => { q with preFail := true }))) ∧
    (q.hvState = 0 → q.preState = 3 → q.saved = [] → exec (.preemptStateReached p) s =
      .next ((s.clean.modPart n (fun q => { q with preState := 0 })).sendPreempt n 0 false)) ∧
    (q.hvState = 3 → q.guestCmds = [] → ∃ t, exec (.preemptStateReached p) s = .next t ∧
      (t.getPart n).hvState = 0 ∧ (t.getPart n).stolen = q.stolen + BitVec.ofNat 64 (s.cyc - q.hvSince) ∧
      (t.getPart n).preState = q.preState) ∧
    (q.hvState = 0 → q.preState = 0 → exec (.preemptStateReached p) s = .next s.clean)

/-- R391 to R395, R397, R408, R413: what arrives at a port, its acknowledgement and retry, its training and its keys; a PUT
and a GET of a peer with the data that they carry; a PUT that reduces combines what it carries with what is there. The model's
choices: the slot that a stream leaves is RETIRED at the switch and a failure counts against the number that a retry restarts
from (log 34), the words of a PUT's and a GET's answer (log 25), a PUT is performed in one step, and refused at its first fault
with what was done standing (log 33), and an event with nothing to do changes nothing (log 67). -/
def Obligations.LinkEvents : Prop :=
  (∀ (s : State) (port : BitVec 4) (e : BitVec 32) (f : Flit),
    let n := port.toNat
    let q := s.getPort n
    (q.st ≠ 2 → exec (.nakReceived port e) s = .next s.clean ∧ exec (.retryTimeout port) s = .next s.clean ∧
      exec (.flitArrival port f) s = .next s.clean) ∧
    (q.st = 2 → q.tx.retry = [] → exec (.nakReceived port e) s = .next (s.clean.acked n (e - 1))) ∧
    (q.st = 2 → q.tx.keyexh = false → ∀ g rest, q.tx.retry.filter (fun f => seqBefore (e - 1) f.seq) = g :: rest →
      aget 0 q.tx.failures g.seq.toNat = 0 → ∃ t, exec (.nakReceived port e) s = .next t ∧
        (t.getPort n).tx.retry = g :: rest ∧ t.wire = s.wire ++ (g :: rest).map (fun f => (n, f))) ∧
    (q.st = 2 → q.tx.keyexh = true → exec (.nakReceived port e) s = .next (s.clean.acked n (e - 1)) ∧
      exec (.retryTimeout port) s = .next s.clean) ∧
    (q.st = 2 → q.tx.keyexh = false → ∀ g rest, q.tx.retry = g :: rest → q.tx.ackedAt + 8192 ≤ s.cyc →
      aget 0 q.tx.failures g.seq.toNat = 0 → ∃ t, exec (.retryTimeout port) s = .next t ∧
        t.wire = s.wire ++ (g :: rest).map (fun f => (n, f)) ∧ (t.getPort n).tx.retry = g :: rest) ∧
    (q.st = 2 → f.seq ≠ q.rx.seq → (f.seq - q.rx.seq).toNat < 2 ^ 31 → q.rx.nakOut = true →
      exec (.flitArrival port f) s = .next s.clean) ∧
    (q.st = 2 → f.seq = q.rx.seq → f.type = 0 → ∃ t, exec (.flitArrival port f) s = .next t ∧
      match q.rx.check f with
      | some _ => (t.getPort n).rx.seq = q.rx.seq + 1 ∧ (t.getPort n).rx.last = q.rx.seq ∧ (t.getPort n).rx.nakOut = false
      | none => (t.getPort n).rx.seq = q.rx.seq ∧ t.out = s.out)) ∧
  (∀ (s : State) (port : BitVec 4),
    let n := port.toNat
    let q := s.getPort n
    (q.st ≠ 3 → ∀ ok, exec (.retrainingComplete port ok) s = .next s.clean) ∧
    (q.st = 3 → ∃ t, exec (.retrainingComplete port true) s = .next t ∧ (t.getPort n).st = 2 ∧
      t.wire = if q.tx.keyexh = true ∧ q.tx.slotAt (1 - q.tx.cur) ≠ 1 then s.wire
        else s.wire ++ q.tx.retry.map (fun f => (n, f))) ∧
    (q.st = 3 → q.failedTrainings = 0 → exec (.retrainingComplete port false) s =
      .next (s.clean.setPort n { q with failedTrainings := 1 })) ∧
    (n < 13 → ∀ epoch, (q.st = 0 ∨ q.epoch ≠ epoch ∨ q.sent ≠ s.epoch) → s.waitingOn n = [] →
      ∃ t, exec (.portTrainFull port epoch) s = .next t ∧ if Config.peerVerifies n epoch = true then
        (t.getPort n).st = 2 ∧ (t.getPort n).tx.seq = 0 ∧ (t.getPort n).rx.seq = 0 ∧ (t.getPort n).rx.last = 0 ∧
        (t.getPort n).epoch = epoch ∧ (t.getPort n).sent = s.epoch ∧ (t.getPort n).tx.slotAt 0 = 1 ∧
        (∀ m ∈ t.out, m.port = n → m.sealed = 0) else (t.getPort n).st = 0 ∧ (t.getPort n).epoch = q.epoch) ∧
    (q.tx.due = true → q.st = 2 → q.tx.keyexh = false → q.tx.retry.length < 512 → q.tx.slotAt (1 - q.tx.cur) ≠ 1 →
      exec (.keySwitch port) s = .next (s.clean.setPort n { q with tx := { q.tx with keylate := true } })) ∧
    (q.tx.due = true → q.st = 2 → q.tx.keyexh = false → q.tx.retry.length < 512 → q.tx.slotAt (1 - q.tx.cur) = 1 →
      ∃ t, exec (.keySwitch port) s = .next t ∧ (t.getPort n).tx.cur = 1 - q.tx.cur ∧
        (t.getPort n).tx.slotAt q.tx.cur = 2 ∧ t.wire.length = s.wire.length + 1) ∧
    (lastCounter ≤ q.tx.counter → q.tx.slotAt (1 - q.tx.cur) ≠ 1 → exec (.keyExhausted port) s =
      .next (s.clean.setPort n { q with tx := { q.tx with keyexh := true } })) ∧
    (∀ slot : BitVec 1, q.st ≠ 0 → q.rx.slotAt slot.toNat ≠ 1 → ∃ t, exec (.keySlotRefill port true slot) s = .next t ∧
      (t.getPort n).rx.slotAt slot.toNat = 1 ∧ aget 0 (t.getPort n).rx.counters slot.toNat = 0 ∧
      (t.getPort n).tx = q.tx) ∧
    ∀ (recv : Bool) (v : BitVec 64),
      (13 ≤ n ∨ v.toNat < 2 ^ 20 ∨ 2 ^ 40 - 1 < v.toNat → exec (.linkParameter port recv v) s =
        .next (s.clean.send 0x1F [4])) ∧
      (n < 13 → 2 ^ 20 ≤ v.toNat → v.toNat ≤ 2 ^ 40 - 1 → ∃ t, exec (.linkParameter port recv v) s = .next t ∧
        (if recv then (t.getPort n).rx.switchPoint else (t.getPort n).tx.switchPoint) = v.toNat)) ∧
  (∀ (s : State) (p : BitVec 4) (m : PutMsg),
    let n := p.toNat
    let put := exec (.putMessage p m) s
    let answer := fun (u : State) (st : Word) => Host.Outcome.next (u.post m.port.toNat (2 * n + 1) 0x0D [m.tag, st])
    let r := s.clean.peerWrite n m
    (s.recovery = true → put = answer s.clean 0x42) ∧
    (s.recovery = false → (s.getPart n).formed = false → put = answer s.clean 2) ∧
    (s.recovery = false → (s.getPart n).formed = true →
      (r.2 = none → put = answer (r.1.arrived n m) 0) ∧
      (∀ e, r.2 = some e → put = .next (r.1.refusePeer n m.port.toNat m.tag m.addr e)) ∧
      (∀ pa e u, m.op = 0 → m.data ≠ [] → m.data.length ≤ 128 - m.addr.toNat % 128 → m.addr.toNat < lwin → s.inFlight = 0 →
        m.barrier = none → (s.clean.asPeerState n).translate (s.clean.asPeerState n).myPart m.addr.toNat .engineWrite false =
          .ok ((pa, e), u) → e.testBit 5 = true → ∃ t, put = answer t 0 ∧
          (∀ i, i < m.data.length → aget zeroByte t.mem (pa + i) = m.data.getD i 0) ∧
          ∀ x, x < pa ∨ pa + m.data.length ≤ x → aget zeroByte t.mem x = aget zeroByte s.mem x) ∧
      (∀ pa e v u, m.op ≠ 0 → m.data ≠ [] → m.data.length = typeWidth m.elem.toNat / 8 → m.addr.toNat < lwin → s.inFlight = 0 →
        m.barrier = none → (s.clean.asPeerState n).translate (s.clean.asPeerState n).myPart m.addr.toNat .engineRead false =
          .ok ((pa, e), v) → v.translate v.myPart m.addr.toNat .engineWrite false = .ok ((pa, e), u) → e.testBit 5 = true →
        ∃ t, put = answer t 0 ∧ agetN zeroByte t.mem pa m.data.length = toBytes (elemCombine m.elem.toNat m.op.toNat
            (ofBytes (agetN zeroByte s.mem pa m.data.length)) (ofBytes m.data)) m.data.length ∧
          ∀ x, x < pa ∨ pa + m.data.length ≤ x → aget zeroByte t.mem x = aget zeroByte s.mem x))) ∧
  ∀ (s : State) (p port : BitVec 4) (tag addr : BitVec 64) (size : Nat),
    let n := p.toNat
    let get := exec (.getRequest p port tag addr size) s
    let say := fun (u : State) (k : Nat) (b : List Word) => u.post port.toNat (2 * n + 1) k b
    let r := s.clean.peerRead n addr size
    (s.recovery = true → get = .next (say s.clean 0x0D [tag, 0x42])) ∧
    (s.recovery = false → (s.getPart n).formed = false → get = .next (say s.clean 0x0D [tag, 2])) ∧
    (s.recovery = false → (s.getPart n).formed = true →
      (∀ xs, r.2 = .ok xs → get = .next (xs.foldl (fun u x => say u 0x0C (getDataBody tag x)) r.1)) ∧
      (∀ e, r.2 = .error e → get = .next (r.1.refusePeer n port.toNat tag addr e)) ∧
      (∀ pa e u, size ≠ 0 → size ≤ 32 - addr.toNat % 32 → addr.toNat < lwin →
        (s.clean.asPeerState n).translate (s.clean.asPeerState n).myPart addr.toNat .engineRead false = .ok ((pa, e), u) →
        e.testBit 5 = true → ∃ t, get = .next (say t 0x0C (getDataBody tag (agetN zeroByte s.mem pa size,
          s.poisoned (.phys pa true .none) size))) ∧ t.mem = s.mem ∧ t.out = s.out))

/-- R401, R402, R407 to R411, R414, R415: starts, firmware, quotes, errors and the governor. The model's choices: a start is one
step, and what a warm one keeps (log 35); POWER_ON with the power on changes nothing (log 67); which chunks have a refused offset
or length, and the number of the unit of a shutdown's record (log 82). -/
def Obligations.StartsErrorsAndGovernor : Prop :=
  (∀ (s : State), (s.power = true → exec .powerOn s = .next s.clean) ∧
    (∃ t, exec .restartCold s = .next t ∧ t.evt = .none ∧ (t.recovery = false → t.parts = [] ∧ t.mem = [] ∧
      t.ctx = Ctx.reset ∧ t.rating = 12)) ∧
    (∃ t, exec .restartWarm s = .next t ∧ (t.recovery = false → t.parts = [] ∧ t.ctx = Ctx.reset)) ∧
    (s.power = false → ∃ t, exec .powerOn s = .next t ∧ t.power = true)) ∧
  (∀ (s : State) (nonce : BitVec 256), ∃ t sig, exec (.quoteRequest nonce) s = .next t ∧
    t.out = s.out ++ [⟨0, 32, 0x1D, valueWords nonce 4 ++ ((s.measure.map digestWords).flatten) ++
      [BitVec.ofNat 64 (s.startstat.toNat % 2 ^ 16)] ++ sig, 0⟩] ∧ t.measure = s.measure) ∧
  (∀ (s : State) (off len : BitVec 32) (data : List (BitVec 64)),
    let k := off.toNat / 8
    let n := imageWords len.toNat
    let refused := off.toNat % 8 ≠ 0 ∨ len = 0 ∨ data = [] ∨ 4096 < data.length ∨ n < k + data.length ∨
      (off ≠ 0 ∧ len.toNat ≠ s.firmwareLen)
    (refused → exec (.firmwareChunk off len data) s = .next (s.clean.send 0x1F [2])) ∧
    (¬ refused → (s.firmware.map Prod.fst).Pairwise (· < ·) → (∀ x ∈ s.firmware, x.1 < n) →
      (∃ j, j < n ∧ ¬ (k ≤ j ∧ j < k + data.length) ∧ (off = 0 ∨ afind s.firmware j = none)) →
      ∃ t, exec (.firmwareChunk off len data) s = .next t ∧ t.firmwareLen = len.toNat ∧ t.staged = false ∧
        t.out = s.out ++ [⟨0, 32, 0x1F, [0], 0⟩] ∧
        ∀ j, afind t.firmware j = if k ≤ j ∧ j < k + data.length then data[j - k]? else if off = 0 then none
          else afind s.firmware j) ∧
    (off = 0 → data.length = imageWords len.toNat → data ≠ [] → data.length ≤ 4096 → len ≠ 0 → s.recovery = false →
      ∃ t, exec (.firmwareChunk off len data) s = .next t ∧ t.image = data ∧ t.firmwareLen = len.toNat ∧
        t.out = s.out ++ [⟨0, 32, 0x1F, [1], 0⟩])) ∧
  (∀ (s : State) (p : BitVec 4) (unit : BitVec 16) (loc : BitVec 64),
    ∃ t, exec (.correctedError p unit loc) s = .next t ∧ t.cecnt = s.cecnt + 1 ∧ t.mem = s.mem ∧ t.ctx = s.ctx ∧
      t.core = s.core ∧ aget 0 t.cePosted unit.toNat = aget 0 s.cePosted unit.toNat + 1) ∧
  (∀ (s : State) (addr : BitVec 48), exec (.patrolScrub addr false) s = .next s.clean ∧
    ∀ b, s.berthOf addr.toNat = some b → ∃ t, exec (.patrolScrub addr true) s = .next t ∧ t.cecnt = s.cecnt + 1 ∧
      t.mem = s.mem ∧ t.core = s.core) ∧
  (∀ (s : State) (p : BitVec 4) (unit : BitVec 16) (loc : BitVec 64) (core : BitVec 6) (word : BitVec 18),
    ∃ t, exec (.uncorrectableError p unit loc (.sram core word)) s = .next t ∧ t.uecnt = s.uecnt + 1 ∧
      t.bankBad core.toNat (4 * word.toNat) 4 = true ∧ t.mem = s.mem) ∧
  (∀ (s : State) (p : BitVec 4) (unit : BitVec 16) (loc : BitVec 64) (a : BitVec 41),
    2 ≤ unit.toNat / 4096 → loc.toNat / 128 = a.toNat → ∃ t, exec (.uncorrectableError p unit loc (.line a)) s = .next t ∧
      t.uecnt = s.uecnt + 1 ∧ t.mem = s.mem ∧ ∀ w, aget false t.poison w = (w = loc.toNat / 32 || aget false s.poison w)) ∧
  ∀ (s : State) (power temp : Nat),
    (temp < 115 → exec (.governorInterval power temp false) s =
      .next { s.clean with rating := governed s.rating s.cap s.limit power temp }) ∧
    (∀ flow, 115 ≤ temp ∨ flow = true → ∃ t, exec (.governorInterval power temp flow) s = .next t ∧ t.power = false ∧
      aget 0 t.sev3 0x4000 = aget 0 s.sev3 0x4000 + 1) ∧
    let code := governed s.rating s.cap s.limit power temp
    let down := s.limit < power ∨ 100 ≤ temp ∨ s.cap < s.rating
    let up := power + 50 < s.limit ∧ temp < 95 ∧ s.rating < s.cap
    (110 ≤ temp → code = 0) ∧ (temp < 110 → down → code = s.rating - 1) ∧
    (temp < 110 → ¬ down → up → code = s.rating + 1) ∧ (temp < 110 → ¬ down → ¬ up → code = s.rating)

/-! The step, encodings, reset, frames and memory. -/

/-- 00 R13, 03 R50 to R53, 04 R73: without an event from outside, a step does one of the things that can happen next (which
of several is open, assumption log 15). A core that issues a bundle of one slot, whose bytes at the program counter decode
to an instruction, runs exec of it from the state with the sequential next address (and with no entry in LDQ, where it
pops more than are there: R58), and then ends the bundle (history,
shadows, loop stack, next address, cycle) or makes of it what its stop says. -/
def Obligations.StepRunsTheBundle : Prop :=
  (∀ (s : State), s.agenda = [] → s.power = true →
    (∀ m, s.moves = [m] → step s = s.perform m) ∧
    ∃ m ∈ s.moves, step s = s.perform m ∨ step s = ({ s with tick := s.tick + 1 }).perform m) ∧
  ∀ (s f t u x v w : State) (c k n : Nat) (sl : Slot) (i : Instr),
    let bytes := toBytes (2 ^ slotNo sl) 2 ++ toBytes n (slotBytes sl)
    let base := s.focus c (k % 4)
    s.issuer c = some k →
    f = ({ base with core := { base.core with selected := k % 4, woken := none } }).unpause →
    f.ctx.startLoad = none → f.spent = false → f.fetch = .ok (bytes, t) → u = t.passLoads →
    n < 2 ^ (8 * slotBytes sl) → decodeSlot sl n = .ok i →
    u.ctx.status = .ready → (u.ctx.mode = .user → u.ctx.skipC = false ∧ i ≠ .eret) → u.mustHold [i] = false →
    x = ({ u with
      ctx := { u.ctx with npc := u.ctx.pc + BitVec.ofNat 64 (2 + slotBytes sl) },
      evt := .none, latch := none }).supersede ((resultOf i).toList.map BitVec.toNat) →
    v = (if u.ctx.pend.ldq.length < u.popsOf i then x.modPend (fun p => { p with ldq := [] }) else x) →
    exec i v = .next w →
    ((∀ e, w.evt ≠ .stopped e) → s.perform (.bundle c) =
      .next ((({ w with latch := none }).finish u.ctx.mode [(slotNo sl, some i)]).focus s.coreId s.ctxId)) ∧
    ∀ e, w.evt = .stopped e → s.perform (.bundle c) =
      .next ((u.stopBundle { v with latch := none } bytes [(slotNo sl, some i)] (slotNo sl) e).focus s.coreId s.ctxId)

/-- R75, R76, R77, R86, R80, R82, R84, R87: words written out field by field decode to the instructions they stand for. -/
def Obligations.DecodeWords : Prop :=
  -- C: op 0x03 BC, cond 1, sa 5, off -2
  readAs .c 0b000011_0001_000101_1111111111111110 = some (.bc 1 5 (-2)) ∧
  -- S: op 0x00, sd 3, sa 1, sb 2, fn 0x01 SUB
  readAs .s 0b000000_000011_000001_000010_00000001 = some (.sub 3 1 2) ∧
  -- S: op 0x01 ADDI, sd 4, sa 5, imm14 -1
  readAs .s 0b000001_000100_000101_11111111111111 = some (.addi 4 5 (-1)) ∧
  -- A: op 0x02 LD, an 3, sd 7, size 2, sx 1, off 16
  readAs .a 0b00010_0011_000111_010_1_0000000010000 = some (.ld 3 7 2 1 16) ∧
  -- V: idx 5, roff 2, reserved 0
  readAs .v 0b000000101_0010_000 = some (.vh 5 2) ∧
  -- M: class 2, op 0x1 MMODE, rs 1
  readAs .m 0b10_0001_1_0000000000000000000000000 = some (.mmode 1) ∧
  -- X: op 0x02 TWROW, t 3, row 5, vs 9
  readAs .x 0b00010_0011_0000101_000001001_0000000 = some (.twrow 3 5 9) ∧
  -- E: op 0x05 NMFENCE, q 2, bar 0x3FFFF
  readAs .e (0b000101_0010_111111111111111111 * 2 ^ 36) = some (.nmfence 2 0x3FFFF) ∧
  -- T: op 0x01 BARRIVE, sa 6, cnt 1
  readAs .t 0b000001_000110_000000000001_00000000 = some (.barrive 6 1)

/-- R74 to R87: every well-formed slot instruction has an encoding of its slot's width, and it decodes to that instruction,
with every operand at every value that the encoding admits. -/
def Obligations.EncodedInstructionsDecodeBack : Prop :=
  ∀ (i : Instr) (sl : Slot), i.slot = some sl → i.wf = true →
    ∃ w, encode i = some w ∧ w < 2 ^ (8 * slotBytes sl) ∧ decodeSlot sl w = .ok i

/-- R74 to R87, 00 R7: a slot body that decodes is the encoding of what it decodes to: no two bodies of a slot are one
instruction, and no bit of a body is read by nothing. -/
def Obligations.DecodedBodiesEncodeBack : Prop :=
  ∀ (sl : Slot) (w : Nat) (i : Instr), w < 2 ^ (8 * slotBytes sl) → decodeSlot sl w = .ok i →
    encode i = some w ∧ i.wf = true ∧ i.slot = some sl

/-- 03 R56, R60, R61, 02 R38, 07 R126, 12 R244, 24 R384, 28 R408, R414: what reset leaves. The model's choices, where the
manual gives no value: the registers s and a, the program counter, TASKID, DEADL, BUDGET and CYC are 0 (assumption logs
1, 2, 4). -/
def Obligations.ResetState : Prop :=
  let s := State.reset
  (∀ k, let c := s.getCtx k
    c.mode = .user ∧ c.status = .idle ∧ c.r.vl = 0 ∧ c.r.vtype = 0 ∧ c.r.fmt = 0x080C ∧ c.r.stat = 0 ∧ c.r.lscale = 0 ∧
    c.r.seed = 0 ∧ c.cr.bused = 0 ∧ c.cr.mfp0 = 0x108 ∧ c.cr.mfp1 = 0x108 ∧ (∀ n, aget 0x7FFE0 c.cr.tshape n = 0x7FFE0) ∧
    c.cr.trapvec = 0 ∧ c.cr.trapcause = 0 ∧ c.cr.trappc = 0 ∧ c.cr.trapinfo = 0 ∧ c.cr.rqcount = 0 ∧ c.cr.vwin = 0 ∧
    c.cr.twin = 0 ∧ (∀ n, aget false c.hcwGood n = false) ∧ c.watch.st = .idle ∧ c.pend.ldq = [] ∧ c.pend.sdq = [] ∧
    c.loops.levels = [] ∧ c.hist = [] ∧
    (∀ n, aget 0 c.r.s n = 0 ∧ aget 0 c.r.a n = 0) ∧ c.pc = 0 ∧ c.cr.taskid = 0 ∧ c.cr.deadl = 0 ∧ c.cr.budget = 0) ∧
  (∀ c, let co := s.getCore c
    (∀ a, aget zeroByte co.sram a = 0) ∧ (∀ w, aget false co.fe w = false) ∧ (∀ o, co.modeAt o = .scratch) ∧
    (∀ r, aget 0 co.vregs r = 0) ∧ (∀ a, aget zeroByte co.tiles a = 0) ∧ co.arr.claim = none ∧ co.arr.rs = false ∧
    (∀ q, co.queue q = []) ∧ ∀ g, (aget GroupSlot.reset co.groups g).st = .empty) ∧
  (∀ p, let q := s.getPart p
    q.formed = false ∧ q.ptroot = 0 ∧ q.savebase = 0 ∧ q.pbound = 200 ∧ q.slack = 0x1000 ∧ q.preState = 0 ∧ q.hvState = 0 ∧
    q.misscnt = 0) ∧
  (∀ a, aget zeroByte s.mem a = 0) ∧ Memory.wf s.mem = true ∧ (∀ l, aget false s.poison l = false) ∧
  (∀ n, (s.getPort n).st = 0) ∧ s.rating = 12 ∧ s.cap = 12 ∧ s.limit = 2000 ∧ s.power = true ∧ s.cyc = 0

/-- R134 to R139, R57: what a scalar instruction that completes may change: its destination register, the entries that the
queue port took from LDQ, and the entry it gave to SDQ. Every other register, flag, control and special register, the
array, SRAM and every byte of memory are as before. -/
def Obligations.ScalarFrame : Prop :=
  ∀ (i : Instr) (s t : State), i.slot = some .s → (∀ sd cr, i ≠ .crr sd cr) → (∀ sa cr, i ≠ .crw sa cr) →
    (∀ sd sa vt, i ≠ .setvl sd sa vt) → exec i s = .next t → t.evt = .none →
    (∀ r : BitVec 6, resultOf i ≠ some r → aget 0 t.ctx.r.s r.toNat = aget 0 s.ctx.r.s r.toNat) ∧
    (∃ k, t.ctx.pend.ldq = s.ctx.pend.ldq.drop k ∧ k ≤ 3) ∧
    (t.ctx.pend.sdq = s.ctx.pend.sdq ∨
      resultOf i = some 62 ∧ ∃ v, t.ctx.pend.sdq = s.ctx.pend.sdq ++ [⟨false, 0, some (.scalar v)⟩]) ∧
    t = { s.clean with
      ctx := { s.ctx with
        r := { s.ctx.r with s := t.ctx.r.s },
        pend := { s.ctx.pend with ldq := t.ctx.pend.ldq, sdq := t.ctx.pend.sdq } } }

/-- 10 R193, R195; 12 R242, R245, R249, R255; 14 R286; 24 R376: a store of known bytes to a page with MS, or to a bank that
holds no view of the task, changes exactly its bytes, lowest first from its address upward; in a scratchpad bank it makes its
words full. A store of a unit of one line to any other page, with no module write on its way: on a core without cache-way banks the
die reads its bytes from there on, and every other byte stays as every die reads it; on a core with such banks, whose other
lines are clean, its line of the L1 holds its bytes, valid and dirty, and the dies read what they read before. -/
def Obligations.StoresChangeTheirBytes : Prop :=
  (∀ (s : State) (c a : Nat) (page : PageAttr) (bs : List Byte), let t := s.writeUnit c (.phys a true page) bs
    agetN zeroByte t.mem a bs.length = bs ∧
    (∀ x, x < a ∨ a + bs.length ≤ x → aget zeroByte t.mem x = aget zeroByte s.mem x) ∧
    (t.readUnit c (.phys a true page) bs.length).1 = bs ∧
    t.ctx.r = s.ctx.r ∧ t.ctx.cr = s.ctx.cr ∧ t.ctx.pend = s.ctx.pend ∧ t.core = s.core ∧ t.parts = s.parts) ∧
  (∀ (s : State) (c a : Nat) (page : PageAttr) (bs : List Byte), bs ≠ [] → a % 128 + bs.length ≤ 128 →
    (∀ e, (s.getDie e).inbox = [] ∧ (s.getDie e).own = []) →
    let t := s.writeUnit c (.phys a false page) bs
    let within := fun (x : Nat) => a ≤ x ∧ x < a + bs.length
    (t.readUnit c (.phys a false page) bs.length).1 = bs ∧
    ((s.getCore c).ways = [] → (∀ x, within x → t.dieByte (dieOf c) x = bs.getD (x - a) 0) ∧
      ∀ e x, ¬ within x → t.dieByte e x = s.dieByte e x) ∧
    ((s.getCore c).ways ≠ [] → (∀ x ∈ (s.getCore c).l1, x.1 ≠ a / 128 → x.2.dirty = 0) →
      (∀ e x, t.dieByte e x = s.dieByte e x) ∧ ∃ l, afind (t.getCore c).l1 (a / 128) = some l ∧
        (∀ x, within x → l.data.getD (x % 128) 0 = bs.getD (x - a) 0 ∧ l.valid.getLsbD (x % 128 / 4) = true ∧
          l.dirty.getLsbD (x % 128 / 4) = true) ∧
        ∀ h i, afind (s.getCore c).l1 (a / 128) = some h → i < 128 → ¬ within (a / 128 * 128 + i) →
          h.valid.getLsbD (i / 4) = true → l.data.getD i 0 = h.data.getD i 0) ∧
    t.ctx.r = s.ctx.r ∧ t.ctx.cr = s.ctx.cr ∧ t.ctx.pend = s.ctx.pend ∧ t.parts = s.parts ∧
    ∀ k, (t.getCore k).sram = (s.getCore k).sram ∧ (t.getCore k).vregs = (s.getCore k).vregs ∧
      (t.getCore k).tiles = (s.getCore k).tiles) ∧
  ∀ (s : State) (c k o : Nat) (bs : List Byte), s.ctx.views = [] → let t := s.writeUnit c (.sram k o) bs
    agetN zeroByte (t.getCore k).sram o bs.length = bs ∧
    (∀ x, x < o ∨ o + bs.length ≤ x → aget zeroByte (t.getCore k).sram x = aget zeroByte (s.getCore k).sram x) ∧
    (∀ x, o ≤ x → x < o + bs.length → (s.getCore k).modeAt x = .scratch →
      aget false (t.getCore k).fe (x / 4) = true) ∧
    t.ctx.r = s.ctx.r ∧ t.ctx.cr = s.ctx.cr ∧ t.ctx.pend = s.ctx.pend ∧ t.mem = s.mem ∧ t.parts = s.parts ∧
    (t.getCore k).vregs = (s.getCore k).vregs ∧ (t.getCore k).tiles = (s.getCore k).tiles

/-- Every step keeps memory in its one form: addresses strictly rising, and no listed byte equal to what an unlisted one
reads as. -/
def Obligations.MemoryStaysCanonical : Prop :=
  ∀ (s t : State), Memory.wf s.mem = true → step s = .next t → Memory.wf t.mem = true

end
end

