-- ==== Sys2Proof/Laws/Cells.lean ====
section
/-! SUPPORT. Sparse data: what a key reads as after each operation, and that every operation keeps the canonical
form. -/

namespace Sys2Proof.Machine

variable {α : Type}

/-! What a key reads as. -/

theorem afind_aput (m : List (Nat × α)) (k j : Nat) (v : α) :
    afind (aput m k v) j = if j = k then some v else afind m j := by
  induction m with
  | nil =>
    by_cases h : k = j
    · subst h; simp [aput, afind]
    · simp [aput, afind, h, Ne.symm h]
  | cons p t ih =>
    obtain ⟨i, w⟩ := p
    by_cases h1 : k < i
    · by_cases h : k = j
      · subst h; simp [aput, afind, h1]
      · simp [aput, afind, h1, h, Ne.symm h]
    · by_cases h2 : k = i
      · subst h2
        by_cases h : k = j
        · subst h; simp [aput, afind]
        · simp [aput, afind, h, Ne.symm h]
      · by_cases h : i = j
        · subst h; simp [aput, afind, h1, h2, Ne.symm h2]
        · simp [aput, afind, h1, h2, h, ih]

theorem afind_adel (m : List (Nat × α)) (k j : Nat) :
    afind (adel m k) j = if j = k then none else afind m j := by
  induction m with
  | nil => simp [adel, afind]
  | cons p t ih =>
    obtain ⟨i, w⟩ := p
    by_cases h : i = k
    · subst h
      by_cases hj : i = j
      · subst hj; simp [adel, ih]
      · simp [adel, afind, ih, hj, Ne.symm hj]
    · by_cases hj : i = j
      · subst hj; simp [adel, afind, h]
      · simp [adel, afind, h, hj, ih]

theorem aget_aput (d : α) (m : List (Nat × α)) (k j : Nat) (v : α) :
    aget d (aput m k v) j = if j = k then v else aget d m j := by
  unfold aget; rw [afind_aput]; split <;> rfl

theorem aget_adel (d : α) (m : List (Nat × α)) (k j : Nat) :
    aget d (adel m k) j = if j = k then d else aget d m j := by
  unfold aget; rw [afind_adel]; split <;> rfl

theorem aget_aset [DecidableEq α] (d : α) (m : List (Nat × α)) (k j : Nat) (v : α) :
    aget d (aset d m k v) j = if j = k then v else aget d m j := by
  unfold aset
  by_cases h : v = d
  · rw [if_pos h, aget_adel]; simp [h]
  · rw [if_neg h, aget_aput]

@[simp] theorem aget_aset_same [DecidableEq α] (d : α) (m : List (Nat × α)) (k : Nat) (v : α) :
    aget d (aset d m k v) k = v := by simp [aget_aset]

theorem aget_aset_ne [DecidableEq α] (d : α) (m : List (Nat × α)) {k j : Nat} (v : α) (h : j ≠ k) :
    aget d (aset d m k v) j = aget d m j := by simp [aget_aset, h]

@[simp] theorem aget_nil (d : α) (k : Nat) : aget d [] k = d := rfl

/-- A key outside the written run reads as before. -/
theorem aget_asetN_out [DecidableEq α] (d : α) (vs : List α) :
    ∀ (m : List (Nat × α)) (k j : Nat), j < k ∨ k + vs.length ≤ j → aget d (asetN d m k vs) j = aget d m j := by
  induction vs with
  | nil => intros; rfl
  | cons v t ih =>
    intro m k j h
    simp only [List.length_cons] at h
    rw [asetN, ih _ _ _ (by omega), aget_aset_ne _ _ _ (by omega)]

/-- A key inside the written run reads as written. -/
theorem aget_asetN_in [DecidableEq α] (d : α) (vs : List α) :
    ∀ (m : List (Nat × α)) (k i : Nat), i < vs.length → aget d (asetN d m k vs) (k + i) = vs.getD i d := by
  induction vs with
  | nil => intro m k i h; simp at h
  | cons v t ih =>
    intro m k i h
    rw [asetN]
    cases i with
    | zero => rw [aget_asetN_out _ _ _ _ _ (by omega)]; simp
    | succ i =>
      simp only [List.length_cons] at h
      have := ih (aset d m k v) (k + 1) i (by omega)
      rw [show k + (i + 1) = k + 1 + i by omega, this]; simp

@[simp] theorem length_agetN (d : α) (m : List (Nat × α)) : ∀ (n k : Nat), (agetN d m k n).length = n
  | 0, _ => rfl
  | n + 1, k => by simp [agetN, length_agetN d m n (k + 1)]

/-- Runs that agree key by key are the same run. -/
theorem agetN_congr (d : α) (m m' : List (Nat × α)) :
    ∀ (n k : Nat), (∀ i, i < n → aget d m (k + i) = aget d m' (k + i)) → agetN d m k n = agetN d m' k n
  | 0, _, _ => rfl
  | n + 1, k, h => by
    have h0 := h 0 (by omega)
    rw [agetN, agetN, agetN_congr d m m' n (k + 1)
      (fun i hi => by have := h (i + 1) (by omega); rw [show k + 1 + i = k + (i + 1) by omega]; exact this)]
    simpa using h0

/-- A run read where none of it was written is as before. -/
theorem agetN_asetN_out [DecidableEq α] (d : α) (m : List (Nat × α)) (vs : List α) (k j n : Nat)
    (h : j + n ≤ k ∨ k + vs.length ≤ j) : agetN d (asetN d m k vs) j n = agetN d m j n :=
  agetN_congr d _ _ n j (fun i hi => aget_asetN_out d vs m k (j + i) (by omega))

/-- What was written is read back. -/
theorem agetN_asetN_same [DecidableEq α] (d : α) : ∀ (vs : List α) (m : List (Nat × α)) (k : Nat),
    agetN d (asetN d m k vs) k vs.length = vs
  | [], _, _ => rfl
  | v :: t, m, k => by
    rw [List.length_cons, agetN, asetN, agetN_asetN_same d t]
    rw [aget_asetN_out _ _ _ _ _ (by omega)]; simp

/-! The canonical form. -/

/-- Every key of a list exceeds a bound. -/
def aabove (b : Nat) (m : List (Nat × α)) : Prop := ∀ p ∈ m, b < p.1

theorem awf_cons [DecidableEq α] (d : α) (k : Nat) (v : α) (t : List (Nat × α)) :
    awf d ((k, v) :: t) = true ↔ v ≠ d ∧ aabove k t ∧ awf d t = true := by
  induction t generalizing k v with
  | nil => simp [awf, aabove]
  | cons p t ih =>
    obtain ⟨i, w⟩ := p
    have h := ih i w
    simp only [awf, Bool.and_eq_true, decide_eq_true_eq, aabove, List.mem_cons, forall_eq_or_imp]
    constructor
    · rintro ⟨⟨h1, h2⟩, h3⟩
      refine ⟨h1, ⟨h2, fun p hp => ?_⟩, h3⟩
      exact Nat.lt_trans h2 ((h.1 h3).2.1 p hp)
    · rintro ⟨h1, ⟨h2, _⟩, h3⟩
      exact ⟨⟨h1, h2⟩, h3⟩

theorem aabove_aput {m : List (Nat × α)} {b k : Nat} {v : α} (h : aabove b m) (hk : b < k) :
    aabove b (aput m k v) := by
  induction m with
  | nil => intro p hp; simp [aput] at hp; subst hp; exact hk
  | cons p t ih =>
    obtain ⟨i, w⟩ := p
    have hi : b < i := h (i, w) (by simp)
    have ht : aabove b t := fun p hp => h p (by simp [hp])
    unfold aput
    split
    · intro p hp
      simp only [List.mem_cons] at hp
      obtain rfl | rfl | hp := hp
      · exact hk
      · exact hi
      · exact ht p hp
    · split
      · intro p hp
        simp only [List.mem_cons] at hp
        obtain rfl | hp := hp
        · exact hk
        · exact ht p hp
      · intro p hp
        simp only [List.mem_cons] at hp
        obtain rfl | hp := hp
        · exact hi
        · exact ih ht p hp

theorem awf_aput [DecidableEq α] {d : α} {m : List (Nat × α)} (k : Nat) {v : α} (hv : v ≠ d)
    (h : awf d m = true) : awf d (aput m k v) = true := by
  induction m with
  | nil => simpa [aput, awf] using hv
  | cons p t ih =>
    obtain ⟨i, w⟩ := p
    obtain ⟨hw, ha, ht⟩ := (awf_cons d i w t).1 h
    unfold aput
    split
    · rename_i hlt
      refine (awf_cons d k v _).2 ⟨hv, ?_, h⟩
      intro p hp
      simp only [List.mem_cons] at hp
      obtain rfl | hp := hp
      · exact hlt
      · exact Nat.lt_trans hlt (ha p hp)
    · split
      · rename_i _ heq
        subst heq
        exact (awf_cons d k v t).2 ⟨hv, ha, ht⟩
      · exact (awf_cons d i w _).2 ⟨hw, aabove_aput ha (by omega), ih ht⟩

theorem aabove_sub {m n : List (Nat × α)} {b : Nat} (h : aabove b m) (hs : ∀ p ∈ n, p ∈ m) : aabove b n :=
  fun p hp => h p (hs p hp)

theorem mem_adel {m : List (Nat × α)} {k : Nat} {p : Nat × α} (h : p ∈ adel m k) : p ∈ m := by
  induction m with
  | nil => simp [adel] at h
  | cons q t ih =>
    obtain ⟨i, w⟩ := q
    unfold adel at h
    split at h
    · exact List.mem_cons_of_mem _ (ih h)
    · simp only [List.mem_cons] at h ⊢
      obtain h | h := h
      · exact .inl h
      · exact .inr (ih h)

theorem awf_adel [DecidableEq α] {d : α} {m : List (Nat × α)} (k : Nat) (h : awf d m = true) :
    awf d (adel m k) = true := by
  induction m with
  | nil => rfl
  | cons p t ih =>
    obtain ⟨i, w⟩ := p
    obtain ⟨hw, ha, ht⟩ := (awf_cons d i w t).1 h
    unfold adel
    split
    · exact ih ht
    · exact (awf_cons d i w _).2 ⟨hw, aabove_sub ha (fun _ => mem_adel), ih ht⟩

/-- A write keeps the canonical form. -/
theorem awf_aset [DecidableEq α] {d : α} {m : List (Nat × α)} (k : Nat) (v : α) (h : awf d m = true) :
    awf d (aset d m k v) = true := by
  unfold aset
  split
  · exact awf_adel k h
  · exact awf_aput k (by assumption) h

/-- A write of a run keeps the canonical form. -/
theorem awf_asetN [DecidableEq α] {d : α} : ∀ (vs : List α) {m : List (Nat × α)} (k : Nat), awf d m = true →
    awf d (asetN d m k vs) = true
  | [], _, _, h => h
  | v :: vs, _, k, h => awf_asetN vs (k + 1) (awf_aset k v h)

/-- Unlisting by a test keeps the canonical form. -/
theorem awf_filter [DecidableEq α] {d : α} {m : List (Nat × α)} (f : Nat × α → Bool) (h : awf d m = true) :
    awf d (m.filter f) = true := by
  induction m with
  | nil => rfl
  | cons p t ih =>
    obtain ⟨i, w⟩ := p
    obtain ⟨hw, ha, ht⟩ := (awf_cons d i w t).1 h
    rw [List.filter_cons]
    split
    · exact (awf_cons d i w _).2 ⟨hw, aabove_sub ha (fun p hp => (List.mem_filter.1 hp).1), ih ht⟩
    · exact ih ht

/-! Bytes and numbers. -/

@[simp] theorem length_toBytes : ∀ (n v : Nat), (toBytes v n).length = n
  | 0, _ => rfl
  | n + 1, v => by simp [toBytes, length_toBytes n (v / 256)]

/-- A number is the join of its bytes. -/
theorem ofBytes_toBytes : ∀ (n v : Nat), ofBytes (toBytes v n) = v % 256 ^ n
  | 0, v => by simp [toBytes, ofBytes, Nat.mod_one]
  | n + 1, v => by
    have h : 256 ^ (n + 1) = 256 * 256 ^ n := Nat.mul_comm _ _
    rw [toBytes, ofBytes, ofBytes_toBytes n, BitVec.toNat_ofNat, h, Nat.mod_mul]

end Sys2Proof.Machine
end

