-- ==== Sys2Proof/Laws/State.lean ====
section
/-! SUPPORT. One lemma per field and update of the state: what an update leaves, and what it writes. -/

namespace Sys2Proof.Machine

/-! modPend. -/

@[simp] theorem State.modPend_core (s : State) (f : Pending → Pending) : (s.modPend f).core = s.core := rfl
@[simp] theorem State.modPend_coreId (s : State) (f : Pending → Pending) : (s.modPend f).coreId = s.coreId := rfl
@[simp] theorem State.modPend_ctxId (s : State) (f : Pending → Pending) : (s.modPend f).ctxId = s.ctxId := rfl
@[simp] theorem State.modPend_ctxs (s : State) (f : Pending → Pending) : (s.modPend f).ctxs = s.ctxs := rfl
@[simp] theorem State.modPend_cores (s : State) (f : Pending → Pending) : (s.modPend f).cores = s.cores := rfl
@[simp] theorem State.modPend_dies (s : State) (f : Pending → Pending) : (s.modPend f).dies = s.dies := rfl
@[simp] theorem State.modPend_parts (s : State) (f : Pending → Pending) : (s.modPend f).parts = s.parts := rfl
@[simp] theorem State.modPend_mem (s : State) (f : Pending → Pending) : (s.modPend f).mem = s.mem := rfl
@[simp] theorem State.modPend_poison (s : State) (f : Pending → Pending) : (s.modPend f).poison = s.poison := rfl
@[simp] theorem State.modPend_cyc (s : State) (f : Pending → Pending) : (s.modPend f).cyc = s.cyc := rfl
@[simp] theorem State.modPend_cycle (s : State) (f : Pending → Pending) : (s.modPend f).cycle = s.cycle := rfl
@[simp] theorem State.modPend_ports (s : State) (f : Pending → Pending) : (s.modPend f).ports = s.ports := rfl
@[simp] theorem State.modPend_out (s : State) (f : Pending → Pending) : (s.modPend f).out = s.out := rfl
@[simp] theorem State.modPend_wire (s : State) (f : Pending → Pending) : (s.modPend f).wire = s.wire := rfl
@[simp] theorem State.modPend_rating (s : State) (f : Pending → Pending) : (s.modPend f).rating = s.rating := rfl
@[simp] theorem State.modPend_power (s : State) (f : Pending → Pending) : (s.modPend f).power = s.power := rfl
@[simp] theorem State.modPend_tick (s : State) (f : Pending → Pending) : (s.modPend f).tick = s.tick := rfl
@[simp] theorem State.modPend_agenda (s : State) (f : Pending → Pending) : (s.modPend f).agenda = s.agenda := rfl
@[simp] theorem State.modPend_evt (s : State) (f : Pending → Pending) : (s.modPend f).evt = s.evt := rfl
@[simp] theorem State.modPend_latch (s : State) (f : Pending → Pending) : (s.modPend f).latch = s.latch := rfl
@[simp] theorem State.modPend_ctx_pc (s : State) (f : Pending → Pending) : (s.modPend f).ctx.pc = s.ctx.pc := rfl
@[simp] theorem State.modPend_ctx_npc (s : State) (f : Pending → Pending) : (s.modPend f).ctx.npc = s.ctx.npc := rfl
@[simp] theorem State.modPend_ctx_mode (s : State) (f : Pending → Pending) : (s.modPend f).ctx.mode = s.ctx.mode := rfl
@[simp] theorem State.modPend_ctx_r (s : State) (f : Pending → Pending) : (s.modPend f).ctx.r = s.ctx.r := rfl
@[simp] theorem State.modPend_ctx_cr (s : State) (f : Pending → Pending) : (s.modPend f).ctx.cr = s.ctx.cr := rfl
@[simp] theorem State.modPend_ctx_gens (s : State) (f : Pending → Pending) : (s.modPend f).ctx.gens = s.ctx.gens := rfl
@[simp] theorem State.modPend_ctx_fetched (s : State) (f : Pending → Pending) : (s.modPend f).ctx.fetched = s.ctx.fetched := rfl
@[simp] theorem State.modPend_ctx_loops (s : State) (f : Pending → Pending) : (s.modPend f).ctx.loops = s.ctx.loops := rfl
@[simp] theorem State.modPend_ctx_loopsHandler (s : State) (f : Pending → Pending) : (s.modPend f).ctx.loopsHandler = s.ctx.loopsHandler := rfl
@[simp] theorem State.modPend_ctx_hist (s : State) (f : Pending → Pending) : (s.modPend f).ctx.hist = s.ctx.hist := rfl
@[simp] theorem State.modPend_ctx_streams (s : State) (f : Pending → Pending) : (s.modPend f).ctx.streams = s.ctx.streams := rfl
@[simp] theorem State.modPend_ctx_hcw (s : State) (f : Pending → Pending) : (s.modPend f).ctx.hcw = s.ctx.hcw := rfl
@[simp] theorem State.modPend_ctx_hcwGood (s : State) (f : Pending → Pending) : (s.modPend f).ctx.hcwGood = s.ctx.hcwGood := rfl
@[simp] theorem State.modPend_ctx_nest (s : State) (f : Pending → Pending) : (s.modPend f).ctx.nest = s.ctx.nest := rfl
@[simp] theorem State.modPend_ctx_watch (s : State) (f : Pending → Pending) : (s.modPend f).ctx.watch = s.ctx.watch := rfl
@[simp] theorem State.modPend_ctx_deferred (s : State) (f : Pending → Pending) : (s.modPend f).ctx.deferred = s.ctx.deferred := rfl
@[simp] theorem State.modPend_ctx_views (s : State) (f : Pending → Pending) : (s.modPend f).ctx.views = s.ctx.views := rfl
@[simp] theorem State.modPend_ctx_status (s : State) (f : Pending → Pending) : (s.modPend f).ctx.status = s.ctx.status := rfl
@[simp] theorem State.modPend_ctx_frame (s : State) (f : Pending → Pending) : (s.modPend f).ctx.frame = s.ctx.frame := rfl
@[simp] theorem State.modPend_ctx_part (s : State) (f : Pending → Pending) : (s.modPend f).ctx.part = s.ctx.part := rfl

/-! modRegs. -/

@[simp] theorem State.modRegs_core (s : State) (f : Regs → Regs) : (s.modRegs f).core = s.core := rfl
@[simp] theorem State.modRegs_coreId (s : State) (f : Regs → Regs) : (s.modRegs f).coreId = s.coreId := rfl
@[simp] theorem State.modRegs_ctxId (s : State) (f : Regs → Regs) : (s.modRegs f).ctxId = s.ctxId := rfl
@[simp] theorem State.modRegs_ctxs (s : State) (f : Regs → Regs) : (s.modRegs f).ctxs = s.ctxs := rfl
@[simp] theorem State.modRegs_cores (s : State) (f : Regs → Regs) : (s.modRegs f).cores = s.cores := rfl
@[simp] theorem State.modRegs_dies (s : State) (f : Regs → Regs) : (s.modRegs f).dies = s.dies := rfl
@[simp] theorem State.modRegs_parts (s : State) (f : Regs → Regs) : (s.modRegs f).parts = s.parts := rfl
@[simp] theorem State.modRegs_mem (s : State) (f : Regs → Regs) : (s.modRegs f).mem = s.mem := rfl
@[simp] theorem State.modRegs_poison (s : State) (f : Regs → Regs) : (s.modRegs f).poison = s.poison := rfl
@[simp] theorem State.modRegs_cyc (s : State) (f : Regs → Regs) : (s.modRegs f).cyc = s.cyc := rfl
@[simp] theorem State.modRegs_cycle (s : State) (f : Regs → Regs) : (s.modRegs f).cycle = s.cycle := rfl
@[simp] theorem State.modRegs_ports (s : State) (f : Regs → Regs) : (s.modRegs f).ports = s.ports := rfl
@[simp] theorem State.modRegs_out (s : State) (f : Regs → Regs) : (s.modRegs f).out = s.out := rfl
@[simp] theorem State.modRegs_wire (s : State) (f : Regs → Regs) : (s.modRegs f).wire = s.wire := rfl
@[simp] theorem State.modRegs_rating (s : State) (f : Regs → Regs) : (s.modRegs f).rating = s.rating := rfl
@[simp] theorem State.modRegs_power (s : State) (f : Regs → Regs) : (s.modRegs f).power = s.power := rfl
@[simp] theorem State.modRegs_tick (s : State) (f : Regs → Regs) : (s.modRegs f).tick = s.tick := rfl
@[simp] theorem State.modRegs_agenda (s : State) (f : Regs → Regs) : (s.modRegs f).agenda = s.agenda := rfl
@[simp] theorem State.modRegs_evt (s : State) (f : Regs → Regs) : (s.modRegs f).evt = s.evt := rfl
@[simp] theorem State.modRegs_latch (s : State) (f : Regs → Regs) : (s.modRegs f).latch = s.latch := rfl
@[simp] theorem State.modRegs_ctx_pc (s : State) (f : Regs → Regs) : (s.modRegs f).ctx.pc = s.ctx.pc := rfl
@[simp] theorem State.modRegs_ctx_npc (s : State) (f : Regs → Regs) : (s.modRegs f).ctx.npc = s.ctx.npc := rfl
@[simp] theorem State.modRegs_ctx_mode (s : State) (f : Regs → Regs) : (s.modRegs f).ctx.mode = s.ctx.mode := rfl
@[simp] theorem State.modRegs_ctx_cr (s : State) (f : Regs → Regs) : (s.modRegs f).ctx.cr = s.ctx.cr := rfl
@[simp] theorem State.modRegs_ctx_gens (s : State) (f : Regs → Regs) : (s.modRegs f).ctx.gens = s.ctx.gens := rfl
@[simp] theorem State.modRegs_ctx_fetched (s : State) (f : Regs → Regs) : (s.modRegs f).ctx.fetched = s.ctx.fetched := rfl
@[simp] theorem State.modRegs_ctx_loops (s : State) (f : Regs → Regs) : (s.modRegs f).ctx.loops = s.ctx.loops := rfl
@[simp] theorem State.modRegs_ctx_loopsHandler (s : State) (f : Regs → Regs) : (s.modRegs f).ctx.loopsHandler = s.ctx.loopsHandler := rfl
@[simp] theorem State.modRegs_ctx_hist (s : State) (f : Regs → Regs) : (s.modRegs f).ctx.hist = s.ctx.hist := rfl
@[simp] theorem State.modRegs_ctx_pend (s : State) (f : Regs → Regs) : (s.modRegs f).ctx.pend = s.ctx.pend := rfl
@[simp] theorem State.modRegs_ctx_streams (s : State) (f : Regs → Regs) : (s.modRegs f).ctx.streams = s.ctx.streams := rfl
@[simp] theorem State.modRegs_ctx_hcw (s : State) (f : Regs → Regs) : (s.modRegs f).ctx.hcw = s.ctx.hcw := rfl
@[simp] theorem State.modRegs_ctx_hcwGood (s : State) (f : Regs → Regs) : (s.modRegs f).ctx.hcwGood = s.ctx.hcwGood := rfl
@[simp] theorem State.modRegs_ctx_nest (s : State) (f : Regs → Regs) : (s.modRegs f).ctx.nest = s.ctx.nest := rfl
@[simp] theorem State.modRegs_ctx_watch (s : State) (f : Regs → Regs) : (s.modRegs f).ctx.watch = s.ctx.watch := rfl
@[simp] theorem State.modRegs_ctx_deferred (s : State) (f : Regs → Regs) : (s.modRegs f).ctx.deferred = s.ctx.deferred := rfl
@[simp] theorem State.modRegs_ctx_views (s : State) (f : Regs → Regs) : (s.modRegs f).ctx.views = s.ctx.views := rfl
@[simp] theorem State.modRegs_ctx_status (s : State) (f : Regs → Regs) : (s.modRegs f).ctx.status = s.ctx.status := rfl
@[simp] theorem State.modRegs_ctx_frame (s : State) (f : Regs → Regs) : (s.modRegs f).ctx.frame = s.ctx.frame := rfl
@[simp] theorem State.modRegs_ctx_part (s : State) (f : Regs → Regs) : (s.modRegs f).ctx.part = s.ctx.part := rfl

/-! modCtrl. -/

@[simp] theorem State.modCtrl_core (s : State) (f : CtrlRegs → CtrlRegs) : (s.modCtrl f).core = s.core := rfl
@[simp] theorem State.modCtrl_coreId (s : State) (f : CtrlRegs → CtrlRegs) : (s.modCtrl f).coreId = s.coreId := rfl
@[simp] theorem State.modCtrl_ctxId (s : State) (f : CtrlRegs → CtrlRegs) : (s.modCtrl f).ctxId = s.ctxId := rfl
@[simp] theorem State.modCtrl_ctxs (s : State) (f : CtrlRegs → CtrlRegs) : (s.modCtrl f).ctxs = s.ctxs := rfl
@[simp] theorem State.modCtrl_cores (s : State) (f : CtrlRegs → CtrlRegs) : (s.modCtrl f).cores = s.cores := rfl
@[simp] theorem State.modCtrl_dies (s : State) (f : CtrlRegs → CtrlRegs) : (s.modCtrl f).dies = s.dies := rfl
@[simp] theorem State.modCtrl_parts (s : State) (f : CtrlRegs → CtrlRegs) : (s.modCtrl f).parts = s.parts := rfl
@[simp] theorem State.modCtrl_mem (s : State) (f : CtrlRegs → CtrlRegs) : (s.modCtrl f).mem = s.mem := rfl
@[simp] theorem State.modCtrl_poison (s : State) (f : CtrlRegs → CtrlRegs) : (s.modCtrl f).poison = s.poison := rfl
@[simp] theorem State.modCtrl_cyc (s : State) (f : CtrlRegs → CtrlRegs) : (s.modCtrl f).cyc = s.cyc := rfl
@[simp] theorem State.modCtrl_cycle (s : State) (f : CtrlRegs → CtrlRegs) : (s.modCtrl f).cycle = s.cycle := rfl
@[simp] theorem State.modCtrl_ports (s : State) (f : CtrlRegs → CtrlRegs) : (s.modCtrl f).ports = s.ports := rfl
@[simp] theorem State.modCtrl_out (s : State) (f : CtrlRegs → CtrlRegs) : (s.modCtrl f).out = s.out := rfl
@[simp] theorem State.modCtrl_wire (s : State) (f : CtrlRegs → CtrlRegs) : (s.modCtrl f).wire = s.wire := rfl
@[simp] theorem State.modCtrl_rating (s : State) (f : CtrlRegs → CtrlRegs) : (s.modCtrl f).rating = s.rating := rfl
@[simp] theorem State.modCtrl_power (s : State) (f : CtrlRegs → CtrlRegs) : (s.modCtrl f).power = s.power := rfl
@[simp] theorem State.modCtrl_tick (s : State) (f : CtrlRegs → CtrlRegs) : (s.modCtrl f).tick = s.tick := rfl
@[simp] theorem State.modCtrl_agenda (s : State) (f : CtrlRegs → CtrlRegs) : (s.modCtrl f).agenda = s.agenda := rfl
@[simp] theorem State.modCtrl_evt (s : State) (f : CtrlRegs → CtrlRegs) : (s.modCtrl f).evt = s.evt := rfl
@[simp] theorem State.modCtrl_latch (s : State) (f : CtrlRegs → CtrlRegs) : (s.modCtrl f).latch = s.latch := rfl
@[simp] theorem State.modCtrl_ctx_pc (s : State) (f : CtrlRegs → CtrlRegs) : (s.modCtrl f).ctx.pc = s.ctx.pc := rfl
@[simp] theorem State.modCtrl_ctx_npc (s : State) (f : CtrlRegs → CtrlRegs) : (s.modCtrl f).ctx.npc = s.ctx.npc := rfl
@[simp] theorem State.modCtrl_ctx_mode (s : State) (f : CtrlRegs → CtrlRegs) : (s.modCtrl f).ctx.mode = s.ctx.mode := rfl
@[simp] theorem State.modCtrl_ctx_r (s : State) (f : CtrlRegs → CtrlRegs) : (s.modCtrl f).ctx.r = s.ctx.r := rfl
@[simp] theorem State.modCtrl_ctx_gens (s : State) (f : CtrlRegs → CtrlRegs) : (s.modCtrl f).ctx.gens = s.ctx.gens := rfl
@[simp] theorem State.modCtrl_ctx_fetched (s : State) (f : CtrlRegs → CtrlRegs) : (s.modCtrl f).ctx.fetched = s.ctx.fetched := rfl
@[simp] theorem State.modCtrl_ctx_loops (s : State) (f : CtrlRegs → CtrlRegs) : (s.modCtrl f).ctx.loops = s.ctx.loops := rfl
@[simp] theorem State.modCtrl_ctx_loopsHandler (s : State) (f : CtrlRegs → CtrlRegs) : (s.modCtrl f).ctx.loopsHandler = s.ctx.loopsHandler := rfl
@[simp] theorem State.modCtrl_ctx_hist (s : State) (f : CtrlRegs → CtrlRegs) : (s.modCtrl f).ctx.hist = s.ctx.hist := rfl
@[simp] theorem State.modCtrl_ctx_pend (s : State) (f : CtrlRegs → CtrlRegs) : (s.modCtrl f).ctx.pend = s.ctx.pend := rfl
@[simp] theorem State.modCtrl_ctx_streams (s : State) (f : CtrlRegs → CtrlRegs) : (s.modCtrl f).ctx.streams = s.ctx.streams := rfl
@[simp] theorem State.modCtrl_ctx_hcw (s : State) (f : CtrlRegs → CtrlRegs) : (s.modCtrl f).ctx.hcw = s.ctx.hcw := rfl
@[simp] theorem State.modCtrl_ctx_hcwGood (s : State) (f : CtrlRegs → CtrlRegs) : (s.modCtrl f).ctx.hcwGood = s.ctx.hcwGood := rfl
@[simp] theorem State.modCtrl_ctx_nest (s : State) (f : CtrlRegs → CtrlRegs) : (s.modCtrl f).ctx.nest = s.ctx.nest := rfl
@[simp] theorem State.modCtrl_ctx_watch (s : State) (f : CtrlRegs → CtrlRegs) : (s.modCtrl f).ctx.watch = s.ctx.watch := rfl
@[simp] theorem State.modCtrl_ctx_deferred (s : State) (f : CtrlRegs → CtrlRegs) : (s.modCtrl f).ctx.deferred = s.ctx.deferred := rfl
@[simp] theorem State.modCtrl_ctx_views (s : State) (f : CtrlRegs → CtrlRegs) : (s.modCtrl f).ctx.views = s.ctx.views := rfl
@[simp] theorem State.modCtrl_ctx_status (s : State) (f : CtrlRegs → CtrlRegs) : (s.modCtrl f).ctx.status = s.ctx.status := rfl
@[simp] theorem State.modCtrl_ctx_frame (s : State) (f : CtrlRegs → CtrlRegs) : (s.modCtrl f).ctx.frame = s.ctx.frame := rfl
@[simp] theorem State.modCtrl_ctx_part (s : State) (f : CtrlRegs → CtrlRegs) : (s.modCtrl f).ctx.part = s.ctx.part := rfl

/-! jump. -/

@[simp] theorem State.jump_core (s : State) (n : Word) : (s.jump n).core = s.core := rfl
@[simp] theorem State.jump_coreId (s : State) (n : Word) : (s.jump n).coreId = s.coreId := rfl
@[simp] theorem State.jump_ctxId (s : State) (n : Word) : (s.jump n).ctxId = s.ctxId := rfl
@[simp] theorem State.jump_ctxs (s : State) (n : Word) : (s.jump n).ctxs = s.ctxs := rfl
@[simp] theorem State.jump_cores (s : State) (n : Word) : (s.jump n).cores = s.cores := rfl
@[simp] theorem State.jump_dies (s : State) (n : Word) : (s.jump n).dies = s.dies := rfl
@[simp] theorem State.jump_parts (s : State) (n : Word) : (s.jump n).parts = s.parts := rfl
@[simp] theorem State.jump_mem (s : State) (n : Word) : (s.jump n).mem = s.mem := rfl
@[simp] theorem State.jump_poison (s : State) (n : Word) : (s.jump n).poison = s.poison := rfl
@[simp] theorem State.jump_cyc (s : State) (n : Word) : (s.jump n).cyc = s.cyc := rfl
@[simp] theorem State.jump_cycle (s : State) (n : Word) : (s.jump n).cycle = s.cycle := rfl
@[simp] theorem State.jump_ports (s : State) (n : Word) : (s.jump n).ports = s.ports := rfl
@[simp] theorem State.jump_out (s : State) (n : Word) : (s.jump n).out = s.out := rfl
@[simp] theorem State.jump_wire (s : State) (n : Word) : (s.jump n).wire = s.wire := rfl
@[simp] theorem State.jump_rating (s : State) (n : Word) : (s.jump n).rating = s.rating := rfl
@[simp] theorem State.jump_power (s : State) (n : Word) : (s.jump n).power = s.power := rfl
@[simp] theorem State.jump_tick (s : State) (n : Word) : (s.jump n).tick = s.tick := rfl
@[simp] theorem State.jump_agenda (s : State) (n : Word) : (s.jump n).agenda = s.agenda := rfl
@[simp] theorem State.jump_evt (s : State) (n : Word) : (s.jump n).evt = s.evt := rfl
@[simp] theorem State.jump_latch (s : State) (n : Word) : (s.jump n).latch = s.latch := rfl
@[simp] theorem State.jump_ctx_pc (s : State) (n : Word) : (s.jump n).ctx.pc = s.ctx.pc := rfl
@[simp] theorem State.jump_ctx_mode (s : State) (n : Word) : (s.jump n).ctx.mode = s.ctx.mode := rfl
@[simp] theorem State.jump_ctx_r (s : State) (n : Word) : (s.jump n).ctx.r = s.ctx.r := rfl
@[simp] theorem State.jump_ctx_cr (s : State) (n : Word) : (s.jump n).ctx.cr = s.ctx.cr := rfl
@[simp] theorem State.jump_ctx_gens (s : State) (n : Word) : (s.jump n).ctx.gens = s.ctx.gens := rfl
@[simp] theorem State.jump_ctx_fetched (s : State) (n : Word) : (s.jump n).ctx.fetched = s.ctx.fetched := rfl
@[simp] theorem State.jump_ctx_loops (s : State) (n : Word) : (s.jump n).ctx.loops = s.ctx.loops := rfl
@[simp] theorem State.jump_ctx_loopsHandler (s : State) (n : Word) : (s.jump n).ctx.loopsHandler = s.ctx.loopsHandler := rfl
@[simp] theorem State.jump_ctx_hist (s : State) (n : Word) : (s.jump n).ctx.hist = s.ctx.hist := rfl
@[simp] theorem State.jump_ctx_pend (s : State) (n : Word) : (s.jump n).ctx.pend = s.ctx.pend := rfl
@[simp] theorem State.jump_ctx_streams (s : State) (n : Word) : (s.jump n).ctx.streams = s.ctx.streams := rfl
@[simp] theorem State.jump_ctx_hcw (s : State) (n : Word) : (s.jump n).ctx.hcw = s.ctx.hcw := rfl
@[simp] theorem State.jump_ctx_hcwGood (s : State) (n : Word) : (s.jump n).ctx.hcwGood = s.ctx.hcwGood := rfl
@[simp] theorem State.jump_ctx_nest (s : State) (n : Word) : (s.jump n).ctx.nest = s.ctx.nest := rfl
@[simp] theorem State.jump_ctx_watch (s : State) (n : Word) : (s.jump n).ctx.watch = s.ctx.watch := rfl
@[simp] theorem State.jump_ctx_deferred (s : State) (n : Word) : (s.jump n).ctx.deferred = s.ctx.deferred := rfl
@[simp] theorem State.jump_ctx_views (s : State) (n : Word) : (s.jump n).ctx.views = s.ctx.views := rfl
@[simp] theorem State.jump_ctx_status (s : State) (n : Word) : (s.jump n).ctx.status = s.ctx.status := rfl
@[simp] theorem State.jump_ctx_frame (s : State) (n : Word) : (s.jump n).ctx.frame = s.ctx.frame := rfl
@[simp] theorem State.jump_ctx_part (s : State) (n : Word) : (s.jump n).ctx.part = s.ctx.part := rfl

/-! modArr. -/

@[simp] theorem State.modArr_ctx (s : State) (f : ArrayUnit → ArrayUnit) : (s.modArr f).ctx = s.ctx := rfl
@[simp] theorem State.modArr_coreId (s : State) (f : ArrayUnit → ArrayUnit) : (s.modArr f).coreId = s.coreId := rfl
@[simp] theorem State.modArr_ctxId (s : State) (f : ArrayUnit → ArrayUnit) : (s.modArr f).ctxId = s.ctxId := rfl
@[simp] theorem State.modArr_ctxs (s : State) (f : ArrayUnit → ArrayUnit) : (s.modArr f).ctxs = s.ctxs := rfl
@[simp] theorem State.modArr_cores (s : State) (f : ArrayUnit → ArrayUnit) : (s.modArr f).cores = s.cores := rfl
@[simp] theorem State.modArr_dies (s : State) (f : ArrayUnit → ArrayUnit) : (s.modArr f).dies = s.dies := rfl
@[simp] theorem State.modArr_parts (s : State) (f : ArrayUnit → ArrayUnit) : (s.modArr f).parts = s.parts := rfl
@[simp] theorem State.modArr_mem (s : State) (f : ArrayUnit → ArrayUnit) : (s.modArr f).mem = s.mem := rfl
@[simp] theorem State.modArr_poison (s : State) (f : ArrayUnit → ArrayUnit) : (s.modArr f).poison = s.poison := rfl
@[simp] theorem State.modArr_cyc (s : State) (f : ArrayUnit → ArrayUnit) : (s.modArr f).cyc = s.cyc := rfl
@[simp] theorem State.modArr_cycle (s : State) (f : ArrayUnit → ArrayUnit) : (s.modArr f).cycle = s.cycle := rfl
@[simp] theorem State.modArr_ports (s : State) (f : ArrayUnit → ArrayUnit) : (s.modArr f).ports = s.ports := rfl
@[simp] theorem State.modArr_out (s : State) (f : ArrayUnit → ArrayUnit) : (s.modArr f).out = s.out := rfl
@[simp] theorem State.modArr_wire (s : State) (f : ArrayUnit → ArrayUnit) : (s.modArr f).wire = s.wire := rfl
@[simp] theorem State.modArr_rating (s : State) (f : ArrayUnit → ArrayUnit) : (s.modArr f).rating = s.rating := rfl
@[simp] theorem State.modArr_power (s : State) (f : ArrayUnit → ArrayUnit) : (s.modArr f).power = s.power := rfl
@[simp] theorem State.modArr_tick (s : State) (f : ArrayUnit → ArrayUnit) : (s.modArr f).tick = s.tick := rfl
@[simp] theorem State.modArr_agenda (s : State) (f : ArrayUnit → ArrayUnit) : (s.modArr f).agenda = s.agenda := rfl
@[simp] theorem State.modArr_evt (s : State) (f : ArrayUnit → ArrayUnit) : (s.modArr f).evt = s.evt := rfl
@[simp] theorem State.modArr_latch (s : State) (f : ArrayUnit → ArrayUnit) : (s.modArr f).latch = s.latch := rfl

/-! setDie. -/

@[simp] theorem State.setDie_ctx (s : State) (d : Nat) (v : Die) : (s.setDie d v).ctx = s.ctx := rfl
@[simp] theorem State.setDie_core (s : State) (d : Nat) (v : Die) : (s.setDie d v).core = s.core := rfl
@[simp] theorem State.setDie_coreId (s : State) (d : Nat) (v : Die) : (s.setDie d v).coreId = s.coreId := rfl
@[simp] theorem State.setDie_ctxId (s : State) (d : Nat) (v : Die) : (s.setDie d v).ctxId = s.ctxId := rfl
@[simp] theorem State.setDie_ctxs (s : State) (d : Nat) (v : Die) : (s.setDie d v).ctxs = s.ctxs := rfl
@[simp] theorem State.setDie_cores (s : State) (d : Nat) (v : Die) : (s.setDie d v).cores = s.cores := rfl
@[simp] theorem State.setDie_parts (s : State) (d : Nat) (v : Die) : (s.setDie d v).parts = s.parts := rfl
@[simp] theorem State.setDie_mem (s : State) (d : Nat) (v : Die) : (s.setDie d v).mem = s.mem := rfl
@[simp] theorem State.setDie_poison (s : State) (d : Nat) (v : Die) : (s.setDie d v).poison = s.poison := rfl
@[simp] theorem State.setDie_cyc (s : State) (d : Nat) (v : Die) : (s.setDie d v).cyc = s.cyc := rfl
@[simp] theorem State.setDie_cycle (s : State) (d : Nat) (v : Die) : (s.setDie d v).cycle = s.cycle := rfl
@[simp] theorem State.setDie_ports (s : State) (d : Nat) (v : Die) : (s.setDie d v).ports = s.ports := rfl
@[simp] theorem State.setDie_out (s : State) (d : Nat) (v : Die) : (s.setDie d v).out = s.out := rfl
@[simp] theorem State.setDie_wire (s : State) (d : Nat) (v : Die) : (s.setDie d v).wire = s.wire := rfl
@[simp] theorem State.setDie_rating (s : State) (d : Nat) (v : Die) : (s.setDie d v).rating = s.rating := rfl
@[simp] theorem State.setDie_power (s : State) (d : Nat) (v : Die) : (s.setDie d v).power = s.power := rfl
@[simp] theorem State.setDie_tick (s : State) (d : Nat) (v : Die) : (s.setDie d v).tick = s.tick := rfl
@[simp] theorem State.setDie_agenda (s : State) (d : Nat) (v : Die) : (s.setDie d v).agenda = s.agenda := rfl
@[simp] theorem State.setDie_evt (s : State) (d : Nat) (v : Die) : (s.setDie d v).evt = s.evt := rfl
@[simp] theorem State.setDie_latch (s : State) (d : Nat) (v : Die) : (s.setDie d v).latch = s.latch := rfl

/-! setPart. -/

@[simp] theorem State.setPart_ctx (s : State) (p : Nat) (v : Part) : (s.setPart p v).ctx = s.ctx := rfl
@[simp] theorem State.setPart_core (s : State) (p : Nat) (v : Part) : (s.setPart p v).core = s.core := rfl
@[simp] theorem State.setPart_coreId (s : State) (p : Nat) (v : Part) : (s.setPart p v).coreId = s.coreId := rfl
@[simp] theorem State.setPart_ctxId (s : State) (p : Nat) (v : Part) : (s.setPart p v).ctxId = s.ctxId := rfl
@[simp] theorem State.setPart_ctxs (s : State) (p : Nat) (v : Part) : (s.setPart p v).ctxs = s.ctxs := rfl
@[simp] theorem State.setPart_cores (s : State) (p : Nat) (v : Part) : (s.setPart p v).cores = s.cores := rfl
@[simp] theorem State.setPart_dies (s : State) (p : Nat) (v : Part) : (s.setPart p v).dies = s.dies := rfl
@[simp] theorem State.setPart_mem (s : State) (p : Nat) (v : Part) : (s.setPart p v).mem = s.mem := rfl
@[simp] theorem State.setPart_poison (s : State) (p : Nat) (v : Part) : (s.setPart p v).poison = s.poison := rfl
@[simp] theorem State.setPart_cyc (s : State) (p : Nat) (v : Part) : (s.setPart p v).cyc = s.cyc := rfl
@[simp] theorem State.setPart_cycle (s : State) (p : Nat) (v : Part) : (s.setPart p v).cycle = s.cycle := rfl
@[simp] theorem State.setPart_ports (s : State) (p : Nat) (v : Part) : (s.setPart p v).ports = s.ports := rfl
@[simp] theorem State.setPart_out (s : State) (p : Nat) (v : Part) : (s.setPart p v).out = s.out := rfl
@[simp] theorem State.setPart_wire (s : State) (p : Nat) (v : Part) : (s.setPart p v).wire = s.wire := rfl
@[simp] theorem State.setPart_rating (s : State) (p : Nat) (v : Part) : (s.setPart p v).rating = s.rating := rfl
@[simp] theorem State.setPart_power (s : State) (p : Nat) (v : Part) : (s.setPart p v).power = s.power := rfl
@[simp] theorem State.setPart_tick (s : State) (p : Nat) (v : Part) : (s.setPart p v).tick = s.tick := rfl
@[simp] theorem State.setPart_agenda (s : State) (p : Nat) (v : Part) : (s.setPart p v).agenda = s.agenda := rfl
@[simp] theorem State.setPart_evt (s : State) (p : Nat) (v : Part) : (s.setPart p v).evt = s.evt := rfl
@[simp] theorem State.setPart_latch (s : State) (p : Nat) (v : Part) : (s.setPart p v).latch = s.latch := rfl

/-! setPort. -/

@[simp] theorem State.setPort_ctx (s : State) (n : Nat) (v : Port) : (s.setPort n v).ctx = s.ctx := rfl
@[simp] theorem State.setPort_core (s : State) (n : Nat) (v : Port) : (s.setPort n v).core = s.core := rfl
@[simp] theorem State.setPort_coreId (s : State) (n : Nat) (v : Port) : (s.setPort n v).coreId = s.coreId := rfl
@[simp] theorem State.setPort_ctxId (s : State) (n : Nat) (v : Port) : (s.setPort n v).ctxId = s.ctxId := rfl
@[simp] theorem State.setPort_ctxs (s : State) (n : Nat) (v : Port) : (s.setPort n v).ctxs = s.ctxs := rfl
@[simp] theorem State.setPort_cores (s : State) (n : Nat) (v : Port) : (s.setPort n v).cores = s.cores := rfl
@[simp] theorem State.setPort_dies (s : State) (n : Nat) (v : Port) : (s.setPort n v).dies = s.dies := rfl
@[simp] theorem State.setPort_parts (s : State) (n : Nat) (v : Port) : (s.setPort n v).parts = s.parts := rfl
@[simp] theorem State.setPort_mem (s : State) (n : Nat) (v : Port) : (s.setPort n v).mem = s.mem := rfl
@[simp] theorem State.setPort_poison (s : State) (n : Nat) (v : Port) : (s.setPort n v).poison = s.poison := rfl
@[simp] theorem State.setPort_cyc (s : State) (n : Nat) (v : Port) : (s.setPort n v).cyc = s.cyc := rfl
@[simp] theorem State.setPort_cycle (s : State) (n : Nat) (v : Port) : (s.setPort n v).cycle = s.cycle := rfl
@[simp] theorem State.setPort_out (s : State) (n : Nat) (v : Port) : (s.setPort n v).out = s.out := rfl
@[simp] theorem State.setPort_wire (s : State) (n : Nat) (v : Port) : (s.setPort n v).wire = s.wire := rfl
@[simp] theorem State.setPort_rating (s : State) (n : Nat) (v : Port) : (s.setPort n v).rating = s.rating := rfl
@[simp] theorem State.setPort_power (s : State) (n : Nat) (v : Port) : (s.setPort n v).power = s.power := rfl
@[simp] theorem State.setPort_tick (s : State) (n : Nat) (v : Port) : (s.setPort n v).tick = s.tick := rfl
@[simp] theorem State.setPort_agenda (s : State) (n : Nat) (v : Port) : (s.setPort n v).agenda = s.agenda := rfl
@[simp] theorem State.setPort_evt (s : State) (n : Nat) (v : Port) : (s.setPort n v).evt = s.evt := rfl
@[simp] theorem State.setPort_latch (s : State) (n : Nat) (v : Port) : (s.setPort n v).latch = s.latch := rfl

/-! post. -/

@[simp] theorem State.post_ctx (s : State) (n vc k : Nat) (b : List Word) : (s.post n vc k b).ctx = s.ctx := rfl
@[simp] theorem State.post_core (s : State) (n vc k : Nat) (b : List Word) : (s.post n vc k b).core = s.core := rfl
@[simp] theorem State.post_coreId (s : State) (n vc k : Nat) (b : List Word) : (s.post n vc k b).coreId = s.coreId := rfl
@[simp] theorem State.post_ctxId (s : State) (n vc k : Nat) (b : List Word) : (s.post n vc k b).ctxId = s.ctxId := rfl
@[simp] theorem State.post_ctxs (s : State) (n vc k : Nat) (b : List Word) : (s.post n vc k b).ctxs = s.ctxs := rfl
@[simp] theorem State.post_cores (s : State) (n vc k : Nat) (b : List Word) : (s.post n vc k b).cores = s.cores := rfl
@[simp] theorem State.post_dies (s : State) (n vc k : Nat) (b : List Word) : (s.post n vc k b).dies = s.dies := rfl
@[simp] theorem State.post_parts (s : State) (n vc k : Nat) (b : List Word) : (s.post n vc k b).parts = s.parts := rfl
@[simp] theorem State.post_mem (s : State) (n vc k : Nat) (b : List Word) : (s.post n vc k b).mem = s.mem := rfl
@[simp] theorem State.post_poison (s : State) (n vc k : Nat) (b : List Word) : (s.post n vc k b).poison = s.poison := rfl
@[simp] theorem State.post_cyc (s : State) (n vc k : Nat) (b : List Word) : (s.post n vc k b).cyc = s.cyc := rfl
@[simp] theorem State.post_cycle (s : State) (n vc k : Nat) (b : List Word) : (s.post n vc k b).cycle = s.cycle := rfl
@[simp] theorem State.post_ports (s : State) (n vc k : Nat) (b : List Word) : (s.post n vc k b).ports = s.ports := rfl
@[simp] theorem State.post_wire (s : State) (n vc k : Nat) (b : List Word) : (s.post n vc k b).wire = s.wire := rfl
@[simp] theorem State.post_rating (s : State) (n vc k : Nat) (b : List Word) : (s.post n vc k b).rating = s.rating := rfl
@[simp] theorem State.post_power (s : State) (n vc k : Nat) (b : List Word) : (s.post n vc k b).power = s.power := rfl
@[simp] theorem State.post_tick (s : State) (n vc k : Nat) (b : List Word) : (s.post n vc k b).tick = s.tick := rfl
@[simp] theorem State.post_agenda (s : State) (n vc k : Nat) (b : List Word) : (s.post n vc k b).agenda = s.agenda := rfl
@[simp] theorem State.post_evt (s : State) (n vc k : Nat) (b : List Word) : (s.post n vc k b).evt = s.evt := rfl
@[simp] theorem State.post_latch (s : State) (n vc k : Nat) (b : List Word) : (s.post n vc k b).latch = s.latch := rfl

/-! passCycle. -/

@[simp] theorem State.passCycle_ctx (s : State) : s.passCycle.ctx = s.ctx := rfl
@[simp] theorem State.passCycle_core (s : State) : s.passCycle.core = s.core := rfl
@[simp] theorem State.passCycle_coreId (s : State) : s.passCycle.coreId = s.coreId := rfl
@[simp] theorem State.passCycle_ctxId (s : State) : s.passCycle.ctxId = s.ctxId := rfl
@[simp] theorem State.passCycle_ctxs (s : State) : s.passCycle.ctxs = s.ctxs := rfl
@[simp] theorem State.passCycle_cores (s : State) : s.passCycle.cores = s.cores := rfl
@[simp] theorem State.passCycle_dies (s : State) : s.passCycle.dies = s.dies := rfl
@[simp] theorem State.passCycle_parts (s : State) : s.passCycle.parts = s.parts := rfl
@[simp] theorem State.passCycle_mem (s : State) : s.passCycle.mem = s.mem := rfl
@[simp] theorem State.passCycle_poison (s : State) : s.passCycle.poison = s.poison := rfl
@[simp] theorem State.passCycle_ports (s : State) : s.passCycle.ports = s.ports := rfl
@[simp] theorem State.passCycle_out (s : State) : s.passCycle.out = s.out := rfl
@[simp] theorem State.passCycle_wire (s : State) : s.passCycle.wire = s.wire := rfl
@[simp] theorem State.passCycle_rating (s : State) : s.passCycle.rating = s.rating := rfl
@[simp] theorem State.passCycle_power (s : State) : s.passCycle.power = s.power := rfl
@[simp] theorem State.passCycle_tick (s : State) : s.passCycle.tick = s.tick := rfl
@[simp] theorem State.passCycle_agenda (s : State) : s.passCycle.agenda = s.agenda := rfl
@[simp] theorem State.passCycle_evt (s : State) : s.passCycle.evt = s.evt := rfl
@[simp] theorem State.passCycle_latch (s : State) : s.passCycle.latch = s.latch := rfl

/-! clean. -/

@[simp] theorem State.clean_ctx (s : State) : s.clean.ctx = s.ctx := rfl
@[simp] theorem State.clean_core (s : State) : s.clean.core = s.core := rfl
@[simp] theorem State.clean_coreId (s : State) : s.clean.coreId = s.coreId := rfl
@[simp] theorem State.clean_ctxId (s : State) : s.clean.ctxId = s.ctxId := rfl
@[simp] theorem State.clean_ctxs (s : State) : s.clean.ctxs = s.ctxs := rfl
@[simp] theorem State.clean_cores (s : State) : s.clean.cores = s.cores := rfl
@[simp] theorem State.clean_dies (s : State) : s.clean.dies = s.dies := rfl
@[simp] theorem State.clean_parts (s : State) : s.clean.parts = s.parts := rfl
@[simp] theorem State.clean_mem (s : State) : s.clean.mem = s.mem := rfl
@[simp] theorem State.clean_poison (s : State) : s.clean.poison = s.poison := rfl
@[simp] theorem State.clean_cyc (s : State) : s.clean.cyc = s.cyc := rfl
@[simp] theorem State.clean_cycle (s : State) : s.clean.cycle = s.cycle := rfl
@[simp] theorem State.clean_ports (s : State) : s.clean.ports = s.ports := rfl
@[simp] theorem State.clean_out (s : State) : s.clean.out = s.out := rfl
@[simp] theorem State.clean_wire (s : State) : s.clean.wire = s.wire := rfl
@[simp] theorem State.clean_rating (s : State) : s.clean.rating = s.rating := rfl
@[simp] theorem State.clean_power (s : State) : s.clean.power = s.power := rfl
@[simp] theorem State.clean_tick (s : State) : s.clean.tick = s.tick := rfl
@[simp] theorem State.clean_agenda (s : State) : s.clean.agenda = s.agenda := rfl
@[simp] theorem State.clean_latch (s : State) : s.clean.latch = s.latch := rfl

/-! What each writes. -/

@[simp] theorem State.modPend_ctx_pend (s : State) (f : Pending → Pending) : (s.modPend f).ctx.pend = f s.ctx.pend := rfl
@[simp] theorem State.modRegs_ctx_r (s : State) (f : Regs → Regs) : (s.modRegs f).ctx.r = f s.ctx.r := rfl
@[simp] theorem State.modCtrl_ctx_cr (s : State) (f : CtrlRegs → CtrlRegs) : (s.modCtrl f).ctx.cr = f s.ctx.cr := rfl
@[simp] theorem State.jump_ctx_npc (s : State) (n : Word) : (s.jump n).ctx.npc = n := rfl
@[simp] theorem State.jump_ctx_xferFrom (s : State) (n : Word) : (s.jump n).ctx.xferFrom = s.ctx.pc := rfl
@[simp] theorem State.modArr_core_arr (s : State) (f : ArrayUnit → ArrayUnit) : (s.modArr f).core.arr = f s.core.arr := rfl
@[simp] theorem State.modArr_core_sram (s : State) (f : ArrayUnit → ArrayUnit) : (s.modArr f).core.sram = s.core.sram := rfl
@[simp] theorem State.modArr_core_vregs (s : State) (f : ArrayUnit → ArrayUnit) : (s.modArr f).core.vregs = s.core.vregs := rfl
@[simp] theorem State.modArr_core_tiles (s : State) (f : ArrayUnit → ArrayUnit) : (s.modArr f).core.tiles = s.core.tiles := rfl
@[simp] theorem State.post_out (s : State) (n vc k : Nat) (b : List Word) :
    (s.post n vc k b).out = s.out ++ [⟨n, vc, k, b, 0⟩] := rfl
@[simp] theorem State.clean_evt (s : State) : s.clean.evt = .none := rfl
@[simp] theorem State.clean_rd (s : State) : s.clean.rd = s.rd := rfl
@[simp] theorem State.clean_readA (s : State) (n : BitVec 4) : s.clean.readA n = s.readA n := rfl
@[simp] theorem State.clean_here (s : State) : s.clean.here = s.here := rfl

/-! Parts of the machine by number. -/

@[simp] theorem State.getPart_setPart (s : State) (p q : Nat) (v : Part) :
    (s.setPart p v).getPart q = if q = p then v else s.getPart q := by
  simp only [State.getPart, State.setPart, aget_aset]
@[simp] theorem State.getDie_setDie (s : State) (d e : Nat) (v : Die) :
    (s.setDie d v).getDie e = if e = d then v else s.getDie e := by
  simp only [State.getDie, State.setDie, aget_aset]
@[simp] theorem State.getPort_setPort (s : State) (p q : Nat) (v : Port) :
    (s.setPort p v).getPort q = if q = p then v else s.getPort q := by
  simp only [State.getPort, State.setPort, aget_aset]
@[simp] theorem State.getCore_setCore (s : State) (c k : Nat) (v : Core) :
    (s.setCore c v).getCore k = if k = c then v else s.getCore k := by
  unfold State.getCore State.setCore
  by_cases hc : c = s.coreId
  · by_cases hk : k = c
    · subst hk; simp [hc]
    · simp [hc ▸ hk, hc]
  · by_cases hk : k = c
    · subst hk; simp [hc]
    · by_cases h : k = s.coreId
      · simp [hc, h]; intro h2; exact absurd h2.symm hc
      · simp [hc, hk, h, aget_aset]
@[simp] theorem State.getCtx_setCtx (s : State) (c k : Nat) (v : Ctx) :
    (s.setCtx c v).getCtx k = if k = c then v else s.getCtx k := by
  unfold State.getCtx State.setCtx
  by_cases hc : c = s.here
  · by_cases hk : k = c
    · subst hk; simp [hc, State.here]
    · have : ¬ k = s.here := hc ▸ hk
      simp only [hc, if_true]
      simp [State.here] at this ⊢
      simp [this]
  · by_cases hk : k = c
    · subst hk; simp only [hc, if_false]; simp [State.here] at hc ⊢; simp [hc]
    · simp only [hc, if_false]
      by_cases h : k = s.here
      · simp [State.here] at h ⊢; simp [h]; intro h2; exact absurd (h.trans h2) hk
      · simp [State.here] at h ⊢; simp [h, aget_aset]

@[simp] theorem State.setCore_mem (s : State) (c : Nat) (v : Core) : (s.setCore c v).mem = s.mem := by
  unfold State.setCore; split <;> rfl
@[simp] theorem State.setCore_ctx (s : State) (c : Nat) (v : Core) : (s.setCore c v).ctx = s.ctx := by
  unfold State.setCore; split <;> rfl
@[simp] theorem State.setCore_coreId (s : State) (c : Nat) (v : Core) : (s.setCore c v).coreId = s.coreId := by
  unfold State.setCore; split <;> rfl
@[simp] theorem State.setCore_parts (s : State) (c : Nat) (v : Core) : (s.setCore c v).parts = s.parts := by
  unfold State.setCore; split <;> rfl
@[simp] theorem State.setCore_dies (s : State) (c : Nat) (v : Core) : (s.setCore c v).dies = s.dies := by
  unfold State.setCore; split <;> rfl
@[simp] theorem State.setCtx_mem (s : State) (k : Nat) (v : Ctx) : (s.setCtx k v).mem = s.mem := by
  unfold State.setCtx; split <;> rfl
@[simp] theorem State.focus_mem (s : State) (c x : Nat) : (s.focus c x).mem = s.mem := by
  unfold State.focus; split <;> rfl
@[simp] theorem State.focus_parts (s : State) (c x : Nat) : (s.focus c x).parts = s.parts := by
  unfold State.focus; split <;> rfl

end Sys2Proof.Machine
end

