-- ==== Sys2Proof/Laws/Memory.lean ====
section
/-! SUPPORT. The operations that write memory keep its one form, and those that write caches, banks, clocks and watches
leave it; what reset holds. -/

namespace Sys2Proof.Machine

theorem reset_mem_wf : Memory.wf State.reset.mem = true := rfl

/-- A property that each pass of a fold keeps holds after it. -/
theorem foldl_keeps {α β : Type} {P : β → Prop} {f : β → α → β} (hf : ∀ b a, P b → P (f b a)) :
    ∀ (l : List α) (b : β), P b → P (l.foldl f b)
  | [], _, h => h
  | a :: l, b, h => foldl_keeps hf l (f b a) (hf b a h)

/-- A fold whose passes leave memory leaves memory. -/
theorem foldl_mem {α : Type} {f : State → α → State} (hf : ∀ s a, (f s a).mem = s.mem) :
    ∀ (l : List α) (s : State), (l.foldl f s).mem = s.mem
  | [], _ => rfl
  | a :: l, s => (foldl_mem hf l (f s a)).trans (hf s a)

/-! Watches, poison and the dies' own bytes leave memory. -/

@[simp] theorem mapWatches_mem (s : State) (p : Nat → Bool) (f : Nat → Watch → Watch) : (s.mapWatches p f).mem = s.mem := rfl
@[simp] theorem notify_mem (s : State) (l : Loc) (d w : Option Nat) : (s.notify l d w).mem = s.mem := rfl

@[simp] theorem modView_mem (s : State) (v : Nat) (f : View → View) : (s.modView v f).mem = s.mem := by
  unfold State.modView; split <;> rfl

@[simp] theorem setMarks_mem (s : State) (ms : List Nat) (b : Bool) : (s.setMarks ms b).mem = s.mem := by
  unfold State.setMarks; split <;> rfl

@[simp] theorem l1Mark_mem (s : State) (c line : Nat) (l : L1Line) (ws : List Nat) (b : Bool) :
    (s.l1Mark c line l ws b).mem = s.mem := by
  unfold State.l1Mark; dsimp only; split <;> simp

@[simp] theorem writebackMarks_mem (s : State) (c line : Nat) (l : L1Line) : (s.writebackMarks c line l).mem = s.mem := by
  unfold State.writebackMarks
  split
  · simp
  · split <;> simp

@[simp] theorem viewTaint_mem (s : State) (p : Nat) (v : View) (i n : Nat) : (s.viewTaint p v i n).1.mem = s.mem := by
  unfold State.viewTaint; split <;> simp

@[simp] theorem viewClean_mem (s : State) (p : Nat) (v : View) (i n : Nat) : (s.viewClean p v i n).1.mem = s.mem := by
  unfold State.viewClean; dsimp only; split <;> simp

@[simp] theorem markBank_mem (s : State) (c o n : Nat) : (s.markBank c o n).mem = s.mem := by simp [State.markBank]
@[simp] theorem setBank_mem (s : State) (c w : Nat) (b : Bool) : (s.setBank c w b).mem = s.mem := by simp [State.setBank]
@[simp] theorem cleanBank_mem (s : State) (c : Nat) (ws : List Nat) : (s.cleanBank c ws).mem = s.mem := by
  unfold State.cleanBank; dsimp only; split <;> simp

@[simp] theorem cleanPoison_mem (s : State) (l : Loc) (n : Nat) : (s.cleanPoison l n).mem = s.mem := by
  unfold State.cleanPoison
  split
  · simp
  · split
    · simp
    · exact (foldl_mem (fun s k => by dsimp only; split <;> simp) _ _).trans (by simp)

@[simp] theorem setPoison_mem (s : State) (l : Loc) (n : Nat) : (s.setPoison l n).mem = s.mem := by
  unfold State.setPoison
  split
  · simp
  · split
    · simp
    · exact (foldl_mem (fun s x => by split <;> simp) _ _).trans (foldl_mem (fun s x => markBank_mem s _ x 1) _ _)

@[simp] theorem freeze_mem (s : State) (pa : Nat) (ex : List Nat) : (s.freeze pa ex).mem = s.mem := by
  refine foldl_mem (fun s d => ?_) _ s
  split
  · rfl
  · dsimp only; split <;> simp

@[simp] theorem thaw_mem (s : State) (d pa : Nat) : (s.thaw d pa).mem = s.mem := by
  unfold State.thaw; dsimp only; split <;> simp

/-! Writes of memory. -/

theorem homeWrite_wf (home src : Nat) : ∀ (bs : List (Nat × Byte)) (s : State), Memory.wf s.mem = true →
    Memory.wf (s.homeWrite home src bs).mem = true
  | [], _, h => h
  | (pa, b) :: t, s, h => by
    refine homeWrite_wf home src t _ ?_
    rw [foldl_mem (fun s d => thaw_mem s d pa)]
    exact awf_aset pa b (by simpa using h)

@[simp] theorem noteOrder_mem (s : State) (w : ModWrite) : (s.noteOrder w).mem = s.mem := rfl
@[simp] theorem trimOrder_mem (s : State) (h : Nat) : (s.trimOrder h).mem = s.mem := rfl

theorem dieWrite_wf (s : State) (d : Nat) (ps : List (Nat × Byte)) (h : Memory.wf s.mem = true) :
    Memory.wf (s.dieWrite d ps).mem = true := by
  unfold State.dieWrite
  have e := fun (w : ModWrite) (s : State) => foldl_mem (f := fun s e =>
    if e = d then s else s.setDie e { s.getDie e with inbox := (s.getDie e).inbox ++ [w] })
    (fun s e => by dsimp only; split <;> simp) [0, 1, 2, 3] s
  dsimp only
  split
  · rw [noteOrder_mem]; exact homeWrite_wf _ _ _ _ (by rw [e]; simpa using h)
  · rw [State.setDie_mem, e]; simpa using h

/-! The L2's tags leave memory. -/

@[simp] theorem evictLine_mem (s : State) (d l : Nat) : (s.evictLine d l).mem = s.mem := by
  unfold State.evictLine; dsimp only; split
  · rfl
  · simp

@[simp] theorem tagRoom_mem (s : State) (d p k l : Nat) : (s.tagRoom d p k l).mem = s.mem := by
  unfold State.tagRoom
  dsimp only
  split
  · rfl
  · split <;> simp

@[simp] theorem entryRoom_mem (s : State) (d p k : Nat) (e : Option Nat) : (s.entryRoom d p k e).mem = s.mem := by
  unfold State.entryRoom
  dsimp only
  split
  · rfl
  · split
    · exact foldl_mem (fun (s : State) (t : Nat × L2Tag) => evictLine_mem s d t.1) _ s
    · rfl

@[simp] theorem ownEntry_mem (s : State) (d l : Nat) (t : L2Tag) : (s.ownEntry d l t).mem = s.mem := by
  simp [State.ownEntry]

@[simp] theorem probe_mem (s : State) (d l : Nat) : (s.probe d l).mem = s.mem := by
  unfold State.probe
  dsimp only
  split
  · rfl
  · split
    · rfl
    · split
      · simp
      · split
        · simp
        · split <;> simp

@[simp] theorem countUse_mem (s : State) (d : Nat) : (s.countUse d).mem = s.mem := rfl

@[simp] theorem l2Touch_mem (s : State) (d l : Nat) (amo : Bool) : (s.l2Touch d l amo).mem = s.mem := by
  unfold State.l2Touch
  dsimp only
  split
  · rfl
  · split <;> simp

@[simp] theorem l2Alloc_mem (s : State) (d p l : Nat) (page : PageAttr) : (s.l2Alloc d p l page).mem = s.mem := by
  unfold State.l2Alloc
  dsimp only
  split <;> simp

/-! Module writes are applied, and lines come to a die. -/

theorem applyWrite_wf (s : State) (d : Nat) (w : ModWrite) (h : Memory.wf s.mem = true) :
    Memory.wf (s.applyWrite d w).mem = true := by
  have key : ∀ (t : State), Memory.wf t.mem = true → Memory.wf (match w.bytes with
      | (pa, _) :: _ =>
        if t.takes d pa then
          (t.l2Touch d (pa / 128) false).notify (.phys pa false .none) (some d) (some (16 * w.src))
        else t
      | [] => t).mem = true := by
    intro t ht
    split
    · split <;> simpa using ht
    · exact ht
  unfold State.applyWrite
  refine key _ ?_
  dsimp only
  rw [trimOrder_mem]
  split
  · rw [noteOrder_mem]; exact homeWrite_wf _ _ _ _ (by simpa using h)
  · split
    · rw [foldl_mem (f := fun (s : State) (p : Nat × Byte) => s.thaw d p.1) (fun s p => thaw_mem s d p.1)]; simpa using h
    · simpa using h

theorem spreadN_wf : ∀ (n : Nat) (s : State) (v ats : List Nat), Memory.wf s.mem = true →
    Memory.wf (s.spreadN v ats n).mem = true
  | 0, _, _, _, h => h
  | n + 1, s, v, ats, h => by
    refine spreadN_wf n _ _ _ (foldl_keeps (P := fun t : State => Memory.wf t.mem = true) (fun t d ht => ?_) _ _ h)
    split
    · exact applyWrite_wf _ _ _ ht
    · exact ht

theorem spread_wf (s : State) (v ats : List Nat) (h : Memory.wf s.mem = true) : Memory.wf (s.spread v ats).mem = true := by
  unfold State.spread
  split
  · exact h
  · exact spreadN_wf _ _ _ _ h

theorem drainWrites_wf (s : State) (h : Memory.wf s.mem = true) : Memory.wf s.drainWrites.mem = true := spread_wf _ _ _ h
theorem drainBytes_wf (s : State) (hit : Nat → Bool) (h : Memory.wf s.mem = true) :
    Memory.wf (s.drainBytes hit).mem = true := spread_wf _ _ _ h
theorem settleHomes_wf (s : State) (d : Nat) (h : Memory.wf s.mem = true) : Memory.wf (s.settleHomes d).mem = true :=
  spread_wf _ _ _ h
theorem requestOrder_wf (s : State) (d k : Nat) (h : Memory.wf s.mem = true) : Memory.wf (s.requestOrder d k).mem = true :=
  spread_wf _ _ _ h

theorem lineFrom_wf (s : State) (d l : Nat) (page : PageAttr) (h : Memory.wf s.mem = true) :
    Memory.wf (s.lineFrom d l page).mem = true := by
  unfold State.lineFrom
  dsimp only
  split
  · exact h
  · rw [State.setDie_mem]; exact spread_wf _ _ _ (requestOrder_wf _ _ _ h)

theorem l2Fill_wf (s : State) (d p l : Nat) (page : PageAttr) (h : Memory.wf s.mem = true) :
    Memory.wf (s.l2Fill d p l page).mem = true := by
  unfold State.l2Fill
  dsimp only
  split
  · simpa using h
  · split <;> simpa using lineFrom_wf _ _ _ _ h

theorem l2Store_wf (s : State) (d p : Nat) (page : PageAttr) (amo : Bool) (ps : List (Nat × Byte)) (h : Memory.wf s.mem = true) :
    Memory.wf (s.l2Store d p page amo ps).mem = true := by
  unfold State.l2Store
  split
  · exact h
  · refine dieWrite_wf _ _ _ ?_
    rw [l2Touch_mem]
    split
    · simpa using h
    · exact l2Fill_wf _ _ _ _ _ h

theorem l2Put_wf (s : State) (d p : Nat) (page : PageAttr) (amo : Bool) (pa : Nat) (bs : List Byte)
    (h : Memory.wf s.mem = true) : Memory.wf (s.l2Put d p page amo pa bs).mem = true :=
  foldl_keeps (P := fun t : State => Memory.wf t.mem = true) (fun t ps ht => l2Store_wf t d p page amo ps ht) _ s h

theorem l2Zero_wf (s : State) (d p l : Nat) (page : PageAttr) (h : Memory.wf s.mem = true) :
    Memory.wf (s.l2Zero d p l page).mem = true := by
  unfold State.l2Zero
  split
  · exact l2Put_wf s d p page false (l * 128) (List.replicate 128 0) h
  · refine dieWrite_wf _ _ _ ?_
    rw [State.setDie_mem]
    split
    · split <;> simpa using h
    · simpa using h

/-! The L1 writes words back. -/

theorem writeLine_wf (s : State) (c l : Nat) (x : L1Line) (h : Memory.wf s.mem = true) :
    Memory.wf (s.writeLine c l x).mem = true := by
  unfold State.writeLine
  split
  · exact h
  · rw [notify_mem, writebackMarks_mem]; exact l2Store_wf _ _ _ _ _ _ h

theorem l1Evict_wf (s : State) (c l : Nat) (h : Memory.wf s.mem = true) : Memory.wf (s.l1Evict c l).mem = true := by
  unfold State.l1Evict
  split
  · exact h
  · simpa using writeLine_wf _ _ _ _ h

theorem l1Release_wf (s : State) (c : Nat) (h : Memory.wf s.mem = true) : Memory.wf (s.l1Release c).mem = true :=
  foldl_keeps (P := fun t : State => Memory.wf t.mem = true)
    (fun t x ht => by simpa using writeLine_wf t c x.1 x.2 ht) _ s h

@[simp] theorem l1Acquire_mem (s : State) (c : Nat) : (s.l1Acquire c).mem = s.mem := by
  unfold State.l1Acquire; dsimp only; split <;> simp

theorem l1Take_wf (s : State) (c l : Nat) (page : PageAttr) (h : Memory.wf s.mem = true) :
    Memory.wf (s.l1Take c l page).2.mem = true := by
  unfold State.l1Take
  dsimp only
  split
  · exact h
  · split
    · exact h
    · exact l1Evict_wf _ _ _ h
    · exact h

theorem l1Line_wf (s : State) (c l : Nat) (page : PageAttr) (fill : Bool) (h : Memory.wf s.mem = true) :
    Memory.wf (s.l1Line c l page fill).2.mem = true := by
  unfold State.l1Line
  dsimp only
  split
  · rw [l1Mark_mem]; exact l2Fill_wf _ _ _ _ _ (l1Take_wf _ _ _ _ h)
  · exact l1Take_wf _ _ _ _ h

@[simp] theorem l1Put_mem (s : State) (c l : Nat) (x : L1Line) : (s.l1Put c l x).mem = s.mem := by
  simp [State.l1Put]

theorem cachedRead_wf (s : State) (c pa n : Nat) (page : PageAttr) (h : Memory.wf s.mem = true) :
    Memory.wf (s.cachedRead c pa n page).2.mem = true := by
  unfold State.cachedRead
  dsimp only
  split
  · exact l2Fill_wf _ _ _ _ _ h
  · rw [l1Put_mem]; exact l1Line_wf _ _ _ _ _ h

theorem cachedWrite_wf (s : State) (c pa : Nat) (bs : List Byte) (page : PageAttr) (h : Memory.wf s.mem = true) :
    Memory.wf (s.cachedWrite c pa bs page).mem = true := by
  unfold State.cachedWrite
  dsimp only
  split
  · rw [notify_mem]; exact l2Put_wf _ _ _ _ _ _ _ h
  · rw [l1Mark_mem, l1Put_mem]; exact l1Line_wf _ _ _ _ _ h

/-! Pages with MS. -/

@[simp] theorem msStamp_mem (s : State) (pa : Nat) (v : List Nat) : (s.msStamp pa v).mem = s.mem := by
  unfold State.msStamp; split <;> rfl

@[simp] theorem msSeen_mem (s : State) (pa : Nat) : (s.msSeen pa).mem = s.mem := by
  unfold State.msSeen; split <;> rfl

@[simp] theorem msWrite_mem (s : State) (pa : Nat) (bs : List Byte) (w : Option Nat) :
    (s.msWrite pa bs w).mem = asetN zeroByte s.mem pa bs := by simp [State.msWrite]

/-! Translation leaves memory. -/

@[simp] theorem coreTlb_mem (s : State) (own : Bool) (p va e sh : Nat) : (s.coreTlb own p va e sh).mem = s.mem := rfl

theorem lookup_mem {s t : State} {p va : Nat} {own : Bool} {e : Nat × Nat} (h : s.lookup p va own = .ok (e, t)) :
    t.mem = s.mem := by
  unfold State.lookup at h
  split at h
  · cases h; rfl
  · dsimp only at h
    split at h
    · cases h; rfl
    · split at h
      · cases h
      · cases h; rfl

theorem translate_mem {s t : State} {p va : Nat} {acc : Acc} {own : Bool} {e : Nat × Nat}
    (h : s.translate p va acc own = .ok (e, t)) : t.mem = s.mem := by
  unfold State.translate at h
  split at h
  · cases h
  · split at h
    · cases h
    · rename_i hl
      split at h
      · cases h; exact lookup_mem hl
      · cases h

/-! Banks leave memory; the bytes of spilled views lie in it. -/

theorem viewPut_wf (s : State) (p : Nat) (v : View) (i : Nat) (b : Byte) (h : Memory.wf s.mem = true) :
    Memory.wf (s.viewPut p v i b).1.mem = true := by
  unfold State.viewPut
  dsimp only
  split
  · rename_i hp
    simp only [State.viewPlace, Option.map_eq_some_iff] at hp
    obtain ⟨va, -, ht⟩ := hp
    have e := translate_mem ht
    split
    · rw [msWrite_mem]; exact awf_asetN _ _ (e ▸ h)
    · rw [notify_mem]; exact l2Put_wf _ _ _ _ _ _ _ (e ▸ h)
  · exact h

theorem sramPut_wf (s : State) (c o : Nat) (b : Byte) (h : Memory.wf s.mem = true) :
    Memory.wf (s.sramPut c o b).mem = true := by
  unfold State.sramPut
  split
  · split
    · rw [modView_mem]; exact viewPut_wf _ _ _ _ _ h
    · exact h
  · rw [State.setCore_mem]; exact h

@[simp] theorem bankWrite_mem (s : State) (c o : Nat) (bs : List Byte) (w : Option Nat) : (s.bankWrite c o bs w).mem = s.mem := by
  simp [State.bankWrite]

theorem sramWrite_wf (s : State) (c o : Nat) (bs : List Byte) (w : Option Nat) (h : Memory.wf s.mem = true) :
    Memory.wf (s.sramWrite c o bs w).mem = true := by
  have e := foldl_keeps (P := fun t : State => Memory.wf t.mem = true)
    (f := fun (s : State) (p : Nat × Byte) => s.sramPut c (o + p.1) p.2) (fun t p ht => sramPut_wf t c _ p.2 ht)
    ((List.range bs.length).zip bs) s h
  unfold State.sramWrite
  dsimp only
  split <;> simpa using e

/-! Units, atomics, pages. -/

theorem readUnit_wf (s : State) (c : Nat) (l : Loc) (n : Nat) (h : Memory.wf s.mem = true) :
    Memory.wf (s.readUnit c l n).2.mem = true := by
  unfold State.readUnit
  split
  · exact h
  · simpa [State.msRead] using h
  · exact cachedRead_wf _ _ _ _ _ h

theorem writeUnit_wf (s : State) (c : Nat) (l : Loc) (bs : List Byte) (h : Memory.wf s.mem = true) :
    Memory.wf (s.writeUnit c l bs).mem = true := by
  unfold State.writeUnit
  split
  · exact sramWrite_wf _ _ _ _ _ h
  · rw [msWrite_mem]; exact awf_asetN bs _ h
  · exact cachedWrite_wf _ _ _ _ _ h

theorem dropCopy_wf (s : State) (l : Nat) (h : Memory.wf s.mem = true) : Memory.wf (s.dropCopy l).mem = true := by
  unfold State.dropCopy
  split
  · exact h
  · exact writeLine_wf _ _ _ _ h

@[simp] theorem noteSeen_mem (s : State) (v : List Nat) : (s.noteSeen v).mem = s.mem := rfl

theorem atomicAt_wf (s : State) (l : Loc) (n : Nat) (f : List Byte → List Byte) (h : Memory.wf s.mem = true) :
    Memory.wf (s.atomicAt l n f).2.mem = true := by
  have put : ∀ (h' d : Nat) (page : PageAttr) (a : Nat) (bs : List Byte) (line : Nat), Memory.wf
      ((((s.dropCopy line).requestOrder d h').l2Put h' ((s.dropCopy line).requestOrder d h').myPart page true a bs)).mem = true :=
    fun h' d page a bs line => l2Put_wf _ _ _ _ _ _ _ (requestOrder_wf _ _ _ (dropCopy_wf _ _ h))
  unfold State.atomicAt
  split
  · exact sramWrite_wf _ _ _ _ _ h
  · rw [msWrite_mem]; exact awf_asetN _ _ (by simpa [State.msRead] using h)
  · dsimp only
    rw [cleanPoison_mem]
    split
    · exact spread_wf _ _ _ (by rw [noteSeen_mem, notify_mem]; exact put _ _ _ _ _ _)
    · rw [noteSeen_mem, notify_mem]; exact put _ _ _ _ _ _

theorem releaseL1_wf (s : State) (n : Nat) (h : Memory.wf s.mem = true) : Memory.wf (s.releaseL1 n).mem = true := by
  have e : Memory.wf (if n ≥ 2 then s.l1Release s.coreId else s).mem = true := by
    split
    · exact l1Release_wf _ _ h
    · exact h
  unfold State.releaseL1
  dsimp only
  split
  · exact settleHomes_wf _ _ e
  · exact e

@[simp] theorem forgetSeen_mem (s : State) : s.forgetSeen.mem = s.mem := rfl

theorem acquire_wf (s : State) (n : Nat) (h : Memory.wf s.mem = true) : Memory.wf (s.acquire n).mem = true := by
  have e : ∀ (t : State) (v ats : List Nat) (b : Prop) [Decidable b], Memory.wf t.mem = true →
      Memory.wf (if b then t.spread v ats else t).mem = true := by
    intro t v ats b _ ht
    split
    · exact spread_wf _ _ _ ht
    · exact ht
  have e3 : Memory.wf (if n ≥ 3 then (s.spread s.ctx.seen [dieOf s.coreId]).forgetSeen else s).mem = true := by
    split
    · exact spread_wf _ _ _ h
    · exact h
  unfold State.acquire
  dsimp only
  split
  · rw [l1Acquire_mem]; exact e _ _ _ _ e3
  · exact e _ _ _ _ e3

theorem fenceDone_wf (s : State) (k n : Nat) (h : Memory.wf s.mem = true) : Memory.wf (s.fenceDone k n).mem = true := by
  unfold State.fenceDone
  dsimp only
  have e : Memory.wf ((if k = 3 && n ≥ 3 then
      s.spread (clockJoin (s.getDie (dieOf s.coreId)).clock s.ctx.seen) [0, 1, 2, 3] else s).acquire n).mem = true := by
    refine acquire_wf _ _ ?_
    split
    · exact spread_wf _ _ _ h
    · exact h
  split <;> exact e

theorem dropLines_wf (s : State) (p a n : Nat) (h : Memory.wf s.mem = true) : Memory.wf (s.dropLines p a n).mem = true := by
  unfold State.dropLines
  refine foldl_keeps (P := fun t : State => Memory.wf t.mem = true) (fun t d ht => ?_) _ _ (drainBytes_wf _ _ ?_)
  · rw [foldl_mem (f := fun (s : State) (l : Nat) => s.evictLine d l) (fun s l => evictLine_mem s d l)]; exact ht
  · exact foldl_keeps (P := fun t : State => Memory.wf t.mem = true) (fun t c ht =>
      foldl_keeps (P := fun t : State => Memory.wf t.mem = true) (fun t l ht => l1Evict_wf t c l ht) _ t ht) _ s h

theorem values_ok {m : List (Nat × Byte)} (h : Memory.wf m = true) : ∀ e ∈ m, e.2 ≠ zeroByte := by
  induction m with
  | nil => simp
  | cons p t ih =>
    obtain ⟨k, v⟩ := p
    rw [Memory.wf, awf_cons] at h
    simp only [List.mem_cons, forall_eq_or_imp]
    exact ⟨h.1, ih h.2.2⟩

theorem moveRange_wf {m : List (Nat × Byte)} (old new n : Nat) (h : Memory.wf m = true) :
    Memory.wf (moveRange m old new n) = true := by
  have key : ∀ (src : List (Nat × Byte)), (∀ e ∈ src, e.2 ≠ zeroByte) → ∀ m, Memory.wf m = true →
      Memory.wf (src.foldl (fun m e => aput m e.1 e.2) m) = true := by
    intro src
    induction src with
    | nil => intro _ m hm; exact hm
    | cons e t ih =>
      intro hs m hm
      exact ih (fun x hx => hs x (List.mem_cons_of_mem _ hx)) _ (awf_aput _ (hs e (List.mem_cons_self ..)) hm)
  refine key _ ?_ _ (awf_filter _ h)
  intro e he
  simp only [List.mem_map, List.mem_filter] at he
  obtain ⟨x, hx, rfl⟩ := he
  exact values_ok h x hx.1

theorem zeroMemory_wf (s : State) (hit : Nat → Bool) (h : Memory.wf s.mem = true) :
    Memory.wf (s.zeroMemory hit).mem = true := by
  unfold State.zeroMemory
  refine awf_filter _ ?_
  rw [foldl_mem (fun s d => State.setDie_mem s d _)]
  exact drainBytes_wf _ _ h

/-! Reads after writes. -/

/-- Bytes written to a page with MS read as written. -/
theorem writeUnit_ms_read (s : State) (c a : Nat) (page : PageAttr) (bs : List Byte) :
    ((s.writeUnit c (.phys a true page) bs).readUnit c (.phys a true page) bs.length).1 = bs := by
  simp only [State.writeUnit, State.readUnit, State.msRead, msWrite_mem]
  exact agetN_asetN_same _ _ _ _

end Sys2Proof.Machine
end

