-- ==== Sys2Proof/Laws/Ops.lean ====
section
/-! SUPPORT. What each shared operation can do, said once: operands, the queue port, translation, the end of an
instruction, and taking an exception when nothing earlier is to come. -/

namespace Sys2Proof.Machine

/-! Sequences. -/

theorem bind_ok {ε α β : Type} {x : Except ε α} {f : α → Except ε β} {b : β} :
    (x >>= f) = .ok b ↔ ∃ a, x = .ok a ∧ f a = .ok b := by
  cases x with
  | error e => exact ⟨fun h => (nomatch h), fun ⟨_, h, _⟩ => (nomatch h)⟩
  | ok a => exact ⟨fun h => ⟨a, rfl, h⟩, fun h => by obtain ⟨c, h, h'⟩ := h; cases h; exact h'⟩

@[simp] theorem ok_bind {ε α β : Type} (a : α) (f : α → Except ε β) : ((Except.ok a : Except ε α) >>= f) = f a := rfl
@[simp] theorem error_bind {ε α β : Type} (e : ε) (f : α → Except ε β) : ((Except.error e : Except ε α) >>= f) = .error e := rfl

theorem require_ok {b : Bool} {e : Stop} : require b e = .ok () ↔ b = true := by
  cases b <;> simp [require]

@[simp] theorem require_true (e : Stop) : require true e = .ok () := rfl
@[simp] theorem require_false (e : Stop) : require false e = .error e := rfl

/-! How an instruction ends. -/

theorem run_ok {f : State → Except Stop State} {s t : State} (h : f s.clean = .ok t) : run f s = .next t := by
  unfold State.clean at h; simp only [run, h]

theorem run_error {f : State → Except Stop State} {s : State} {e : Stop} (h : f s.clean = .error e) :
    run f s = .next (s.clean.stopWith e) := by
  unfold State.clean at *; simp only [run, h]

/-- The outcome of an instruction: its effect, or what its stop makes of the state. -/
theorem run_cases (f : State → Except Stop State) (s : State) :
    (∃ t, f s.clean = .ok t ∧ run f s = .next t) ∨ ∃ e, f s.clean = .error e ∧ run f s = .next (s.clean.stopWith e) := by
  cases h : f s.clean with
  | ok t => exact .inl ⟨t, rfl, run_ok h⟩
  | error e => exact .inr ⟨e, rfl, run_error h⟩

theorem event_next (f : State → State) (s : State) : event f s = .next (f s.clean) := rfl

@[simp] theorem stopWith_evt (s : State) (e : Stop) : (s.stopWith e).evt = .stopped e := rfl

/-- A block or a hold changes nothing. -/
theorem stopWith_waits (s : State) {e : Stop} (h : e = .block ∨ e = .hold) : s.stopWith e = { s with evt := .stopped e } := by
  rcases h with rfl | rfl <;> rfl

/-! Scalar operands. -/

@[simp] theorem readS_zero (s : State) (slot : Nat) : s.readS slot 0 = .ok (0, s) := rfl

/-- What a read of a scalar register gives: zero, the head of LDQ, or the register. -/
theorem readS_cases {s u : State} {slot : Nat} {n : BitVec 6} {x : Word} (h : s.readS slot n = .ok (x, u)) :
    (n = 0 ∧ x = 0 ∧ u = s) ∨
    (n = 62 ∧ ∃ t, s.ctx.pend.ldq = .scalar x :: t ∧ u = s.modPend (fun p => { p with ldq := t })) ∨
    (n ≠ 0 ∧ n ≠ 62 ∧ x = aget 0 s.rd.s n.toNat ∧ u = s) := by
  unfold State.readS at h
  split at h
  · cases h; exact .inl ⟨‹_›, rfl, rfl⟩
  · split at h
    · unfold State.popScalar at h
      split at h
      · cases h
      · rename_i hq; cases h; exact .inr (.inl ⟨‹_›, _, hq, rfl⟩)
      · cases h
    · cases h; exact .inr (.inr ⟨‹_›, ‹_›, rfl, rfl⟩)

/-- A read changes nothing but LDQ, which loses at most its head. -/
theorem readS_frame {s u : State} {slot : Nat} {n : BitVec 6} {x : Word} (h : s.readS slot n = .ok (x, u)) :
    ∃ k, k ≤ 1 ∧ u = s.modPend (fun p => { p with ldq := p.ldq.drop k }) := by
  rcases readS_cases h with ⟨_, _, rfl⟩ | ⟨_, t, ht, rfl⟩ | ⟨_, _, _, rfl⟩
  · exact ⟨0, by omega, rfl⟩
  · exact ⟨1, by omega, by simp only [State.modPend, ht, List.drop_succ_cons, List.drop_zero]⟩
  · exact ⟨0, by omega, rfl⟩

theorem readS_keeps {s u : State} {slot : Nat} {n : BitVec 6} {x : Word} (h : s.readS slot n = .ok (x, u)) :
    u.rd = s.rd ∧ u.ctx.mode = s.ctx.mode ∧ u.ctx.r = s.ctx.r ∧ u.ctx.cr = s.ctx.cr ∧ u.core = s.core ∧ u.mem = s.mem ∧
      u.ctx.pend.sdq = s.ctx.pend.sdq ∧ u.ctx.pend.lq = s.ctx.pend.lq ∧ u.ctx.pend.stq = s.ctx.pend.stq := by
  obtain ⟨k, -, rfl⟩ := readS_frame h
  exact ⟨rfl, rfl, rfl, rfl, rfl, rfl, rfl, rfl, rfl⟩

/-- A push appends one entry to SDQ. -/
theorem pushSdq_ok {s t : State} {slot : Nat} {e : SdqEntry} (h : s.pushSdq slot e = .ok t) :
    t = s.modPend (fun p => { p with sdq := p.sdq ++ [e] }) := by
  unfold State.pushSdq at h
  dsimp only at h
  split at h
  · cases h
  · split at h
    · split at h <;> cases h; rfl
    · cases h; rfl

/-- What a write of a scalar register does: nothing, a push to SDQ, or the register. -/
theorem writeS_cases {s t : State} {slot : Nat} {n : BitVec 6} {v : Word} (h : s.writeS slot n v = .ok t) :
    (n = 0 ∧ t = s) ∨
    (n = 62 ∧ t = s.modPend (fun p => { p with sdq := p.sdq ++ [⟨false, 0, some (.scalar v)⟩] })) ∨
    (n ≠ 0 ∧ n ≠ 62 ∧ t = s.modRegs (fun r => { r with s := aset 0 r.s n.toNat v })) := by
  unfold State.writeS at h
  split at h
  · cases h; exact .inl ⟨‹_›, rfl⟩
  · split at h
    · exact .inr (.inl ⟨‹_›, pushSdq_ok h⟩)
    · rename_i h0 _
      cases h
      refine .inr (.inr ⟨h0, ‹_›, ?_⟩)
      have : n.toNat ≠ 0 := fun e => h0 (BitVec.eq_of_toNat_eq (by simpa using e))
      simp only [State.setS, if_neg this]

theorem read2_ok {s u : State} {slot : Nat} {sa sb : BitVec 6} {a b : Word} (h : s.read2 slot sa sb = .ok (a, b, u)) :
    ∃ v, s.readS slot sa = .ok (a, v) ∧ v.readS slot sb = .ok (b, u) := by
  obtain ⟨x, hx, h⟩ := bind_ok.1 h
  obtain ⟨y, hy, h⟩ := bind_ok.1 h
  cases h
  exact ⟨x.2, hx, hy⟩

theorem read3_ok {s u : State} {slot : Nat} {sd sa sb : BitVec 6} {d a b : Word}
    (h : s.read3 slot sd sa sb = .ok (d, a, b, u)) :
    ∃ v w, s.readS slot sd = .ok (d, v) ∧ v.readS slot sa = .ok (a, w) ∧ w.readS slot sb = .ok (b, u) := by
  obtain ⟨x, hx, h⟩ := bind_ok.1 h
  obtain ⟨y, hy, h⟩ := bind_ok.1 h
  obtain ⟨z, hz, h⟩ := bind_ok.1 h
  cases h
  exact ⟨x.2, y.2, hx, hy, hz⟩

/-- A form of one source writes its function of it. -/
theorem scalar1_ok {f : Word → Word} {s u t : State} {sd sa : BitVec 6} {a : Word}
    (h : s.clean.readS 1 sa = .ok (a, u)) (ht : u.writeS 1 sd (f a) = .ok t) : scalar1 f sd sa s = .next t :=
  run_ok (by simp only [h, ok_bind, ht])

/-- A form of two sources writes its function of them. -/
theorem scalar2_ok {f : Word → Word → Word} {s u t : State} {sd sa sb : BitVec 6} {a b : Word}
    (h : s.clean.read2 1 sa sb = .ok (a, b, u)) (ht : u.writeS 1 sd (f a b) = .ok t) : scalar2 f sd sa sb s = .next t := by
  obtain ⟨v, h1, h2⟩ := read2_ok h
  exact run_ok (by simp only [h1, h2, ok_bind, ht])

/-- A form that also reads its destination writes its function of the three. -/
theorem scalar3_ok {f : Word → Word → Word → Word} {s u t : State} {sd sa sb : BitVec 6} {d a b : Word}
    (h : s.clean.read3 1 sd sa sb = .ok (d, a, b, u)) (ht : u.writeS 1 sd (f d a b) = .ok t) :
    scalar3 f sd sa sb s = .next t := by
  obtain ⟨v, w, h1, h2, h3⟩ := read3_ok h
  exact run_ok (by simp only [h1, h2, h3, ok_bind, ht])

/-! Translation changes TLBs only. -/

theorem lookup_frame {s u : State} {p va : Nat} {r : Nat × Nat} {o : Bool} (h : s.lookup p va o = .ok (r, u)) :
    u = { s with core := { s.core with tlb := u.core.tlb }, dies := u.dies } := by
  unfold State.lookup at h
  split at h
  · cases h; rfl
  · dsimp only at h
    split at h
    · cases h; rfl
    · split at h
      · cases h
      · simp only [Except.ok.injEq, Prod.mk.injEq] at h
        obtain ⟨-, rfl⟩ := h
        unfold State.setDie State.coreTlb
        rfl

theorem translate_frame {s u : State} {p va : Nat} {acc : Acc} {r : Nat × Nat} {o : Bool} (h : s.translate p va acc o = .ok (r, u)) :
    u = { s with core := { s.core with tlb := u.core.tlb }, dies := u.dies } := by
  unfold State.translate at h
  split at h
  · cases h
  · split at h
    · cases h
    · rename_i hl
      split at h
      · cases h; exact lookup_frame hl
      · cases h

/-- What changes only TLBs does so in steps too. -/
theorem tlbs_trans {s t u : State} (h1 : t = { s with core := { s.core with tlb := t.core.tlb }, dies := t.dies })
    (h2 : u = { t with core := { t.core with tlb := u.core.tlb }, dies := u.dies }) :
    u = { s with core := { s.core with tlb := u.core.tlb }, dies := u.dies } := by
  generalize u.core.tlb = x at h2 ⊢
  generalize u.dies = y at h2 ⊢
  rw [h2, h1]

theorem reachViews_frame : ∀ (hits : List (Nat × Nat)) {s u : State} {acc : Acc} {k : FaultKind},
    s.reachViews acc k hits = .ok u → u = { s with core := { s.core with tlb := u.core.tlb }, dies := u.dies }
  | [], _, _, _, _, h => by cases h; rfl
  | (v, i) :: t, s, u, acc, k, h => by
    unfold State.reachViews at h
    split at h
    · exact reachViews_frame t h
    · split at h
      · cases h
      · rename_i ht; exact tlbs_trans (translate_frame ht) (reachViews_frame t h)

/-- Finding the place of a unit changes TLBs only. -/
theorem resolve_frame {s u : State} {va : Word} {n : Nat} {acc : Acc} {k : FaultKind} {l : Loc}
    (h : s.resolve va n acc k = .ok (l, u)) : u = { s with core := { s.core with tlb := u.core.tlb }, dies := u.dies } := by
  unfold State.resolve at h
  dsimp only at h
  split at h
  · split at h
    · cases h
    · split at h
      · cases h
      · split at h
        · cases h
        · split at h
          · cases h
          · split at h
            · cases h
            · rename_i hv; cases h; exact reachViews_frame _ hv
  · split at h
    · cases h
    · rename_i ht; cases h; exact translate_frame ht

theorem resolve_mem {s u : State} {va : Word} {n : Nat} {acc : Acc} {k : FaultKind} {l : Loc}
    (h : s.resolve va n acc k = .ok (l, u)) : u.mem = s.mem := by rw [resolve_frame h]
theorem resolve_ctx {s u : State} {va : Word} {n : Nat} {acc : Acc} {k : FaultKind} {l : Loc}
    (h : s.resolve va n acc k = .ok (l, u)) : u.ctx = s.ctx := by rw [resolve_frame h]

/-! Bytes through translation keep memory in its one form. -/

theorem storeBytes_wf : ∀ (n : Nat) {s t : State} {va : Word} {bs : List Byte} {acc : Acc} {k : FaultKind},
    s.storeBytes va bs acc k n = .ok t → Memory.wf s.mem = true → Memory.wf t.mem = true
  | 0, _, _, _, _, _, _, h, hw => by cases h; exact hw
  | n + 1, s, t, va, bs, acc, k, h, hw => by
    unfold State.storeBytes at h
    split at h
    · cases h; exact hw
    · obtain ⟨r, hr, h⟩ := bind_ok.1 h
      exact storeBytes_wf n h (writeUnit_wf _ _ _ _ (by rw [resolve_mem hr]; exact hw))

theorem loadBytes_wf : ∀ (n : Nat) {s t : State} {va : Word} {len : Nat} {acc : Acc} {k : FaultKind} {bs : List Byte},
    s.loadBytes va len acc k n = .ok (bs, t) → Memory.wf s.mem = true → Memory.wf t.mem = true
  | 0, _, _, _, _, _, _, _, h, hw => by cases h; exact hw
  | n + 1, s, t, va, len, acc, k, bs, h, hw => by
    unfold State.loadBytes at h
    split at h
    · cases h; exact hw
    · obtain ⟨r, hr, h⟩ := bind_ok.1 h
      obtain ⟨-, -, h⟩ := bind_ok.1 h
      obtain ⟨y, hy, h⟩ := bind_ok.1 h
      cases h
      exact loadBytes_wf n hy (readUnit_wf _ _ _ _ (by rw [resolve_mem hr]; exact hw))

/-! Taking an exception. -/

theorem runRepeat_none {s : State} (h : s.core.arr.repeat_ = none) : ∀ (n : Nat), s.runRepeat n = (s, none)
  | 0 => rfl
  | n + 1 => by unfold State.runRepeat; rw [h]

/-- With no access pending there is nothing to perform. -/
theorem settle_none {s : State} (h1 : s.ctx.pend.lq = []) (h2 : s.ctx.pend.stq = []) : s.settle = s := by
  unfold State.settle
  rw [h1, h2]
  rfl

/-- With no access and no result pending, what the context has issued is performed. -/
theorem settleAll_none {s : State} (h1 : s.ctx.pend.lq = []) (h2 : s.ctx.pend.stq = []) (h3 : s.ctx.pend.flight = [])
    (h4 : s.ctx.pend.reinject = []) : s.settleAll = s := by
  unfold State.settleAll
  rw [h3, h4]
  exact settle_none h1 h2

theorem finishIssued_none {s : State} (h1 : s.ctx.pend.lq = []) (h2 : s.ctx.pend.stq = []) (h3 : s.ctx.pend.flight = [])
    (h4 : s.ctx.pend.reinject = []) (h5 : s.core.arr.queue = []) : s.finishIssued = s := by
  unfold State.finishIssued
  rw [h5]
  exact settleAll_none h1 h2 h3 h4

/-- With nothing earlier to come, a context is quiet at once, and nothing of it is stuck. -/
theorem quiesce_quiet {s : State} (h : s.quiet) : s.quiesce = (s, none) := by
  obtain ⟨h1, h2, h3, h4, -, h6, h7⟩ := h
  unfold State.quiesce
  rw [runRepeat_none h6]
  dsimp only
  rw [finishIssued_none h1 h2 h3 h4 h7]

theorem stuck_quiet {s : State} (h : s.quiet) : s.stuck = none := by
  simp [State.stuck, State.storesReady, State.loadsReady, h.1, h.2.1]

/-- In HANDLER mode a trap ends the task. -/
theorem takeTrap_handler (s : State) (t : TrapReq) (side : Side) (h : s.ctx.mode = .handler) :
    s.takeTrap t side = s.doubleTrap t.cause side := by
  unfold State.takeTrap; simp [h]

/-- In USER mode, with nothing earlier to come, a trap makes its other change, then ends the task or writes its frame
and enters the handler. -/
theorem takeTrap_user (s : State) (t : TrapReq) (side : Side) (h : s.ctx.mode = .user) (hq : s.quiet) :
    s.takeTrap t side = if (s.applySide side).ctx.cr.trapvec = 0 then
        (s.applySide side).endTask (0x80 ||| t.cause).toNat true
      else (s.applySide side).landDue.freezeResults.finishEntry t := by
  unfold State.takeTrap
  rw [quiesce_quiet hq]
  simp [h, stuck_quiet hq]

theorem finishEntry_ok {s u : State} {t : TrapReq} (h : s.writeFrame t = .ok u) : s.finishEntry t = u.enterHandler t := by
  unfold State.finishEntry
  rw [h]
  rfl

/-- How many entries a trap freezes. -/
theorem inOrder_length : ∀ (shs : List Shadow) (fs : List Replay), (inOrder fs shs).length = fs.length + shs.length
  | [], fs => by simp [inOrder]
  | a :: t, fs => by
    have h := congrArg List.length (List.takeWhile_append_dropWhile (p := Replay.before a.seq) (l := fs))
    have e : inOrder fs (a :: t) = inOrder (fs.takeWhile (Replay.before a.seq) ++ [.shadow a] ++
      fs.dropWhile (Replay.before a.seq)) t := rfl
    rw [e, inOrder_length t]
    simp only [List.length_append, List.length_cons, List.length_nil] at h ⊢
    omega

end Sys2Proof.Machine
end

