-- ==== Sys2Proof/Laws/PerInstr.lean ====
section
/-! SUPPORT. One lemma per instruction: its encoding fits its slot and decodes to it (04 R74 to R87); an event has no
encoding. -/

namespace Sys2Proof

/-- A well-formed slot instruction has an encoding that fits the slot's body and decodes to the instruction; an event
has none. -/
def Laws.Enc.Statement (i : Instr) : Prop :=
  match i.slot with
  | some sl => i.wf = true → ∃ w, encode i = some w ∧ w < 2 ^ (8 * slotBytes sl) ∧ decodeSlot sl w = .ok i
  | none => encode i = none

/-- A body whose reserved fields hold and whose fields are admitted is the instruction. -/
theorem checked_ok (sl : Slot) (r : Bool) (i : Instr) (hr : r = true) (hi : i.wf = true) : checked sl r i = .ok i := by
  simp [checked, hr, hi]

/-- A field that agrees with a value is that value. -/
theorem bf_eq {n : Nat} (w lo : Nat) (x : BitVec n) (h : w / 2 ^ lo % 2 ^ n = x.toNat) : bf w lo n = x :=
  BitVec.eq_of_toNat_eq (by rw [bf, BitVec.toNat_ofNat, h])

theorem Laws.Enc.nop : Laws.Enc.Statement .nop := by
  intro hwf
  generalize hw : 0 = z
  refine ⟨z, by rw [← hw]; rfl, by simp only [slotBytes]; omega, ?_⟩
  have o0 : fld z 26 6 = 0 := by unfold fld; omega
  have r0 : fld z 0 26 = 0 := by unfold fld; omega
  simp only [decodeSlot, decodeC, o0]
  exact checked_ok _ _ _ (by simp [r0]) hwf

theorem Laws.Enc.br (off : BitVec 26) : Laws.Enc.Statement (.br off) := by
  intro hwf
  have b0 := off.isLt
  generalize hw : off.toNat + 67108864 = z
  refine ⟨z, by rw [← hw]; rfl, by simp only [slotBytes]; omega, ?_⟩
  have o0 : fld z 26 6 = 1 := by unfold fld; omega
  have f0 : bf z 0 26 = off := bf_eq z 0 off (by omega)
  simp only [decodeSlot, decodeC, o0, f0]
  exact checked_ok _ _ _ (rfl) hwf

theorem Laws.Enc.call (off : BitVec 26) : Laws.Enc.Statement (.call off) := by
  intro hwf
  have b0 := off.isLt
  generalize hw : off.toNat + 134217728 = z
  refine ⟨z, by rw [← hw]; rfl, by simp only [slotBytes]; omega, ?_⟩
  have o0 : fld z 26 6 = 2 := by unfold fld; omega
  have f0 : bf z 0 26 = off := bf_eq z 0 off (by omega)
  simp only [decodeSlot, decodeC, o0, f0]
  exact checked_ok _ _ _ (rfl) hwf

theorem Laws.Enc.bc (cond : BitVec 4) (sa : BitVec 6) (off : BitVec 16) : Laws.Enc.Statement (.bc cond sa off) := by
  intro hwf
  have b0 := cond.isLt
  have b1 := sa.isLt
  have b2 := off.isLt
  generalize hw : cond.toNat * 4194304 + sa.toNat * 65536 + off.toNat + 201326592 = z
  refine ⟨z, by rw [← hw]; rfl, by simp only [slotBytes]; omega, ?_⟩
  have o0 : fld z 26 6 = 3 := by unfold fld; omega
  have f0 : bf z 22 4 = cond := bf_eq z 22 cond (by omega)
  have f1 : bf z 16 6 = sa := bf_eq z 16 sa (by omega)
  have f2 : bf z 0 16 = off := bf_eq z 0 off (by omega)
  simp only [decodeSlot, decodeC, o0, f0, f1, f2]
  exact checked_ok _ _ _ (rfl) hwf

theorem Laws.Enc.jr (sa : BitVec 6) : Laws.Enc.Statement (.jr sa) := by
  intro hwf
  have b0 := sa.isLt
  generalize hw : sa.toNat * 1048576 + 268435456 = z
  refine ⟨z, by rw [← hw]; rfl, by simp only [slotBytes]; omega, ?_⟩
  have o0 : fld z 26 6 = 4 := by unfold fld; omega
  have f0 : bf z 20 6 = sa := bf_eq z 20 sa (by omega)
  have r0 : fld z 0 20 = 0 := by unfold fld; omega
  simp only [decodeSlot, decodeC, o0, f0]
  exact checked_ok _ _ _ (by simp [r0]) hwf

theorem Laws.Enc.callr (sa : BitVec 6) : Laws.Enc.Statement (.callr sa) := by
  intro hwf
  have b0 := sa.isLt
  generalize hw : sa.toNat * 1048576 + 335544320 = z
  refine ⟨z, by rw [← hw]; rfl, by simp only [slotBytes]; omega, ?_⟩
  have o0 : fld z 26 6 = 5 := by unfold fld; omega
  have f0 : bf z 20 6 = sa := bf_eq z 20 sa (by omega)
  have r0 : fld z 0 20 = 0 := by unfold fld; omega
  simp only [decodeSlot, decodeC, o0, f0]
  exact checked_ok _ _ _ (by simp [r0]) hwf

theorem Laws.Enc.ret : Laws.Enc.Statement .ret := by
  intro hwf
  generalize hw : 402653184 = z
  refine ⟨z, by rw [← hw]; rfl, by simp only [slotBytes]; omega, ?_⟩
  have o0 : fld z 26 6 = 6 := by unfold fld; omega
  have r0 : fld z 0 26 = 0 := by unfold fld; omega
  simp only [decodeSlot, decodeC, o0]
  exact checked_ok _ _ _ (by simp [r0]) hwf

theorem Laws.Enc.loop (sa : BitVec 6) (cnt : BitVec 11) (len : BitVec 9) : Laws.Enc.Statement (.loop sa cnt len) := by
  intro hwf
  have b0 := sa.isLt
  have b1 := cnt.isLt
  have b2 := len.isLt
  generalize hw : sa.toNat * 1048576 + cnt.toNat * 512 + len.toNat + 536870912 = z
  refine ⟨z, by rw [← hw]; rfl, by simp only [slotBytes]; omega, ?_⟩
  have o0 : fld z 26 6 = 8 := by unfold fld; omega
  have f0 : bf z 20 6 = sa := bf_eq z 20 sa (by omega)
  have f1 : bf z 9 11 = cnt := bf_eq z 9 cnt (by omega)
  have f2 : bf z 0 9 = len := bf_eq z 0 len (by omega)
  simp only [decodeSlot, decodeC, o0, f0, f1, f2]
  exact checked_ok _ _ _ (rfl) hwf

theorem Laws.Enc.lbreak (n : BitVec 3) : Laws.Enc.Statement (.lbreak n) := by
  intro hwf
  have b0 := n.isLt
  generalize hw : n.toNat * 8388608 + 603979776 = z
  refine ⟨z, by rw [← hw]; rfl, by simp only [slotBytes]; omega, ?_⟩
  have o0 : fld z 26 6 = 9 := by unfold fld; omega
  have f0 : bf z 23 3 = n := bf_eq z 23 n (by omega)
  have r0 : fld z 0 23 = 0 := by unfold fld; omega
  simp only [decodeSlot, decodeC, o0, f0]
  exact checked_ok _ _ _ (by simp [r0]) hwf

theorem Laws.Enc.setfmt (imm : BitVec 26) : Laws.Enc.Statement (.setfmt imm) := by
  intro hwf
  have b0 := imm.isLt
  generalize hw : imm.toNat + 671088640 = z
  refine ⟨z, by rw [← hw]; rfl, by simp only [slotBytes]; omega, ?_⟩
  have o0 : fld z 26 6 = 10 := by unfold fld; omega
  have f0 : bf z 0 26 = imm := bf_eq z 0 imm (by omega)
  simp only [decodeSlot, decodeC, o0, f0]
  exact checked_ok _ _ _ (rfl) hwf

theorem Laws.Enc.sleepu (sa : BitVec 6) : Laws.Enc.Statement (.sleepu sa) := by
  intro hwf
  have b0 := sa.isLt
  generalize hw : sa.toNat * 1048576 + 738197504 = z
  refine ⟨z, by rw [← hw]; rfl, by simp only [slotBytes]; omega, ?_⟩
  have o0 : fld z 26 6 = 11 := by unfold fld; omega
  have f0 : bf z 20 6 = sa := bf_eq z 20 sa (by omega)
  have r0 : fld z 0 20 = 0 := by unfold fld; omega
  simp only [decodeSlot, decodeC, o0, f0]
  exact checked_ok _ _ _ (by simp [r0]) hwf

theorem Laws.Enc.yield : Laws.Enc.Statement .yield := by
  intro hwf
  generalize hw : 805306368 = z
  refine ⟨z, by rw [← hw]; rfl, by simp only [slotBytes]; omega, ?_⟩
  have o0 : fld z 26 6 = 12 := by unfold fld; omega
  have r0 : fld z 0 26 = 0 := by unfold fld; omega
  simp only [decodeSlot, decodeC, o0]
  exact checked_ok _ _ _ (by simp [r0]) hwf

theorem Laws.Enc.phint (groups : BitVec 24) : Laws.Enc.Statement (.phint groups) := by
  intro hwf
  have b0 := groups.isLt
  generalize hw : groups.toNat + 872415232 = z
  refine ⟨z, by rw [← hw]; rfl, by simp only [slotBytes]; omega, ?_⟩
  have o0 : fld z 26 6 = 13 := by unfold fld; omega
  have f0 : bf z 0 24 = groups := bf_eq z 0 groups (by omega)
  have r0 : fld z 24 2 = 0 := by unfold fld; omega
  simp only [decodeSlot, decodeC, o0, f0]
  exact checked_ok _ _ _ (by simp [r0]) hwf

theorem Laws.Enc.trap (imm : BitVec 16) : Laws.Enc.Statement (.trap imm) := by
  intro hwf
  have b0 := imm.isLt
  generalize hw : imm.toNat + 939524096 = z
  refine ⟨z, by rw [← hw]; rfl, by simp only [slotBytes]; omega, ?_⟩
  have o0 : fld z 26 6 = 14 := by unfold fld; omega
  have f0 : bf z 0 16 = imm := bf_eq z 0 imm (by omega)
  have r0 : fld z 16 10 = 0 := by unfold fld; omega
  simp only [decodeSlot, decodeC, o0, f0]
  exact checked_ok _ _ _ (by simp [r0]) hwf

theorem Laws.Enc.eret : Laws.Enc.Statement .eret := by
  intro hwf
  generalize hw : 1006632960 = z
  refine ⟨z, by rw [← hw]; rfl, by simp only [slotBytes]; omega, ?_⟩
  have o0 : fld z 26 6 = 15 := by unfold fld; omega
  have r0 : fld z 0 26 = 0 := by unfold fld; omega
  simp only [decodeSlot, decodeC, o0]
  exact checked_ok _ _ _ (by simp [r0]) hwf

theorem Laws.Enc.halt : Laws.Enc.Statement .halt := by
  intro hwf
  generalize hw : 1073741824 = z
  refine ⟨z, by rw [← hw]; rfl, by simp only [slotBytes]; omega, ?_⟩
  have o0 : fld z 26 6 = 16 := by unfold fld; omega
  have r0 : fld z 0 26 = 0 := by unfold fld; omega
  simp only [decodeSlot, decodeC, o0]
  exact checked_ok _ _ _ (by simp [r0]) hwf

theorem Laws.Enc.mwait (sd : BitVec 6) (sa : BitVec 6) : Laws.Enc.Statement (.mwait sd sa) := by
  intro hwf
  have b0 := sd.isLt
  have b1 := sa.isLt
  generalize hw : sd.toNat * 1048576 + sa.toNat * 16384 + 1140850688 = z
  refine ⟨z, by rw [← hw]; rfl, by simp only [slotBytes]; omega, ?_⟩
  have o0 : fld z 26 6 = 17 := by unfold fld; omega
  have f0 : bf z 20 6 = sd := bf_eq z 20 sd (by omega)
  have f1 : bf z 14 6 = sa := bf_eq z 14 sa (by omega)
  have r0 : fld z 0 14 = 0 := by unfold fld; omega
  simp only [decodeSlot, decodeC, o0, f0, f1]
  exact checked_ok _ _ _ (by simp [r0]) hwf

theorem Laws.Enc.add (sd : BitVec 6) (sa : BitVec 6) (sb : BitVec 6) : Laws.Enc.Statement (.add sd sa sb) := by
  intro hwf
  have b0 := sd.isLt
  have b1 := sa.isLt
  have b2 := sb.isLt
  generalize hw : sd.toNat * 1048576 + sa.toNat * 16384 + sb.toNat * 256 = z
  refine ⟨z, by rw [← hw]; rfl, by simp only [slotBytes]; omega, ?_⟩
  have o0 : fld z 26 6 = 0 := by unfold fld; omega
  have o1 : fld z 0 8 = 0 := by unfold fld; omega
  have f0 : bf z 20 6 = sd := bf_eq z 20 sd (by omega)
  have f1 : bf z 14 6 = sa := bf_eq z 14 sa (by omega)
  have f2 : bf z 8 6 = sb := bf_eq z 8 sb (by omega)
  simp only [decodeSlot, decodeS, decodeAlu, o0, o1, f0, f1, f2]
  exact checked_ok _ _ _ (rfl) hwf

theorem Laws.Enc.sub (sd : BitVec 6) (sa : BitVec 6) (sb : BitVec 6) : Laws.Enc.Statement (.sub sd sa sb) := by
  intro hwf
  have b0 := sd.isLt
  have b1 := sa.isLt
  have b2 := sb.isLt
  generalize hw : sd.toNat * 1048576 + sa.toNat * 16384 + sb.toNat * 256 + 1 = z
  refine ⟨z, by rw [← hw]; rfl, by simp only [slotBytes]; omega, ?_⟩
  have o0 : fld z 26 6 = 0 := by unfold fld; omega
  have o1 : fld z 0 8 = 1 := by unfold fld; omega
  have f0 : bf z 20 6 = sd := bf_eq z 20 sd (by omega)
  have f1 : bf z 14 6 = sa := bf_eq z 14 sa (by omega)
  have f2 : bf z 8 6 = sb := bf_eq z 8 sb (by omega)
  simp only [decodeSlot, decodeS, decodeAlu, o0, o1, f0, f1, f2]
  exact checked_ok _ _ _ (rfl) hwf

theorem Laws.Enc.mul (sd : BitVec 6) (sa : BitVec 6) (sb : BitVec 6) : Laws.Enc.Statement (.mul sd sa sb) := by
  intro hwf
  have b0 := sd.isLt
  have b1 := sa.isLt
  have b2 := sb.isLt
  generalize hw : sd.toNat * 1048576 + sa.toNat * 16384 + sb.toNat * 256 + 2 = z
  refine ⟨z, by rw [← hw]; rfl, by simp only [slotBytes]; omega, ?_⟩
  have o0 : fld z 26 6 = 0 := by unfold fld; omega
  have o1 : fld z 0 8 = 2 := by unfold fld; omega
  have f0 : bf z 20 6 = sd := bf_eq z 20 sd (by omega)
  have f1 : bf z 14 6 = sa := bf_eq z 14 sa (by omega)
  have f2 : bf z 8 6 = sb := bf_eq z 8 sb (by omega)
  simp only [decodeSlot, decodeS, decodeAlu, o0, o1, f0, f1, f2]
  exact checked_ok _ _ _ (rfl) hwf

theorem Laws.Enc.mulh (sd : BitVec 6) (sa : BitVec 6) (sb : BitVec 6) : Laws.Enc.Statement (.mulh sd sa sb) := by
  intro hwf
  have b0 := sd.isLt
  have b1 := sa.isLt
  have b2 := sb.isLt
  generalize hw : sd.toNat * 1048576 + sa.toNat * 16384 + sb.toNat * 256 + 3 = z
  refine ⟨z, by rw [← hw]; rfl, by simp only [slotBytes]; omega, ?_⟩
  have o0 : fld z 26 6 = 0 := by unfold fld; omega
  have o1 : fld z 0 8 = 3 := by unfold fld; omega
  have f0 : bf z 20 6 = sd := bf_eq z 20 sd (by omega)
  have f1 : bf z 14 6 = sa := bf_eq z 14 sa (by omega)
  have f2 : bf z 8 6 = sb := bf_eq z 8 sb (by omega)
  simp only [decodeSlot, decodeS, decodeAlu, o0, o1, f0, f1, f2]
  exact checked_ok _ _ _ (rfl) hwf

theorem Laws.Enc.mulhu (sd : BitVec 6) (sa : BitVec 6) (sb : BitVec 6) : Laws.Enc.Statement (.mulhu sd sa sb) := by
  intro hwf
  have b0 := sd.isLt
  have b1 := sa.isLt
  have b2 := sb.isLt
  generalize hw : sd.toNat * 1048576 + sa.toNat * 16384 + sb.toNat * 256 + 4 = z
  refine ⟨z, by rw [← hw]; rfl, by simp only [slotBytes]; omega, ?_⟩
  have o0 : fld z 26 6 = 0 := by unfold fld; omega
  have o1 : fld z 0 8 = 4 := by unfold fld; omega
  have f0 : bf z 20 6 = sd := bf_eq z 20 sd (by omega)
  have f1 : bf z 14 6 = sa := bf_eq z 14 sa (by omega)
  have f2 : bf z 8 6 = sb := bf_eq z 8 sb (by omega)
  simp only [decodeSlot, decodeS, decodeAlu, o0, o1, f0, f1, f2]
  exact checked_ok _ _ _ (rfl) hwf

theorem Laws.Enc.div (sd : BitVec 6) (sa : BitVec 6) (sb : BitVec 6) : Laws.Enc.Statement (.div sd sa sb) := by
  intro hwf
  have b0 := sd.isLt
  have b1 := sa.isLt
  have b2 := sb.isLt
  generalize hw : sd.toNat * 1048576 + sa.toNat * 16384 + sb.toNat * 256 + 5 = z
  refine ⟨z, by rw [← hw]; rfl, by simp only [slotBytes]; omega, ?_⟩
  have o0 : fld z 26 6 = 0 := by unfold fld; omega
  have o1 : fld z 0 8 = 5 := by unfold fld; omega
  have f0 : bf z 20 6 = sd := bf_eq z 20 sd (by omega)
  have f1 : bf z 14 6 = sa := bf_eq z 14 sa (by omega)
  have f2 : bf z 8 6 = sb := bf_eq z 8 sb (by omega)
  simp only [decodeSlot, decodeS, decodeAlu, o0, o1, f0, f1, f2]
  exact checked_ok _ _ _ (rfl) hwf

theorem Laws.Enc.divu (sd : BitVec 6) (sa : BitVec 6) (sb : BitVec 6) : Laws.Enc.Statement (.divu sd sa sb) := by
  intro hwf
  have b0 := sd.isLt
  have b1 := sa.isLt
  have b2 := sb.isLt
  generalize hw : sd.toNat * 1048576 + sa.toNat * 16384 + sb.toNat * 256 + 6 = z
  refine ⟨z, by rw [← hw]; rfl, by simp only [slotBytes]; omega, ?_⟩
  have o0 : fld z 26 6 = 0 := by unfold fld; omega
  have o1 : fld z 0 8 = 6 := by unfold fld; omega
  have f0 : bf z 20 6 = sd := bf_eq z 20 sd (by omega)
  have f1 : bf z 14 6 = sa := bf_eq z 14 sa (by omega)
  have f2 : bf z 8 6 = sb := bf_eq z 8 sb (by omega)
  simp only [decodeSlot, decodeS, decodeAlu, o0, o1, f0, f1, f2]
  exact checked_ok _ _ _ (rfl) hwf

theorem Laws.Enc.rem (sd : BitVec 6) (sa : BitVec 6) (sb : BitVec 6) : Laws.Enc.Statement (.rem sd sa sb) := by
  intro hwf
  have b0 := sd.isLt
  have b1 := sa.isLt
  have b2 := sb.isLt
  generalize hw : sd.toNat * 1048576 + sa.toNat * 16384 + sb.toNat * 256 + 7 = z
  refine ⟨z, by rw [← hw]; rfl, by simp only [slotBytes]; omega, ?_⟩
  have o0 : fld z 26 6 = 0 := by unfold fld; omega
  have o1 : fld z 0 8 = 7 := by unfold fld; omega
  have f0 : bf z 20 6 = sd := bf_eq z 20 sd (by omega)
  have f1 : bf z 14 6 = sa := bf_eq z 14 sa (by omega)
  have f2 : bf z 8 6 = sb := bf_eq z 8 sb (by omega)
  simp only [decodeSlot, decodeS, decodeAlu, o0, o1, f0, f1, f2]
  exact checked_ok _ _ _ (rfl) hwf

theorem Laws.Enc.remu (sd : BitVec 6) (sa : BitVec 6) (sb : BitVec 6) : Laws.Enc.Statement (.remu sd sa sb) := by
  intro hwf
  have b0 := sd.isLt
  have b1 := sa.isLt
  have b2 := sb.isLt
  generalize hw : sd.toNat * 1048576 + sa.toNat * 16384 + sb.toNat * 256 + 8 = z
  refine ⟨z, by rw [← hw]; rfl, by simp only [slotBytes]; omega, ?_⟩
  have o0 : fld z 26 6 = 0 := by unfold fld; omega
  have o1 : fld z 0 8 = 8 := by unfold fld; omega
  have f0 : bf z 20 6 = sd := bf_eq z 20 sd (by omega)
  have f1 : bf z 14 6 = sa := bf_eq z 14 sa (by omega)
  have f2 : bf z 8 6 = sb := bf_eq z 8 sb (by omega)
  simp only [decodeSlot, decodeS, decodeAlu, o0, o1, f0, f1, f2]
  exact checked_ok _ _ _ (rfl) hwf

theorem Laws.Enc.and (sd : BitVec 6) (sa : BitVec 6) (sb : BitVec 6) : Laws.Enc.Statement (.and sd sa sb) := by
  intro hwf
  have b0 := sd.isLt
  have b1 := sa.isLt
  have b2 := sb.isLt
  generalize hw : sd.toNat * 1048576 + sa.toNat * 16384 + sb.toNat * 256 + 16 = z
  refine ⟨z, by rw [← hw]; rfl, by simp only [slotBytes]; omega, ?_⟩
  have o0 : fld z 26 6 = 0 := by unfold fld; omega
  have o1 : fld z 0 8 = 16 := by unfold fld; omega
  have f0 : bf z 20 6 = sd := bf_eq z 20 sd (by omega)
  have f1 : bf z 14 6 = sa := bf_eq z 14 sa (by omega)
  have f2 : bf z 8 6 = sb := bf_eq z 8 sb (by omega)
  simp only [decodeSlot, decodeS, decodeAlu, o0, o1, f0, f1, f2]
  exact checked_ok _ _ _ (rfl) hwf

theorem Laws.Enc.or (sd : BitVec 6) (sa : BitVec 6) (sb : BitVec 6) : Laws.Enc.Statement (.or sd sa sb) := by
  intro hwf
  have b0 := sd.isLt
  have b1 := sa.isLt
  have b2 := sb.isLt
  generalize hw : sd.toNat * 1048576 + sa.toNat * 16384 + sb.toNat * 256 + 17 = z
  refine ⟨z, by rw [← hw]; rfl, by simp only [slotBytes]; omega, ?_⟩
  have o0 : fld z 26 6 = 0 := by unfold fld; omega
  have o1 : fld z 0 8 = 17 := by unfold fld; omega
  have f0 : bf z 20 6 = sd := bf_eq z 20 sd (by omega)
  have f1 : bf z 14 6 = sa := bf_eq z 14 sa (by omega)
  have f2 : bf z 8 6 = sb := bf_eq z 8 sb (by omega)
  simp only [decodeSlot, decodeS, decodeAlu, o0, o1, f0, f1, f2]
  exact checked_ok _ _ _ (rfl) hwf

theorem Laws.Enc.xor (sd : BitVec 6) (sa : BitVec 6) (sb : BitVec 6) : Laws.Enc.Statement (.xor sd sa sb) := by
  intro hwf
  have b0 := sd.isLt
  have b1 := sa.isLt
  have b2 := sb.isLt
  generalize hw : sd.toNat * 1048576 + sa.toNat * 16384 + sb.toNat * 256 + 18 = z
  refine ⟨z, by rw [← hw]; rfl, by simp only [slotBytes]; omega, ?_⟩
  have o0 : fld z 26 6 = 0 := by unfold fld; omega
  have o1 : fld z 0 8 = 18 := by unfold fld; omega
  have f0 : bf z 20 6 = sd := bf_eq z 20 sd (by omega)
  have f1 : bf z 14 6 = sa := bf_eq z 14 sa (by omega)
  have f2 : bf z 8 6 = sb := bf_eq z 8 sb (by omega)
  simp only [decodeSlot, decodeS, decodeAlu, o0, o1, f0, f1, f2]
  exact checked_ok _ _ _ (rfl) hwf

theorem Laws.Enc.andn (sd : BitVec 6) (sa : BitVec 6) (sb : BitVec 6) : Laws.Enc.Statement (.andn sd sa sb) := by
  intro hwf
  have b0 := sd.isLt
  have b1 := sa.isLt
  have b2 := sb.isLt
  generalize hw : sd.toNat * 1048576 + sa.toNat * 16384 + sb.toNat * 256 + 19 = z
  refine ⟨z, by rw [← hw]; rfl, by simp only [slotBytes]; omega, ?_⟩
  have o0 : fld z 26 6 = 0 := by unfold fld; omega
  have o1 : fld z 0 8 = 19 := by unfold fld; omega
  have f0 : bf z 20 6 = sd := bf_eq z 20 sd (by omega)
  have f1 : bf z 14 6 = sa := bf_eq z 14 sa (by omega)
  have f2 : bf z 8 6 = sb := bf_eq z 8 sb (by omega)
  simp only [decodeSlot, decodeS, decodeAlu, o0, o1, f0, f1, f2]
  exact checked_ok _ _ _ (rfl) hwf

theorem Laws.Enc.shl (sd : BitVec 6) (sa : BitVec 6) (sb : BitVec 6) : Laws.Enc.Statement (.shl sd sa sb) := by
  intro hwf
  have b0 := sd.isLt
  have b1 := sa.isLt
  have b2 := sb.isLt
  generalize hw : sd.toNat * 1048576 + sa.toNat * 16384 + sb.toNat * 256 + 20 = z
  refine ⟨z, by rw [← hw]; rfl, by simp only [slotBytes]; omega, ?_⟩
  have o0 : fld z 26 6 = 0 := by unfold fld; omega
  have o1 : fld z 0 8 = 20 := by unfold fld; omega
  have f0 : bf z 20 6 = sd := bf_eq z 20 sd (by omega)
  have f1 : bf z 14 6 = sa := bf_eq z 14 sa (by omega)
  have f2 : bf z 8 6 = sb := bf_eq z 8 sb (by omega)
  simp only [decodeSlot, decodeS, decodeAlu, o0, o1, f0, f1, f2]
  exact checked_ok _ _ _ (rfl) hwf

theorem Laws.Enc.shr (sd : BitVec 6) (sa : BitVec 6) (sb : BitVec 6) : Laws.Enc.Statement (.shr sd sa sb) := by
  intro hwf
  have b0 := sd.isLt
  have b1 := sa.isLt
  have b2 := sb.isLt
  generalize hw : sd.toNat * 1048576 + sa.toNat * 16384 + sb.toNat * 256 + 21 = z
  refine ⟨z, by rw [← hw]; rfl, by simp only [slotBytes]; omega, ?_⟩
  have o0 : fld z 26 6 = 0 := by unfold fld; omega
  have o1 : fld z 0 8 = 21 := by unfold fld; omega
  have f0 : bf z 20 6 = sd := bf_eq z 20 sd (by omega)
  have f1 : bf z 14 6 = sa := bf_eq z 14 sa (by omega)
  have f2 : bf z 8 6 = sb := bf_eq z 8 sb (by omega)
  simp only [decodeSlot, decodeS, decodeAlu, o0, o1, f0, f1, f2]
  exact checked_ok _ _ _ (rfl) hwf

theorem Laws.Enc.sar (sd : BitVec 6) (sa : BitVec 6) (sb : BitVec 6) : Laws.Enc.Statement (.sar sd sa sb) := by
  intro hwf
  have b0 := sd.isLt
  have b1 := sa.isLt
  have b2 := sb.isLt
  generalize hw : sd.toNat * 1048576 + sa.toNat * 16384 + sb.toNat * 256 + 22 = z
  refine ⟨z, by rw [← hw]; rfl, by simp only [slotBytes]; omega, ?_⟩
  have o0 : fld z 26 6 = 0 := by unfold fld; omega
  have o1 : fld z 0 8 = 22 := by unfold fld; omega
  have f0 : bf z 20 6 = sd := bf_eq z 20 sd (by omega)
  have f1 : bf z 14 6 = sa := bf_eq z 14 sa (by omega)
  have f2 : bf z 8 6 = sb := bf_eq z 8 sb (by omega)
  simp only [decodeSlot, decodeS, decodeAlu, o0, o1, f0, f1, f2]
  exact checked_ok _ _ _ (rfl) hwf

theorem Laws.Enc.rotr (sd : BitVec 6) (sa : BitVec 6) (sb : BitVec 6) : Laws.Enc.Statement (.rotr sd sa sb) := by
  intro hwf
  have b0 := sd.isLt
  have b1 := sa.isLt
  have b2 := sb.isLt
  generalize hw : sd.toNat * 1048576 + sa.toNat * 16384 + sb.toNat * 256 + 23 = z
  refine ⟨z, by rw [← hw]; rfl, by simp only [slotBytes]; omega, ?_⟩
  have o0 : fld z 26 6 = 0 := by unfold fld; omega
  have o1 : fld z 0 8 = 23 := by unfold fld; omega
  have f0 : bf z 20 6 = sd := bf_eq z 20 sd (by omega)
  have f1 : bf z 14 6 = sa := bf_eq z 14 sa (by omega)
  have f2 : bf z 8 6 = sb := bf_eq z 8 sb (by omega)
  simp only [decodeSlot, decodeS, decodeAlu, o0, o1, f0, f1, f2]
  exact checked_ok _ _ _ (rfl) hwf

theorem Laws.Enc.min (sd : BitVec 6) (sa : BitVec 6) (sb : BitVec 6) : Laws.Enc.Statement (.min sd sa sb) := by
  intro hwf
  have b0 := sd.isLt
  have b1 := sa.isLt
  have b2 := sb.isLt
  generalize hw : sd.toNat * 1048576 + sa.toNat * 16384 + sb.toNat * 256 + 24 = z
  refine ⟨z, by rw [← hw]; rfl, by simp only [slotBytes]; omega, ?_⟩
  have o0 : fld z 26 6 = 0 := by unfold fld; omega
  have o1 : fld z 0 8 = 24 := by unfold fld; omega
  have f0 : bf z 20 6 = sd := bf_eq z 20 sd (by omega)
  have f1 : bf z 14 6 = sa := bf_eq z 14 sa (by omega)
  have f2 : bf z 8 6 = sb := bf_eq z 8 sb (by omega)
  simp only [decodeSlot, decodeS, decodeAlu, o0, o1, f0, f1, f2]
  exact checked_ok _ _ _ (rfl) hwf

theorem Laws.Enc.max (sd : BitVec 6) (sa : BitVec 6) (sb : BitVec 6) : Laws.Enc.Statement (.max sd sa sb) := by
  intro hwf
  have b0 := sd.isLt
  have b1 := sa.isLt
  have b2 := sb.isLt
  generalize hw : sd.toNat * 1048576 + sa.toNat * 16384 + sb.toNat * 256 + 25 = z
  refine ⟨z, by rw [← hw]; rfl, by simp only [slotBytes]; omega, ?_⟩
  have o0 : fld z 26 6 = 0 := by unfold fld; omega
  have o1 : fld z 0 8 = 25 := by unfold fld; omega
  have f0 : bf z 20 6 = sd := bf_eq z 20 sd (by omega)
  have f1 : bf z 14 6 = sa := bf_eq z 14 sa (by omega)
  have f2 : bf z 8 6 = sb := bf_eq z 8 sb (by omega)
  simp only [decodeSlot, decodeS, decodeAlu, o0, o1, f0, f1, f2]
  exact checked_ok _ _ _ (rfl) hwf

theorem Laws.Enc.minu (sd : BitVec 6) (sa : BitVec 6) (sb : BitVec 6) : Laws.Enc.Statement (.minu sd sa sb) := by
  intro hwf
  have b0 := sd.isLt
  have b1 := sa.isLt
  have b2 := sb.isLt
  generalize hw : sd.toNat * 1048576 + sa.toNat * 16384 + sb.toNat * 256 + 26 = z
  refine ⟨z, by rw [← hw]; rfl, by simp only [slotBytes]; omega, ?_⟩
  have o0 : fld z 26 6 = 0 := by unfold fld; omega
  have o1 : fld z 0 8 = 26 := by unfold fld; omega
  have f0 : bf z 20 6 = sd := bf_eq z 20 sd (by omega)
  have f1 : bf z 14 6 = sa := bf_eq z 14 sa (by omega)
  have f2 : bf z 8 6 = sb := bf_eq z 8 sb (by omega)
  simp only [decodeSlot, decodeS, decodeAlu, o0, o1, f0, f1, f2]
  exact checked_ok _ _ _ (rfl) hwf

theorem Laws.Enc.maxu (sd : BitVec 6) (sa : BitVec 6) (sb : BitVec 6) : Laws.Enc.Statement (.maxu sd sa sb) := by
  intro hwf
  have b0 := sd.isLt
  have b1 := sa.isLt
  have b2 := sb.isLt
  generalize hw : sd.toNat * 1048576 + sa.toNat * 16384 + sb.toNat * 256 + 27 = z
  refine ⟨z, by rw [← hw]; rfl, by simp only [slotBytes]; omega, ?_⟩
  have o0 : fld z 26 6 = 0 := by unfold fld; omega
  have o1 : fld z 0 8 = 27 := by unfold fld; omega
  have f0 : bf z 20 6 = sd := bf_eq z 20 sd (by omega)
  have f1 : bf z 14 6 = sa := bf_eq z 14 sa (by omega)
  have f2 : bf z 8 6 = sb := bf_eq z 8 sb (by omega)
  simp only [decodeSlot, decodeS, decodeAlu, o0, o1, f0, f1, f2]
  exact checked_ok _ _ _ (rfl) hwf

theorem Laws.Enc.seq (sd : BitVec 6) (sa : BitVec 6) (sb : BitVec 6) : Laws.Enc.Statement (.seq sd sa sb) := by
  intro hwf
  have b0 := sd.isLt
  have b1 := sa.isLt
  have b2 := sb.isLt
  generalize hw : sd.toNat * 1048576 + sa.toNat * 16384 + sb.toNat * 256 + 32 = z
  refine ⟨z, by rw [← hw]; rfl, by simp only [slotBytes]; omega, ?_⟩
  have o0 : fld z 26 6 = 0 := by unfold fld; omega
  have o1 : fld z 0 8 = 32 := by unfold fld; omega
  have f0 : bf z 20 6 = sd := bf_eq z 20 sd (by omega)
  have f1 : bf z 14 6 = sa := bf_eq z 14 sa (by omega)
  have f2 : bf z 8 6 = sb := bf_eq z 8 sb (by omega)
  simp only [decodeSlot, decodeS, decodeAlu, o0, o1, f0, f1, f2]
  exact checked_ok _ _ _ (rfl) hwf

theorem Laws.Enc.slt (sd : BitVec 6) (sa : BitVec 6) (sb : BitVec 6) : Laws.Enc.Statement (.slt sd sa sb) := by
  intro hwf
  have b0 := sd.isLt
  have b1 := sa.isLt
  have b2 := sb.isLt
  generalize hw : sd.toNat * 1048576 + sa.toNat * 16384 + sb.toNat * 256 + 33 = z
  refine ⟨z, by rw [← hw]; rfl, by simp only [slotBytes]; omega, ?_⟩
  have o0 : fld z 26 6 = 0 := by unfold fld; omega
  have o1 : fld z 0 8 = 33 := by unfold fld; omega
  have f0 : bf z 20 6 = sd := bf_eq z 20 sd (by omega)
  have f1 : bf z 14 6 = sa := bf_eq z 14 sa (by omega)
  have f2 : bf z 8 6 = sb := bf_eq z 8 sb (by omega)
  simp only [decodeSlot, decodeS, decodeAlu, o0, o1, f0, f1, f2]
  exact checked_ok _ _ _ (rfl) hwf

theorem Laws.Enc.sltu (sd : BitVec 6) (sa : BitVec 6) (sb : BitVec 6) : Laws.Enc.Statement (.sltu sd sa sb) := by
  intro hwf
  have b0 := sd.isLt
  have b1 := sa.isLt
  have b2 := sb.isLt
  generalize hw : sd.toNat * 1048576 + sa.toNat * 16384 + sb.toNat * 256 + 34 = z
  refine ⟨z, by rw [← hw]; rfl, by simp only [slotBytes]; omega, ?_⟩
  have o0 : fld z 26 6 = 0 := by unfold fld; omega
  have o1 : fld z 0 8 = 34 := by unfold fld; omega
  have f0 : bf z 20 6 = sd := bf_eq z 20 sd (by omega)
  have f1 : bf z 14 6 = sa := bf_eq z 14 sa (by omega)
  have f2 : bf z 8 6 = sb := bf_eq z 8 sb (by omega)
  simp only [decodeSlot, decodeS, decodeAlu, o0, o1, f0, f1, f2]
  exact checked_ok _ _ _ (rfl) hwf

theorem Laws.Enc.selz (sd : BitVec 6) (sa : BitVec 6) (sb : BitVec 6) : Laws.Enc.Statement (.selz sd sa sb) := by
  intro hwf
  have b0 := sd.isLt
  have b1 := sa.isLt
  have b2 := sb.isLt
  generalize hw : sd.toNat * 1048576 + sa.toNat * 16384 + sb.toNat * 256 + 35 = z
  refine ⟨z, by rw [← hw]; rfl, by simp only [slotBytes]; omega, ?_⟩
  have o0 : fld z 26 6 = 0 := by unfold fld; omega
  have o1 : fld z 0 8 = 35 := by unfold fld; omega
  have f0 : bf z 20 6 = sd := bf_eq z 20 sd (by omega)
  have f1 : bf z 14 6 = sa := bf_eq z 14 sa (by omega)
  have f2 : bf z 8 6 = sb := bf_eq z 8 sb (by omega)
  simp only [decodeSlot, decodeS, decodeAlu, o0, o1, f0, f1, f2]
  exact checked_ok _ _ _ (rfl) hwf

theorem Laws.Enc.clz (sd : BitVec 6) (sa : BitVec 6) : Laws.Enc.Statement (.clz sd sa) := by
  intro hwf
  have b0 := sd.isLt
  have b1 := sa.isLt
  generalize hw : sd.toNat * 1048576 + sa.toNat * 16384 + 40 = z
  refine ⟨z, by rw [← hw]; rfl, by simp only [slotBytes]; omega, ?_⟩
  have o0 : fld z 26 6 = 0 := by unfold fld; omega
  have o1 : fld z 0 8 = 40 := by unfold fld; omega
  have f0 : bf z 20 6 = sd := bf_eq z 20 sd (by omega)
  have f1 : bf z 14 6 = sa := bf_eq z 14 sa (by omega)
  have r0 : fld z 8 6 = 0 := by unfold fld; omega
  simp only [decodeSlot, decodeS, decodeAlu, o0, o1, f0, f1]
  exact checked_ok _ _ _ (by simp [r0]) hwf

theorem Laws.Enc.ctz (sd : BitVec 6) (sa : BitVec 6) : Laws.Enc.Statement (.ctz sd sa) := by
  intro hwf
  have b0 := sd.isLt
  have b1 := sa.isLt
  generalize hw : sd.toNat * 1048576 + sa.toNat * 16384 + 41 = z
  refine ⟨z, by rw [← hw]; rfl, by simp only [slotBytes]; omega, ?_⟩
  have o0 : fld z 26 6 = 0 := by unfold fld; omega
  have o1 : fld z 0 8 = 41 := by unfold fld; omega
  have f0 : bf z 20 6 = sd := bf_eq z 20 sd (by omega)
  have f1 : bf z 14 6 = sa := bf_eq z 14 sa (by omega)
  have r0 : fld z 8 6 = 0 := by unfold fld; omega
  simp only [decodeSlot, decodeS, decodeAlu, o0, o1, f0, f1]
  exact checked_ok _ _ _ (by simp [r0]) hwf

theorem Laws.Enc.popc (sd : BitVec 6) (sa : BitVec 6) : Laws.Enc.Statement (.popc sd sa) := by
  intro hwf
  have b0 := sd.isLt
  have b1 := sa.isLt
  generalize hw : sd.toNat * 1048576 + sa.toNat * 16384 + 42 = z
  refine ⟨z, by rw [← hw]; rfl, by simp only [slotBytes]; omega, ?_⟩
  have o0 : fld z 26 6 = 0 := by unfold fld; omega
  have o1 : fld z 0 8 = 42 := by unfold fld; omega
  have f0 : bf z 20 6 = sd := bf_eq z 20 sd (by omega)
  have f1 : bf z 14 6 = sa := bf_eq z 14 sa (by omega)
  have r0 : fld z 8 6 = 0 := by unfold fld; omega
  simp only [decodeSlot, decodeS, decodeAlu, o0, o1, f0, f1]
  exact checked_ok _ _ _ (by simp [r0]) hwf

theorem Laws.Enc.brev (sd : BitVec 6) (sa : BitVec 6) : Laws.Enc.Statement (.brev sd sa) := by
  intro hwf
  have b0 := sd.isLt
  have b1 := sa.isLt
  generalize hw : sd.toNat * 1048576 + sa.toNat * 16384 + 43 = z
  refine ⟨z, by rw [← hw]; rfl, by simp only [slotBytes]; omega, ?_⟩
  have o0 : fld z 26 6 = 0 := by unfold fld; omega
  have o1 : fld z 0 8 = 43 := by unfold fld; omega
  have f0 : bf z 20 6 = sd := bf_eq z 20 sd (by omega)
  have f1 : bf z 14 6 = sa := bf_eq z 14 sa (by omega)
  have r0 : fld z 8 6 = 0 := by unfold fld; omega
  simp only [decodeSlot, decodeS, decodeAlu, o0, o1, f0, f1]
  exact checked_ok _ _ _ (by simp [r0]) hwf

theorem Laws.Enc.fshr (sd : BitVec 6) (sa : BitVec 6) (sb : BitVec 6) : Laws.Enc.Statement (.fshr sd sa sb) := by
  intro hwf
  have b0 := sd.isLt
  have b1 := sa.isLt
  have b2 := sb.isLt
  generalize hw : sd.toNat * 1048576 + sa.toNat * 16384 + sb.toNat * 256 + 48 = z
  refine ⟨z, by rw [← hw]; rfl, by simp only [slotBytes]; omega, ?_⟩
  have o0 : fld z 26 6 = 0 := by unfold fld; omega
  have o1 : fld z 0 8 = 48 := by unfold fld; omega
  have f0 : bf z 20 6 = sd := bf_eq z 20 sd (by omega)
  have f1 : bf z 14 6 = sa := bf_eq z 14 sa (by omega)
  have f2 : bf z 8 6 = sb := bf_eq z 8 sb (by omega)
  simp only [decodeSlot, decodeS, decodeAlu, o0, o1, f0, f1, f2]
  exact checked_ok _ _ _ (rfl) hwf

theorem Laws.Enc.addi (sd : BitVec 6) (sa : BitVec 6) (imm : BitVec 14) : Laws.Enc.Statement (.addi sd sa imm) := by
  intro hwf
  have b0 := sd.isLt
  have b1 := sa.isLt
  have b2 := imm.isLt
  generalize hw : sd.toNat * 1048576 + sa.toNat * 16384 + imm.toNat + 67108864 = z
  refine ⟨z, by rw [← hw]; rfl, by simp only [slotBytes]; omega, ?_⟩
  have o0 : fld z 26 6 = 1 := by unfold fld; omega
  have f0 : bf z 20 6 = sd := bf_eq z 20 sd (by omega)
  have f1 : bf z 14 6 = sa := bf_eq z 14 sa (by omega)
  have f2 : bf z 0 14 = imm := bf_eq z 0 imm (by omega)
  simp only [decodeSlot, decodeS, o0, f0, f1, f2]
  exact checked_ok _ _ _ (rfl) hwf

theorem Laws.Enc.andi (sd : BitVec 6) (sa : BitVec 6) (imm : BitVec 14) : Laws.Enc.Statement (.andi sd sa imm) := by
  intro hwf
  have b0 := sd.isLt
  have b1 := sa.isLt
  have b2 := imm.isLt
  generalize hw : sd.toNat * 1048576 + sa.toNat * 16384 + imm.toNat + 134217728 = z
  refine ⟨z, by rw [← hw]; rfl, by simp only [slotBytes]; omega, ?_⟩
  have o0 : fld z 26 6 = 2 := by unfold fld; omega
  have f0 : bf z 20 6 = sd := bf_eq z 20 sd (by omega)
  have f1 : bf z 14 6 = sa := bf_eq z 14 sa (by omega)
  have f2 : bf z 0 14 = imm := bf_eq z 0 imm (by omega)
  simp only [decodeSlot, decodeS, o0, f0, f1, f2]
  exact checked_ok _ _ _ (rfl) hwf

theorem Laws.Enc.ori (sd : BitVec 6) (sa : BitVec 6) (imm : BitVec 14) : Laws.Enc.Statement (.ori sd sa imm) := by
  intro hwf
  have b0 := sd.isLt
  have b1 := sa.isLt
  have b2 := imm.isLt
  generalize hw : sd.toNat * 1048576 + sa.toNat * 16384 + imm.toNat + 201326592 = z
  refine ⟨z, by rw [← hw]; rfl, by simp only [slotBytes]; omega, ?_⟩
  have o0 : fld z 26 6 = 3 := by unfold fld; omega
  have f0 : bf z 20 6 = sd := bf_eq z 20 sd (by omega)
  have f1 : bf z 14 6 = sa := bf_eq z 14 sa (by omega)
  have f2 : bf z 0 14 = imm := bf_eq z 0 imm (by omega)
  simp only [decodeSlot, decodeS, o0, f0, f1, f2]
  exact checked_ok _ _ _ (rfl) hwf

theorem Laws.Enc.xori (sd : BitVec 6) (sa : BitVec 6) (imm : BitVec 14) : Laws.Enc.Statement (.xori sd sa imm) := by
  intro hwf
  have b0 := sd.isLt
  have b1 := sa.isLt
  have b2 := imm.isLt
  generalize hw : sd.toNat * 1048576 + sa.toNat * 16384 + imm.toNat + 268435456 = z
  refine ⟨z, by rw [← hw]; rfl, by simp only [slotBytes]; omega, ?_⟩
  have o0 : fld z 26 6 = 4 := by unfold fld; omega
  have f0 : bf z 20 6 = sd := bf_eq z 20 sd (by omega)
  have f1 : bf z 14 6 = sa := bf_eq z 14 sa (by omega)
  have f2 : bf z 0 14 = imm := bf_eq z 0 imm (by omega)
  simp only [decodeSlot, decodeS, o0, f0, f1, f2]
  exact checked_ok _ _ _ (rfl) hwf

theorem Laws.Enc.slti (sd : BitVec 6) (sa : BitVec 6) (imm : BitVec 14) : Laws.Enc.Statement (.slti sd sa imm) := by
  intro hwf
  have b0 := sd.isLt
  have b1 := sa.isLt
  have b2 := imm.isLt
  generalize hw : sd.toNat * 1048576 + sa.toNat * 16384 + imm.toNat + 335544320 = z
  refine ⟨z, by rw [← hw]; rfl, by simp only [slotBytes]; omega, ?_⟩
  have o0 : fld z 26 6 = 5 := by unfold fld; omega
  have f0 : bf z 20 6 = sd := bf_eq z 20 sd (by omega)
  have f1 : bf z 14 6 = sa := bf_eq z 14 sa (by omega)
  have f2 : bf z 0 14 = imm := bf_eq z 0 imm (by omega)
  simp only [decodeSlot, decodeS, o0, f0, f1, f2]
  exact checked_ok _ _ _ (rfl) hwf

theorem Laws.Enc.sltiu (sd : BitVec 6) (sa : BitVec 6) (imm : BitVec 14) : Laws.Enc.Statement (.sltiu sd sa imm) := by
  intro hwf
  have b0 := sd.isLt
  have b1 := sa.isLt
  have b2 := imm.isLt
  generalize hw : sd.toNat * 1048576 + sa.toNat * 16384 + imm.toNat + 402653184 = z
  refine ⟨z, by rw [← hw]; rfl, by simp only [slotBytes]; omega, ?_⟩
  have o0 : fld z 26 6 = 6 := by unfold fld; omega
  have f0 : bf z 20 6 = sd := bf_eq z 20 sd (by omega)
  have f1 : bf z 14 6 = sa := bf_eq z 14 sa (by omega)
  have f2 : bf z 0 14 = imm := bf_eq z 0 imm (by omega)
  simp only [decodeSlot, decodeS, o0, f0, f1, f2]
  exact checked_ok _ _ _ (rfl) hwf

theorem Laws.Enc.fshri (sd : BitVec 6) (sa : BitVec 6) (sb : BitVec 6) (sh : BitVec 6) : Laws.Enc.Statement (.fshri sd sa sb sh) := by
  intro hwf
  have b0 := sd.isLt
  have b1 := sa.isLt
  have b2 := sb.isLt
  have b3 := sh.isLt
  generalize hw : sd.toNat * 1048576 + sa.toNat * 16384 + sb.toNat * 256 + sh.toNat * 4 + 469762048 = z
  refine ⟨z, by rw [← hw]; rfl, by simp only [slotBytes]; omega, ?_⟩
  have o0 : fld z 26 6 = 7 := by unfold fld; omega
  have f0 : bf z 20 6 = sd := bf_eq z 20 sd (by omega)
  have f1 : bf z 14 6 = sa := bf_eq z 14 sa (by omega)
  have f2 : bf z 8 6 = sb := bf_eq z 8 sb (by omega)
  have f3 : bf z 2 6 = sh := bf_eq z 2 sh (by omega)
  have r0 : fld z 0 2 = 0 := by unfold fld; omega
  simp only [decodeSlot, decodeS, o0, f0, f1, f2, f3]
  exact checked_ok _ _ _ (by simp [r0]) hwf

theorem Laws.Enc.shli (sd : BitVec 6) (sa : BitVec 6) (sh : BitVec 6) : Laws.Enc.Statement (.shli sd sa sh) := by
  intro hwf
  have b0 := sd.isLt
  have b1 := sa.isLt
  have b2 := sh.isLt
  generalize hw : sd.toNat * 1048576 + sa.toNat * 16384 + sh.toNat + 536870912 = z
  refine ⟨z, by rw [← hw]; rfl, by simp only [slotBytes]; omega, ?_⟩
  have o0 : fld z 26 6 = 8 := by unfold fld; omega
  have f0 : bf z 20 6 = sd := bf_eq z 20 sd (by omega)
  have f1 : bf z 14 6 = sa := bf_eq z 14 sa (by omega)
  have f2 : bf z 0 6 = sh := bf_eq z 0 sh (by omega)
  have r0 : fld z 6 8 = 0 := by unfold fld; omega
  simp only [decodeSlot, decodeS, o0, f0, f1, f2]
  exact checked_ok _ _ _ (by simp [r0]) hwf

theorem Laws.Enc.shri (sd : BitVec 6) (sa : BitVec 6) (sh : BitVec 6) : Laws.Enc.Statement (.shri sd sa sh) := by
  intro hwf
  have b0 := sd.isLt
  have b1 := sa.isLt
  have b2 := sh.isLt
  generalize hw : sd.toNat * 1048576 + sa.toNat * 16384 + sh.toNat + 603979776 = z
  refine ⟨z, by rw [← hw]; rfl, by simp only [slotBytes]; omega, ?_⟩
  have o0 : fld z 26 6 = 9 := by unfold fld; omega
  have f0 : bf z 20 6 = sd := bf_eq z 20 sd (by omega)
  have f1 : bf z 14 6 = sa := bf_eq z 14 sa (by omega)
  have f2 : bf z 0 6 = sh := bf_eq z 0 sh (by omega)
  have r0 : fld z 6 8 = 0 := by unfold fld; omega
  simp only [decodeSlot, decodeS, o0, f0, f1, f2]
  exact checked_ok _ _ _ (by simp [r0]) hwf

theorem Laws.Enc.sari (sd : BitVec 6) (sa : BitVec 6) (sh : BitVec 6) : Laws.Enc.Statement (.sari sd sa sh) := by
  intro hwf
  have b0 := sd.isLt
  have b1 := sa.isLt
  have b2 := sh.isLt
  generalize hw : sd.toNat * 1048576 + sa.toNat * 16384 + sh.toNat + 671088640 = z
  refine ⟨z, by rw [← hw]; rfl, by simp only [slotBytes]; omega, ?_⟩
  have o0 : fld z 26 6 = 10 := by unfold fld; omega
  have f0 : bf z 20 6 = sd := bf_eq z 20 sd (by omega)
  have f1 : bf z 14 6 = sa := bf_eq z 14 sa (by omega)
  have f2 : bf z 0 6 = sh := bf_eq z 0 sh (by omega)
  have r0 : fld z 6 8 = 0 := by unfold fld; omega
  simp only [decodeSlot, decodeS, o0, f0, f1, f2]
  exact checked_ok _ _ _ (by simp [r0]) hwf

theorem Laws.Enc.muli (sd : BitVec 6) (sa : BitVec 6) (imm : BitVec 14) : Laws.Enc.Statement (.muli sd sa imm) := by
  intro hwf
  have b0 := sd.isLt
  have b1 := sa.isLt
  have b2 := imm.isLt
  generalize hw : sd.toNat * 1048576 + sa.toNat * 16384 + imm.toNat + 738197504 = z
  refine ⟨z, by rw [← hw]; rfl, by simp only [slotBytes]; omega, ?_⟩
  have o0 : fld z 26 6 = 11 := by unfold fld; omega
  have f0 : bf z 20 6 = sd := bf_eq z 20 sd (by omega)
  have f1 : bf z 14 6 = sa := bf_eq z 14 sa (by omega)
  have f2 : bf z 0 14 = imm := bf_eq z 0 imm (by omega)
  simp only [decodeSlot, decodeS, o0, f0, f1, f2]
  exact checked_ok _ _ _ (rfl) hwf

theorem Laws.Enc.sli (sd : BitVec 6) (imm : BitVec 20) : Laws.Enc.Statement (.sli sd imm) := by
  intro hwf
  have b0 := sd.isLt
  have b1 := imm.isLt
  generalize hw : sd.toNat * 1048576 + imm.toNat + 1073741824 = z
  refine ⟨z, by rw [← hw]; rfl, by simp only [slotBytes]; omega, ?_⟩
  have o0 : fld z 26 6 = 16 := by unfold fld; omega
  have f0 : bf z 20 6 = sd := bf_eq z 20 sd (by omega)
  have f1 : bf z 0 20 = imm := bf_eq z 0 imm (by omega)
  simp only [decodeSlot, decodeS, o0, f0, f1]
  exact checked_ok _ _ _ (rfl) hwf

theorem Laws.Enc.sins (sd : BitVec 6) (imm : BitVec 20) : Laws.Enc.Statement (.sins sd imm) := by
  intro hwf
  have b0 := sd.isLt
  have b1 := imm.isLt
  generalize hw : sd.toNat * 1048576 + imm.toNat + 1140850688 = z
  refine ⟨z, by rw [← hw]; rfl, by simp only [slotBytes]; omega, ?_⟩
  have o0 : fld z 26 6 = 17 := by unfold fld; omega
  have f0 : bf z 20 6 = sd := bf_eq z 20 sd (by omega)
  have f1 : bf z 0 20 = imm := bf_eq z 0 imm (by omega)
  simp only [decodeSlot, decodeS, o0, f0, f1]
  exact checked_ok _ _ _ (rfl) hwf

theorem Laws.Enc.bfx (sd : BitVec 6) (sa : BitVec 6) (pos : BitVec 6) (len : BitVec 6) : Laws.Enc.Statement (.bfx sd sa pos len) := by
  intro hwf
  have b0 := sd.isLt
  have b1 := sa.isLt
  have b2 := pos.isLt
  have b3 := len.isLt
  generalize hw : sd.toNat * 1048576 + sa.toNat * 16384 + pos.toNat * 256 + len.toNat * 4 + 1610612736 = z
  refine ⟨z, by rw [← hw]; rfl, by simp only [slotBytes]; omega, ?_⟩
  have o0 : fld z 26 6 = 24 := by unfold fld; omega
  have f0 : bf z 20 6 = sd := bf_eq z 20 sd (by omega)
  have f1 : bf z 14 6 = sa := bf_eq z 14 sa (by omega)
  have f2 : bf z 8 6 = pos := bf_eq z 8 pos (by omega)
  have f3 : bf z 2 6 = len := bf_eq z 2 len (by omega)
  have r0 : fld z 0 2 = 0 := by unfold fld; omega
  simp only [decodeSlot, decodeS, o0, f0, f1, f2, f3]
  exact checked_ok _ _ _ (by simp [r0]) hwf

theorem Laws.Enc.bfxu (sd : BitVec 6) (sa : BitVec 6) (pos : BitVec 6) (len : BitVec 6) : Laws.Enc.Statement (.bfxu sd sa pos len) := by
  intro hwf
  have b0 := sd.isLt
  have b1 := sa.isLt
  have b2 := pos.isLt
  have b3 := len.isLt
  generalize hw : sd.toNat * 1048576 + sa.toNat * 16384 + pos.toNat * 256 + len.toNat * 4 + 1677721600 = z
  refine ⟨z, by rw [← hw]; rfl, by simp only [slotBytes]; omega, ?_⟩
  have o0 : fld z 26 6 = 25 := by unfold fld; omega
  have f0 : bf z 20 6 = sd := bf_eq z 20 sd (by omega)
  have f1 : bf z 14 6 = sa := bf_eq z 14 sa (by omega)
  have f2 : bf z 8 6 = pos := bf_eq z 8 pos (by omega)
  have f3 : bf z 2 6 = len := bf_eq z 2 len (by omega)
  have r0 : fld z 0 2 = 0 := by unfold fld; omega
  simp only [decodeSlot, decodeS, o0, f0, f1, f2, f3]
  exact checked_ok _ _ _ (by simp [r0]) hwf

theorem Laws.Enc.bfi (sd : BitVec 6) (sa : BitVec 6) (pos : BitVec 6) (len : BitVec 6) : Laws.Enc.Statement (.bfi sd sa pos len) := by
  intro hwf
  have b0 := sd.isLt
  have b1 := sa.isLt
  have b2 := pos.isLt
  have b3 := len.isLt
  generalize hw : sd.toNat * 1048576 + sa.toNat * 16384 + pos.toNat * 256 + len.toNat * 4 + 1744830464 = z
  refine ⟨z, by rw [← hw]; rfl, by simp only [slotBytes]; omega, ?_⟩
  have o0 : fld z 26 6 = 26 := by unfold fld; omega
  have f0 : bf z 20 6 = sd := bf_eq z 20 sd (by omega)
  have f1 : bf z 14 6 = sa := bf_eq z 14 sa (by omega)
  have f2 : bf z 8 6 = pos := bf_eq z 8 pos (by omega)
  have f3 : bf z 2 6 = len := bf_eq z 2 len (by omega)
  have r0 : fld z 0 2 = 0 := by unfold fld; omega
  simp only [decodeSlot, decodeS, o0, f0, f1, f2, f3]
  exact checked_ok _ _ _ (by simp [r0]) hwf

theorem Laws.Enc.crr (sd : BitVec 6) (cr : BitVec 12) : Laws.Enc.Statement (.crr sd cr) := by
  intro hwf
  have b0 := sd.isLt
  have b1 := cr.isLt
  generalize hw : sd.toNat * 1048576 + cr.toNat + 2147483648 = z
  refine ⟨z, by rw [← hw]; rfl, by simp only [slotBytes]; omega, ?_⟩
  have o0 : fld z 26 6 = 32 := by unfold fld; omega
  have f0 : bf z 20 6 = sd := bf_eq z 20 sd (by omega)
  have f1 : bf z 0 12 = cr := bf_eq z 0 cr (by omega)
  have r0 : fld z 12 8 = 0 := by unfold fld; omega
  simp only [decodeSlot, decodeS, o0, f0, f1]
  exact checked_ok _ _ _ (by simp [r0]) hwf

theorem Laws.Enc.crw (sa : BitVec 6) (cr : BitVec 12) : Laws.Enc.Statement (.crw sa cr) := by
  intro hwf
  have b0 := sa.isLt
  have b1 := cr.isLt
  generalize hw : sa.toNat * 16384 + cr.toNat + 2214592512 = z
  refine ⟨z, by rw [← hw]; rfl, by simp only [slotBytes]; omega, ?_⟩
  have o0 : fld z 26 6 = 33 := by unfold fld; omega
  have f0 : bf z 14 6 = sa := bf_eq z 14 sa (by omega)
  have f1 : bf z 0 12 = cr := bf_eq z 0 cr (by omega)
  have r0 : fld z 12 2 = 0 := by unfold fld; omega
  have r1 : fld z 20 6 = 0 := by unfold fld; omega
  simp only [decodeSlot, decodeS, o0, f0, f1]
  exact checked_ok _ _ _ (by simp [r0, r1]) hwf

theorem Laws.Enc.setvl (sd : BitVec 6) (sa : BitVec 6) (vt : BitVec 14) : Laws.Enc.Statement (.setvl sd sa vt) := by
  intro hwf
  have b0 := sd.isLt
  have b1 := sa.isLt
  have b2 := vt.isLt
  generalize hw : sd.toNat * 1048576 + sa.toNat * 16384 + vt.toNat + 2281701376 = z
  refine ⟨z, by rw [← hw]; rfl, by simp only [slotBytes]; omega, ?_⟩
  have o0 : fld z 26 6 = 34 := by unfold fld; omega
  have f0 : bf z 20 6 = sd := bf_eq z 20 sd (by omega)
  have f1 : bf z 14 6 = sa := bf_eq z 14 sa (by omega)
  have f2 : bf z 0 14 = vt := bf_eq z 0 vt (by omega)
  simp only [decodeSlot, decodeS, o0, f0, f1, f2]
  exact checked_ok _ _ _ (rfl) hwf

theorem Laws.Enc.ldq (an : BitVec 4) (inc : BitVec 4) (size : BitVec 3) (off : BitVec 16) : Laws.Enc.Statement (.ldq an inc size off) := by
  intro hwf
  have b0 := an.isLt
  have b1 := inc.isLt
  have b2 := size.isLt
  have b3 := off.isLt
  generalize hw : an.toNat * 8388608 + inc.toNat * 524288 + size.toNat * 65536 + off.toNat = z
  refine ⟨z, by rw [← hw]; rfl, by simp only [slotBytes]; omega, ?_⟩
  have o0 : fld z 27 5 = 0 := by unfold fld; omega
  have f0 : bf z 23 4 = an := bf_eq z 23 an (by omega)
  have f1 : bf z 19 4 = inc := bf_eq z 19 inc (by omega)
  have f2 : bf z 16 3 = size := bf_eq z 16 size (by omega)
  have f3 : bf z 0 16 = off := bf_eq z 0 off (by omega)
  simp only [decodeSlot, decodeA, o0, f0, f1, f2, f3]
  exact checked_ok _ _ _ (rfl) hwf

theorem Laws.Enc.stq (an : BitVec 4) (inc : BitVec 4) (size : BitVec 3) (off : BitVec 16) : Laws.Enc.Statement (.stq an inc size off) := by
  intro hwf
  have b0 := an.isLt
  have b1 := inc.isLt
  have b2 := size.isLt
  have b3 := off.isLt
  generalize hw : an.toNat * 8388608 + inc.toNat * 524288 + size.toNat * 65536 + off.toNat + 134217728 = z
  refine ⟨z, by rw [← hw]; rfl, by simp only [slotBytes]; omega, ?_⟩
  have o0 : fld z 27 5 = 1 := by unfold fld; omega
  have f0 : bf z 23 4 = an := bf_eq z 23 an (by omega)
  have f1 : bf z 19 4 = inc := bf_eq z 19 inc (by omega)
  have f2 : bf z 16 3 = size := bf_eq z 16 size (by omega)
  have f3 : bf z 0 16 = off := bf_eq z 0 off (by omega)
  simp only [decodeSlot, decodeA, o0, f0, f1, f2, f3]
  exact checked_ok _ _ _ (rfl) hwf

theorem Laws.Enc.ld (an : BitVec 4) (sd : BitVec 6) (size : BitVec 3) (sx : BitVec 1) (off : BitVec 13) : Laws.Enc.Statement (.ld an sd size sx off) := by
  intro hwf
  have b0 := an.isLt
  have b1 := sd.isLt
  have b2 := size.isLt
  have b3 := sx.isLt
  have b4 := off.isLt
  generalize hw : an.toNat * 8388608 + sd.toNat * 131072 + size.toNat * 16384 + sx.toNat * 8192 + off.toNat + 268435456 = z
  refine ⟨z, by rw [← hw]; rfl, by simp only [slotBytes]; omega, ?_⟩
  have o0 : fld z 27 5 = 2 := by unfold fld; omega
  have f0 : bf z 23 4 = an := bf_eq z 23 an (by omega)
  have f1 : bf z 17 6 = sd := bf_eq z 17 sd (by omega)
  have f2 : bf z 14 3 = size := bf_eq z 14 size (by omega)
  have f3 : bf z 13 1 = sx := bf_eq z 13 sx (by omega)
  have f4 : bf z 0 13 = off := bf_eq z 0 off (by omega)
  simp only [decodeSlot, decodeA, o0, f0, f1, f2, f3, f4]
  exact checked_ok _ _ _ (rfl) hwf

theorem Laws.Enc.st (an : BitVec 4) (sv : BitVec 6) (size : BitVec 3) (off : BitVec 13) : Laws.Enc.Statement (.st an sv size off) := by
  intro hwf
  have b0 := an.isLt
  have b1 := sv.isLt
  have b2 := size.isLt
  have b3 := off.isLt
  generalize hw : an.toNat * 8388608 + sv.toNat * 131072 + size.toNat * 16384 + off.toNat + 402653184 = z
  refine ⟨z, by rw [← hw]; rfl, by simp only [slotBytes]; omega, ?_⟩
  have o0 : fld z 27 5 = 3 := by unfold fld; omega
  have f0 : bf z 23 4 = an := bf_eq z 23 an (by omega)
  have f1 : bf z 17 6 = sv := bf_eq z 17 sv (by omega)
  have f2 : bf z 14 3 = size := bf_eq z 14 size (by omega)
  have f3 : bf z 0 13 = off := bf_eq z 0 off (by omega)
  have r0 : fld z 13 1 = 0 := by unfold fld; omega
  simp only [decodeSlot, decodeA, o0, f0, f1, f2, f3]
  exact checked_ok _ _ _ (by simp [r0]) hwf

theorem Laws.Enc.vldq (an : BitVec 4) (ss : BitVec 6) (ff : BitVec 1) (off : BitVec 9) (inc : BitVec 4) : Laws.Enc.Statement (.vldq an ss ff off inc) := by
  intro hwf
  have b0 := an.isLt
  have b1 := ss.isLt
  have b2 := ff.isLt
  have b3 := off.isLt
  have b4 := inc.isLt
  generalize hw : an.toNat * 8388608 + ss.toNat * 131072 + ff.toNat * 65536 + off.toNat * 128 + inc.toNat + 536870912 = z
  refine ⟨z, by rw [← hw]; rfl, by simp only [slotBytes]; omega, ?_⟩
  have o0 : fld z 27 5 = 4 := by unfold fld; omega
  have f0 : bf z 23 4 = an := bf_eq z 23 an (by omega)
  have f1 : bf z 17 6 = ss := bf_eq z 17 ss (by omega)
  have f2 : bf z 16 1 = ff := bf_eq z 16 ff (by omega)
  have f3 : bf z 7 9 = off := bf_eq z 7 off (by omega)
  have f4 : bf z 0 4 = inc := bf_eq z 0 inc (by omega)
  have r0 : fld z 4 3 = 0 := by unfold fld; omega
  simp only [decodeSlot, decodeA, o0, f0, f1, f2, f3, f4]
  exact checked_ok _ _ _ (by simp [r0]) hwf

theorem Laws.Enc.vstq (an : BitVec 4) (ss : BitVec 6) (off : BitVec 9) (inc : BitVec 4) : Laws.Enc.Statement (.vstq an ss off inc) := by
  intro hwf
  have b0 := an.isLt
  have b1 := ss.isLt
  have b2 := off.isLt
  have b3 := inc.isLt
  generalize hw : an.toNat * 8388608 + ss.toNat * 131072 + off.toNat * 128 + inc.toNat + 671088640 = z
  refine ⟨z, by rw [← hw]; rfl, by simp only [slotBytes]; omega, ?_⟩
  have o0 : fld z 27 5 = 5 := by unfold fld; omega
  have f0 : bf z 23 4 = an := bf_eq z 23 an (by omega)
  have f1 : bf z 17 6 = ss := bf_eq z 17 ss (by omega)
  have f2 : bf z 7 9 = off := bf_eq z 7 off (by omega)
  have f3 : bf z 0 4 = inc := bf_eq z 0 inc (by omega)
  have r0 : fld z 4 3 = 0 := by unfold fld; omega
  have r1 : fld z 16 1 = 0 := by unfold fld; omega
  simp only [decodeSlot, decodeA, o0, f0, f1, f2, f3]
  exact checked_ok _ _ _ (by simp [r0, r1]) hwf

theorem Laws.Enc.vgathq (an : BitVec 4) (sb : BitVec 6) (ff : BitVec 1) (vi : BitVec 9) (mode : BitVec 3) (inc : BitVec 4) : Laws.Enc.Statement (.vgathq an sb ff vi mode inc) := by
  intro hwf
  have b0 := an.isLt
  have b1 := sb.isLt
  have b2 := ff.isLt
  have b3 := vi.isLt
  have b4 := mode.isLt
  have b5 := inc.isLt
  generalize hw : an.toNat * 8388608 + sb.toNat * 131072 + ff.toNat * 65536 + vi.toNat * 128 + mode.toNat * 16 + inc.toNat + 805306368 = z
  refine ⟨z, by rw [← hw]; rfl, by simp only [slotBytes]; omega, ?_⟩
  have o0 : fld z 27 5 = 6 := by unfold fld; omega
  have f0 : bf z 23 4 = an := bf_eq z 23 an (by omega)
  have f1 : bf z 17 6 = sb := bf_eq z 17 sb (by omega)
  have f2 : bf z 16 1 = ff := bf_eq z 16 ff (by omega)
  have f3 : bf z 7 9 = vi := bf_eq z 7 vi (by omega)
  have f4 : bf z 4 3 = mode := bf_eq z 4 mode (by omega)
  have f5 : bf z 0 4 = inc := bf_eq z 0 inc (by omega)
  simp only [decodeSlot, decodeA, o0, f0, f1, f2, f3, f4, f5]
  exact checked_ok _ _ _ (rfl) hwf

theorem Laws.Enc.vscatq (an : BitVec 4) (sb : BitVec 6) (ff : BitVec 1) (vi : BitVec 9) (mode : BitVec 3) (inc : BitVec 4) : Laws.Enc.Statement (.vscatq an sb ff vi mode inc) := by
  intro hwf
  have b0 := an.isLt
  have b1 := sb.isLt
  have b2 := ff.isLt
  have b3 := vi.isLt
  have b4 := mode.isLt
  have b5 := inc.isLt
  generalize hw : an.toNat * 8388608 + sb.toNat * 131072 + ff.toNat * 65536 + vi.toNat * 128 + mode.toNat * 16 + inc.toNat + 939524096 = z
  refine ⟨z, by rw [← hw]; rfl, by simp only [slotBytes]; omega, ?_⟩
  have o0 : fld z 27 5 = 7 := by unfold fld; omega
  have f0 : bf z 23 4 = an := bf_eq z 23 an (by omega)
  have f1 : bf z 17 6 = sb := bf_eq z 17 sb (by omega)
  have f2 : bf z 16 1 = ff := bf_eq z 16 ff (by omega)
  have f3 : bf z 7 9 = vi := bf_eq z 7 vi (by omega)
  have f4 : bf z 4 3 = mode := bf_eq z 4 mode (by omega)
  have f5 : bf z 0 4 = inc := bf_eq z 0 inc (by omega)
  simp only [decodeSlot, decodeA, o0, f0, f1, f2, f3, f4, f5]
  exact checked_ok _ _ _ (rfl) hwf

theorem Laws.Enc.amo (an : BitVec 4) (sd : BitVec 6) (sa : BitVec 6) (op : BitVec 4) (size : BitVec 2) (ord : BitVec 2) (scope : BitVec 3) : Laws.Enc.Statement (.amo an sd sa op size ord scope) := by
  intro hwf
  have b0 := an.isLt
  have b1 := sd.isLt
  have b2 := sa.isLt
  have b3 := op.isLt
  have b4 := size.isLt
  have b5 := ord.isLt
  have b6 := scope.isLt
  generalize hw : an.toNat * 8388608 + sd.toNat * 131072 + sa.toNat * 2048 + op.toNat * 128 + size.toNat * 32 + ord.toNat * 8 + scope.toNat + 1073741824 = z
  refine ⟨z, by rw [← hw]; rfl, by simp only [slotBytes]; omega, ?_⟩
  have o0 : fld z 27 5 = 8 := by unfold fld; omega
  have o1 : fld z 7 4 ≠ 11 := by
    simp only [Instr.wf, Bool.and_eq_true, decide_eq_true_eq] at hwf
    unfold fld; omega
  have f0 : bf z 23 4 = an := bf_eq z 23 an (by omega)
  have f1 : bf z 17 6 = sd := bf_eq z 17 sd (by omega)
  have f2 : bf z 11 6 = sa := bf_eq z 11 sa (by omega)
  have f3 : bf z 7 4 = op := bf_eq z 7 op (by omega)
  have f4 : bf z 5 2 = size := bf_eq z 5 size (by omega)
  have f5 : bf z 3 2 = ord := bf_eq z 3 ord (by omega)
  have f6 : bf z 0 3 = scope := bf_eq z 0 scope (by omega)
  simp only [decodeSlot, ↓reduceIte, decodeA, decodeAmo, o0, o1, f0, f1, f2, f3, f4, f5, f6]
  exact checked_ok _ _ _ (rfl) hwf

theorem Laws.Enc.amoChunk (an : BitVec 4) (sd : BitVec 6) (sa : BitVec 6) (ord : BitVec 2) (scope : BitVec 3) : Laws.Enc.Statement (.amoChunk an sd sa ord scope) := by
  intro hwf
  have b0 := an.isLt
  have b1 := sd.isLt
  have b2 := sa.isLt
  have b3 := ord.isLt
  have b4 := scope.isLt
  generalize hw : an.toNat * 8388608 + sd.toNat * 131072 + sa.toNat * 2048 + ord.toNat * 8 + scope.toNat + 1073743264 = z
  refine ⟨z, by rw [← hw]; rfl, by simp only [slotBytes]; omega, ?_⟩
  have o0 : fld z 27 5 = 8 := by unfold fld; omega
  have o1 : fld z 7 4 = 11 := by unfold fld; omega
  have f0 : bf z 23 4 = an := bf_eq z 23 an (by omega)
  have f1 : bf z 17 6 = sd := bf_eq z 17 sd (by omega)
  have f2 : bf z 11 6 = sa := bf_eq z 11 sa (by omega)
  have f3 : bf z 3 2 = ord := bf_eq z 3 ord (by omega)
  have f4 : bf z 0 3 = scope := bf_eq z 0 scope (by omega)
  have r0 : fld z 5 2 = 1 := by unfold fld; omega
  simp only [decodeSlot, ↓reduceIte, decodeA, decodeAmo, o0, o1, f0, f1, f2, f3, f4]
  exact checked_ok _ _ _ (by simp [r0]) hwf

theorem Laws.Enc.ldfe (an : BitVec 4) (inc : BitVec 4) (off : BitVec 16) : Laws.Enc.Statement (.ldfe an inc off) := by
  intro hwf
  have b0 := an.isLt
  have b1 := inc.isLt
  have b2 := off.isLt
  generalize hw : an.toNat * 8388608 + inc.toNat * 524288 + off.toNat + 1208090624 = z
  refine ⟨z, by rw [← hw]; rfl, by simp only [slotBytes]; omega, ?_⟩
  have o0 : fld z 27 5 = 9 := by unfold fld; omega
  have f0 : bf z 23 4 = an := bf_eq z 23 an (by omega)
  have f1 : bf z 19 4 = inc := bf_eq z 19 inc (by omega)
  have f2 : bf z 0 16 = off := bf_eq z 0 off (by omega)
  have r0 : fld z 16 3 = 2 := by unfold fld; omega
  simp only [decodeSlot, decodeA, o0, f0, f1, f2]
  exact checked_ok _ _ _ (by simp [r0]) hwf

theorem Laws.Enc.ldff (an : BitVec 4) (inc : BitVec 4) (off : BitVec 16) : Laws.Enc.Statement (.ldff an inc off) := by
  intro hwf
  have b0 := an.isLt
  have b1 := inc.isLt
  have b2 := off.isLt
  generalize hw : an.toNat * 8388608 + inc.toNat * 524288 + off.toNat + 1342308352 = z
  refine ⟨z, by rw [← hw]; rfl, by simp only [slotBytes]; omega, ?_⟩
  have o0 : fld z 27 5 = 10 := by unfold fld; omega
  have f0 : bf z 23 4 = an := bf_eq z 23 an (by omega)
  have f1 : bf z 19 4 = inc := bf_eq z 19 inc (by omega)
  have f2 : bf z 0 16 = off := bf_eq z 0 off (by omega)
  have r0 : fld z 16 3 = 2 := by unfold fld; omega
  simp only [decodeSlot, decodeA, o0, f0, f1, f2]
  exact checked_ok _ _ _ (by simp [r0]) hwf

theorem Laws.Enc.stef (an : BitVec 4) (inc : BitVec 4) (off : BitVec 16) : Laws.Enc.Statement (.stef an inc off) := by
  intro hwf
  have b0 := an.isLt
  have b1 := inc.isLt
  have b2 := off.isLt
  generalize hw : an.toNat * 8388608 + inc.toNat * 524288 + off.toNat + 1476526080 = z
  refine ⟨z, by rw [← hw]; rfl, by simp only [slotBytes]; omega, ?_⟩
  have o0 : fld z 27 5 = 11 := by unfold fld; omega
  have f0 : bf z 23 4 = an := bf_eq z 23 an (by omega)
  have f1 : bf z 19 4 = inc := bf_eq z 19 inc (by omega)
  have f2 : bf z 0 16 = off := bf_eq z 0 off (by omega)
  have r0 : fld z 16 3 = 2 := by unfold fld; omega
  simp only [decodeSlot, decodeA, o0, f0, f1, f2]
  exact checked_ok _ _ _ (by simp [r0]) hwf

theorem Laws.Enc.femark (an : BitVec 4) (sc : BitVec 6) (full : BitVec 1) (off : BitVec 13) : Laws.Enc.Statement (.femark an sc full off) := by
  intro hwf
  have b0 := an.isLt
  have b1 := sc.isLt
  have b2 := full.isLt
  have b3 := off.isLt
  generalize hw : an.toNat * 8388608 + sc.toNat * 131072 + full.toNat * 8192 + off.toNat + 1610645504 = z
  refine ⟨z, by rw [← hw]; rfl, by simp only [slotBytes]; omega, ?_⟩
  have o0 : fld z 27 5 = 12 := by unfold fld; omega
  have f0 : bf z 23 4 = an := bf_eq z 23 an (by omega)
  have f1 : bf z 17 6 = sc := bf_eq z 17 sc (by omega)
  have f2 : bf z 13 1 = full := bf_eq z 13 full (by omega)
  have f3 : bf z 0 13 = off := bf_eq z 0 off (by omega)
  have r0 : fld z 14 3 = 2 := by unfold fld; omega
  simp only [decodeSlot, decodeA, o0, f0, f1, f2, f3]
  exact checked_ok _ _ _ (by simp [r0]) hwf

theorem Laws.Enc.marm (an : BitVec 4) (inc : BitVec 4) (size : BitVec 3) (off : BitVec 16) : Laws.Enc.Statement (.marm an inc size off) := by
  intro hwf
  have b0 := an.isLt
  have b1 := inc.isLt
  have b2 := size.isLt
  have b3 := off.isLt
  generalize hw : an.toNat * 8388608 + inc.toNat * 524288 + size.toNat * 65536 + off.toNat + 1744830464 = z
  refine ⟨z, by rw [← hw]; rfl, by simp only [slotBytes]; omega, ?_⟩
  have o0 : fld z 27 5 = 13 := by unfold fld; omega
  have f0 : bf z 23 4 = an := bf_eq z 23 an (by omega)
  have f1 : bf z 19 4 = inc := bf_eq z 19 inc (by omega)
  have f2 : bf z 16 3 = size := bf_eq z 16 size (by omega)
  have f3 : bf z 0 16 = off := bf_eq z 0 off (by omega)
  simp only [decodeSlot, decodeA, o0, f0, f1, f2, f3]
  exact checked_ok _ _ _ (rfl) hwf

theorem Laws.Enc.fence (kind : BitVec 2) (scope : BitVec 3) : Laws.Enc.Statement (.fence kind scope) := by
  intro hwf
  have b0 := kind.isLt
  have b1 := scope.isLt
  generalize hw : kind.toNat * 33554432 + scope.toNat * 4194304 + 1879048192 = z
  refine ⟨z, by rw [← hw]; rfl, by simp only [slotBytes]; omega, ?_⟩
  have o0 : fld z 27 5 = 14 := by unfold fld; omega
  have f0 : bf z 25 2 = kind := bf_eq z 25 kind (by omega)
  have f1 : bf z 22 3 = scope := bf_eq z 22 scope (by omega)
  have r0 : fld z 0 22 = 0 := by unfold fld; omega
  simp only [decodeSlot, decodeA, o0, f0, f1]
  exact checked_ok _ _ _ (by simp [r0]) hwf

theorem Laws.Enc.pref (an : BitVec 4) (inc : BitVec 4) (size : BitVec 3) (off : BitVec 16) : Laws.Enc.Statement (.pref an inc size off) := by
  intro hwf
  have b0 := an.isLt
  have b1 := inc.isLt
  have b2 := size.isLt
  have b3 := off.isLt
  generalize hw : an.toNat * 8388608 + inc.toNat * 524288 + size.toNat * 65536 + off.toNat + 2013265920 = z
  refine ⟨z, by rw [← hw]; rfl, by simp only [slotBytes]; omega, ?_⟩
  have o0 : fld z 27 5 = 15 := by unfold fld; omega
  have f0 : bf z 23 4 = an := bf_eq z 23 an (by omega)
  have f1 : bf z 19 4 = inc := bf_eq z 19 inc (by omega)
  have f2 : bf z 16 3 = size := bf_eq z 16 size (by omega)
  have f3 : bf z 0 16 = off := bf_eq z 0 off (by omega)
  simp only [decodeSlot, decodeA, o0, f0, f1, f2, f3]
  exact checked_ok _ _ _ (rfl) hwf

theorem Laws.Enc.qopen (qn : BitVec 3) (an : BitVec 4) (sp : BitVec 6) : Laws.Enc.Statement (.qopen qn an sp) := by
  intro hwf
  have b0 := qn.isLt
  have b1 := an.isLt
  have b2 := sp.isLt
  generalize hw : qn.toNat * 16777216 + an.toNat * 16384 + sp.toNat * 256 + 2147483648 = z
  refine ⟨z, by rw [← hw]; rfl, by simp only [slotBytes]; omega, ?_⟩
  have o0 : fld z 27 5 = 16 := by unfold fld; omega
  have f0 : bf z 24 3 = qn := bf_eq z 24 qn (by omega)
  have f1 : bf z 14 4 = an := bf_eq z 14 an (by omega)
  have f2 : bf z 8 6 = sp := bf_eq z 8 sp (by omega)
  have r0 : fld z 0 8 = 0 := by unfold fld; omega
  have r1 : fld z 18 6 = 0 := by unfold fld; omega
  simp only [decodeSlot, decodeA, o0, f0, f1, f2]
  exact checked_ok _ _ _ (by simp [r0, r1]) hwf

theorem Laws.Enc.qnext (qn : BitVec 3) (val : BitVec 1) (nc : BitVec 1) : Laws.Enc.Statement (.qnext qn val nc) := by
  intro hwf
  have b0 := qn.isLt
  have b1 := val.isLt
  have b2 := nc.isLt
  generalize hw : qn.toNat * 16777216 + val.toNat * 2 + nc.toNat + 2281701376 = z
  refine ⟨z, by rw [← hw]; rfl, by simp only [slotBytes]; omega, ?_⟩
  have o0 : fld z 27 5 = 17 := by unfold fld; omega
  have f0 : bf z 24 3 = qn := bf_eq z 24 qn (by omega)
  have f1 : bf z 1 1 = val := bf_eq z 1 val (by omega)
  have f2 : bf z 0 1 = nc := bf_eq z 0 nc (by omega)
  have r0 : fld z 2 22 = 0 := by unfold fld; omega
  simp only [decodeSlot, decodeA, o0, f0, f1, f2]
  exact checked_ok _ _ _ (by simp [r0]) hwf

theorem Laws.Enc.qand (qa : BitVec 3) (qb : BitVec 3) (np : BitVec 1) (val : BitVec 1) (nc : BitVec 1) : Laws.Enc.Statement (.qand qa qb np val nc) := by
  intro hwf
  have b0 := qa.isLt
  have b1 := qb.isLt
  have b2 := np.isLt
  have b3 := val.isLt
  have b4 := nc.isLt
  generalize hw : qa.toNat * 2097152 + qb.toNat * 262144 + np.toNat * 4 + val.toNat * 2 + nc.toNat + 2415919104 = z
  refine ⟨z, by rw [← hw]; rfl, by simp only [slotBytes]; omega, ?_⟩
  have o0 : fld z 27 5 = 18 := by unfold fld; omega
  have f0 : bf z 21 3 = qa := bf_eq z 21 qa (by omega)
  have f1 : bf z 18 3 = qb := bf_eq z 18 qb (by omega)
  have f2 : bf z 2 1 = np := bf_eq z 2 np (by omega)
  have f3 : bf z 1 1 = val := bf_eq z 1 val (by omega)
  have f4 : bf z 0 1 = nc := bf_eq z 0 nc (by omega)
  have r0 : fld z 3 15 = 0 := by unfold fld; omega
  have r1 : fld z 24 3 = 0 := by unfold fld; omega
  simp only [decodeSlot, decodeA, o0, f0, f1, f2, f3, f4]
  exact checked_ok _ _ _ (by simp [r0, r1]) hwf

theorem Laws.Enc.qor (qa : BitVec 3) (qb : BitVec 3) (np : BitVec 1) (val : BitVec 1) (nc : BitVec 1) : Laws.Enc.Statement (.qor qa qb np val nc) := by
  intro hwf
  have b0 := qa.isLt
  have b1 := qb.isLt
  have b2 := np.isLt
  have b3 := val.isLt
  have b4 := nc.isLt
  generalize hw : qa.toNat * 2097152 + qb.toNat * 262144 + np.toNat * 4 + val.toNat * 2 + nc.toNat + 2550136832 = z
  refine ⟨z, by rw [← hw]; rfl, by simp only [slotBytes]; omega, ?_⟩
  have o0 : fld z 27 5 = 19 := by unfold fld; omega
  have f0 : bf z 21 3 = qa := bf_eq z 21 qa (by omega)
  have f1 : bf z 18 3 = qb := bf_eq z 18 qb (by omega)
  have f2 : bf z 2 1 = np := bf_eq z 2 np (by omega)
  have f3 : bf z 1 1 = val := bf_eq z 1 val (by omega)
  have f4 : bf z 0 1 = nc := bf_eq z 0 nc (by omega)
  have r0 : fld z 3 15 = 0 := by unfold fld; omega
  have r1 : fld z 24 3 = 0 := by unfold fld; omega
  simp only [decodeSlot, decodeA, o0, f0, f1, f2, f3, f4]
  exact checked_ok _ _ _ (by simp [r0, r1]) hwf

theorem Laws.Enc.qskip (qn : BitVec 3) (st : BitVec 6) (val : BitVec 1) (nc : BitVec 1) : Laws.Enc.Statement (.qskip qn st val nc) := by
  intro hwf
  have b0 := qn.isLt
  have b1 := st.isLt
  have b2 := val.isLt
  have b3 := nc.isLt
  generalize hw : qn.toNat * 16777216 + st.toNat * 256 + val.toNat * 2 + nc.toNat + 2684354560 = z
  refine ⟨z, by rw [← hw]; rfl, by simp only [slotBytes]; omega, ?_⟩
  have o0 : fld z 27 5 = 20 := by unfold fld; omega
  have f0 : bf z 24 3 = qn := bf_eq z 24 qn (by omega)
  have f1 : bf z 8 6 = st := bf_eq z 8 st (by omega)
  have f2 : bf z 1 1 = val := bf_eq z 1 val (by omega)
  have f3 : bf z 0 1 = nc := bf_eq z 0 nc (by omega)
  have r0 : fld z 2 6 = 0 := by unfold fld; omega
  have r1 : fld z 14 10 = 0 := by unfold fld; omega
  simp only [decodeSlot, decodeA, o0, f0, f1, f2, f3]
  exact checked_ok _ _ _ (by simp [r0, r1]) hwf

theorem Laws.Enc.qdown (qn : BitVec 3) (qp : BitVec 3) (an : BitVec 4) : Laws.Enc.Statement (.qdown qn qp an) := by
  intro hwf
  have b0 := qn.isLt
  have b1 := qp.isLt
  have b2 := an.isLt
  generalize hw : qn.toNat * 16777216 + qp.toNat * 2097152 + an.toNat * 16384 + 2818572288 = z
  refine ⟨z, by rw [← hw]; rfl, by simp only [slotBytes]; omega, ?_⟩
  have o0 : fld z 27 5 = 21 := by unfold fld; omega
  have f0 : bf z 24 3 = qn := bf_eq z 24 qn (by omega)
  have f1 : bf z 21 3 = qp := bf_eq z 21 qp (by omega)
  have f2 : bf z 14 4 = an := bf_eq z 14 an (by omega)
  have r0 : fld z 0 14 = 0 := by unfold fld; omega
  have r1 : fld z 18 3 = 0 := by unfold fld; omega
  simp only [decodeSlot, decodeA, o0, f0, f1, f2]
  exact checked_ok _ _ _ (by simp [r0, r1]) hwf

theorem Laws.Enc.qclose (qn : BitVec 3) : Laws.Enc.Statement (.qclose qn) := by
  intro hwf
  have b0 := qn.isLt
  generalize hw : qn.toNat * 16777216 + 2952790016 = z
  refine ⟨z, by rw [← hw]; rfl, by simp only [slotBytes]; omega, ?_⟩
  have o0 : fld z 27 5 = 22 := by unfold fld; omega
  have f0 : bf z 24 3 = qn := bf_eq z 24 qn (by omega)
  have r0 : fld z 0 24 = 0 := by unfold fld; omega
  simp only [decodeSlot, decodeA, o0, f0]
  exact checked_ok _ _ _ (by simp [r0]) hwf

theorem Laws.Enc.qstat (qn : BitVec 3) (sd : BitVec 6) (pos : BitVec 1) : Laws.Enc.Statement (.qstat qn sd pos) := by
  intro hwf
  have b0 := qn.isLt
  have b1 := sd.isLt
  have b2 := pos.isLt
  generalize hw : qn.toNat * 16777216 + sd.toNat * 256 + pos.toNat * 8 + 3087007744 = z
  refine ⟨z, by rw [← hw]; rfl, by simp only [slotBytes]; omega, ?_⟩
  have o0 : fld z 27 5 = 23 := by unfold fld; omega
  have f0 : bf z 24 3 = qn := bf_eq z 24 qn (by omega)
  have f1 : bf z 8 6 = sd := bf_eq z 8 sd (by omega)
  have f2 : bf z 3 1 = pos := bf_eq z 3 pos (by omega)
  have r0 : fld z 0 3 = 0 := by unfold fld; omega
  have r1 : fld z 4 4 = 0 := by unfold fld; omega
  have r2 : fld z 14 10 = 0 := by unfold fld; omega
  simp only [decodeSlot, decodeA, o0, f0, f1, f2]
  exact checked_ok _ _ _ (by simp [r0, r1, r2]) hwf

theorem Laws.Enc.vh (idx : BitVec 9) (roff : BitVec 4) : Laws.Enc.Statement (.vh idx roff) := by
  intro hwf
  have b0 := idx.isLt
  have b1 := roff.isLt
  generalize hw : idx.toNat * 128 + roff.toNat * 8 = z
  refine ⟨z, by rw [← hw]; rfl, by simp only [slotBytes]; omega, ?_⟩
  have f0 : bf z 7 9 = idx := bf_eq z 7 idx (by omega)
  have f1 : bf z 3 4 = roff := bf_eq z 3 roff (by omega)
  have r0 : fld z 0 3 = 0 := by unfold fld; omega
  simp only [decodeSlot, decodeV, f0, f1]
  exact checked_ok _ _ _ (by simp [r0]) hwf

theorem Laws.Enc.mbeat (p : BitVec 1) (s : BitVec 1) (a : BitVec 1) (w : BitVec 1) (tile : BitVec 4) (row : BitVec 7) (acc : BitVec 3) (arow : BitVec 7) (inc : BitVec 3) (ainc : BitVec 2) : Laws.Enc.Statement (.mbeat p s a w tile row acc arow inc ainc) := by
  intro hwf
  have b0 := p.isLt
  have b1 := s.isLt
  have b2 := a.isLt
  have b3 := w.isLt
  have b4 := tile.isLt
  have b5 := row.isLt
  have b6 := acc.isLt
  have b7 := arow.isLt
  have b8 := inc.isLt
  have b9 := ainc.isLt
  generalize hw : p.toNat * 536870912 + s.toNat * 268435456 + a.toNat * 134217728 + w.toNat * 67108864 + tile.toNat * 4194304 + row.toNat * 32768 + acc.toNat * 4096 + arow.toNat * 32 + inc.toNat * 4 + ainc.toNat = z
  refine ⟨z, by rw [← hw]; rfl, by simp only [slotBytes]; omega, ?_⟩
  have o0 : fld z 30 2 = 0 := by unfold fld; omega
  have f0 : bf z 29 1 = p := bf_eq z 29 p (by omega)
  have f1 : bf z 28 1 = s := bf_eq z 28 s (by omega)
  have f2 : bf z 27 1 = a := bf_eq z 27 a (by omega)
  have f3 : bf z 26 1 = w := bf_eq z 26 w (by omega)
  have f4 : bf z 22 4 = tile := bf_eq z 22 tile (by omega)
  have f5 : bf z 15 7 = row := bf_eq z 15 row (by omega)
  have f6 : bf z 12 3 = acc := bf_eq z 12 acc (by omega)
  have f7 : bf z 5 7 = arow := bf_eq z 5 arow (by omega)
  have f8 : bf z 2 3 = inc := bf_eq z 2 inc (by omega)
  have f9 : bf z 0 2 = ainc := bf_eq z 0 ainc (by omega)
  simp only [decodeSlot, decodeM, o0, f0, f1, f2, f3, f4, f5, f6, f7, f8, f9]
  exact checked_ok _ _ _ (rfl) hwf

theorem Laws.Enc.mdrain (acc : BitVec 3) (row : BitVec 7) (sram : BitVec 1) (t : BitVec 4) (drow : BitVec 7) (clr : BitVec 1) (ls : BitVec 1) (inc : BitVec 3) (dinc : BitVec 2) : Laws.Enc.Statement (.mdrain acc row sram t drow clr ls inc dinc) := by
  intro hwf
  have b0 := acc.isLt
  have b1 := row.isLt
  have b2 := sram.isLt
  have b3 := t.isLt
  have b4 := drow.isLt
  have b5 := clr.isLt
  have b6 := ls.isLt
  have b7 := inc.isLt
  have b8 := dinc.isLt
  generalize hw : acc.toNat * 134217728 + row.toNat * 1048576 + sram.toNat * 524288 + t.toNat * 32768 + drow.toNat * 256 + clr.toNat * 128 + ls.toNat * 32 + inc.toNat * 4 + dinc.toNat + 1073741824 = z
  refine ⟨z, by rw [← hw]; rfl, by simp only [slotBytes]; omega, ?_⟩
  have o0 : fld z 30 2 = 1 := by unfold fld; omega
  have o1 : fld z 6 1 = 0 := by unfold fld; omega
  have f0 : bf z 27 3 = acc := bf_eq z 27 acc (by omega)
  have f1 : bf z 20 7 = row := bf_eq z 20 row (by omega)
  have f2 : bf z 19 1 = sram := bf_eq z 19 sram (by omega)
  have f3 : bf z 15 4 = t := bf_eq z 15 t (by omega)
  have f4 : bf z 8 7 = drow := bf_eq z 8 drow (by omega)
  have f5 : bf z 7 1 = clr := bf_eq z 7 clr (by omega)
  have f6 : bf z 5 1 = ls := bf_eq z 5 ls (by omega)
  have f7 : bf z 2 3 = inc := bf_eq z 2 inc (by omega)
  have f8 : bf z 0 2 = dinc := bf_eq z 0 dinc (by omega)
  simp only [decodeSlot, ↓reduceIte, decodeM, o0, o1, f0, f1, f2, f3, f4, f5, f6, f7, f8]
  exact checked_ok _ _ _ (rfl) hwf

theorem Laws.Enc.mdrainOfold (acc : BitVec 3) (row : BitVec 7) (sram : BitVec 1) (t : BitVec 4) (clr : BitVec 1) (ls : BitVec 1) (inc : BitVec 3) : Laws.Enc.Statement (.mdrainOfold acc row sram t clr ls inc) := by
  intro hwf
  have b0 := acc.isLt
  have b1 := row.isLt
  have b2 := sram.isLt
  have b3 := t.isLt
  have b4 := clr.isLt
  have b5 := ls.isLt
  have b6 := inc.isLt
  generalize hw : acc.toNat * 134217728 + row.toNat * 1048576 + sram.toNat * 524288 + t.toNat * 32768 + clr.toNat * 128 + ls.toNat * 32 + inc.toNat * 4 + 1073741888 = z
  refine ⟨z, by rw [← hw]; rfl, by simp only [slotBytes]; omega, ?_⟩
  have o0 : fld z 30 2 = 1 := by unfold fld; omega
  have o1 : fld z 6 1 = 1 := by unfold fld; omega
  have f0 : bf z 27 3 = acc := bf_eq z 27 acc (by omega)
  have f1 : bf z 20 7 = row := bf_eq z 20 row (by omega)
  have f2 : bf z 19 1 = sram := bf_eq z 19 sram (by omega)
  have f3 : bf z 15 4 = t := bf_eq z 15 t (by omega)
  have f4 : bf z 7 1 = clr := bf_eq z 7 clr (by omega)
  have f5 : bf z 5 1 = ls := bf_eq z 5 ls (by omega)
  have f6 : bf z 2 3 = inc := bf_eq z 2 inc (by omega)
  have r0 : fld z 0 2 = 0 := by unfold fld; omega
  have r1 : fld z 8 7 = 0 := by unfold fld; omega
  simp only [decodeSlot, Nat.one_ne_zero, ↓reduceIte, decodeM, o0, o1, f0, f1, f2, f3, f4, f5, f6]
  exact checked_ok _ _ _ (by simp [r0, r1]) hwf

theorem Laws.Enc.mgsel (g : BitVec 4) : Laws.Enc.Statement (.mgsel g) := by
  intro hwf
  have b0 := g.isLt
  generalize hw : g.toNat * 4194304 + 2147483648 = z
  refine ⟨z, by rw [← hw]; rfl, by simp only [slotBytes]; omega, ?_⟩
  have o0 : fld z 30 2 = 2 := by unfold fld; omega
  have o1 : fld z 26 4 = 0 := by unfold fld; omega
  have f0 : bf z 22 4 = g := bf_eq z 22 g (by omega)
  have r0 : fld z 0 22 = 0 := by unfold fld; omega
  simp only [decodeSlot, decodeM, decodeMctl, o0, o1, f0]
  exact checked_ok _ _ _ (by simp [r0]) hwf

theorem Laws.Enc.mmode (rs : BitVec 1) : Laws.Enc.Statement (.mmode rs) := by
  intro hwf
  have b0 := rs.isLt
  generalize hw : rs.toNat * 33554432 + 2214592512 = z
  refine ⟨z, by rw [← hw]; rfl, by simp only [slotBytes]; omega, ?_⟩
  have o0 : fld z 30 2 = 2 := by unfold fld; omega
  have o1 : fld z 26 4 = 1 := by unfold fld; omega
  have f0 : bf z 25 1 = rs := bf_eq z 25 rs (by omega)
  have r0 : fld z 0 25 = 0 := by unfold fld; omega
  simp only [decodeSlot, decodeM, decodeMctl, o0, o1, f0]
  exact checked_ok _ _ _ (by simp [r0]) hwf

theorem Laws.Enc.mfmt (sel : BitVec 1) : Laws.Enc.Statement (.mfmt sel) := by
  intro hwf
  have b0 := sel.isLt
  generalize hw : sel.toNat * 33554432 + 2281701376 = z
  refine ⟨z, by rw [← hw]; rfl, by simp only [slotBytes]; omega, ?_⟩
  have o0 : fld z 30 2 = 2 := by unfold fld; omega
  have o1 : fld z 26 4 = 2 := by unfold fld; omega
  have f0 : bf z 25 1 = sel := bf_eq z 25 sel (by omega)
  have r0 : fld z 0 25 = 0 := by unfold fld; omega
  simp only [decodeSlot, decodeM, decodeMctl, o0, o1, f0]
  exact checked_ok _ _ _ (by simp [r0]) hwf

theorem Laws.Enc.mdrainw : Laws.Enc.Statement .mdrainw := by
  intro hwf
  generalize hw : 2348810240 = z
  refine ⟨z, by rw [← hw]; rfl, by simp only [slotBytes]; omega, ?_⟩
  have o0 : fld z 30 2 = 2 := by unfold fld; omega
  have o1 : fld z 26 4 = 3 := by unfold fld; omega
  have r0 : fld z 0 26 = 0 := by unfold fld; omega
  simp only [decodeSlot, decodeM, decodeMctl, o0, o1]
  exact checked_ok _ _ _ (by simp [r0]) hwf

theorem Laws.Enc.mfload (t : BitVec 4) (bank : BitVec 1) : Laws.Enc.Statement (.mfload t bank) := by
  intro hwf
  have b0 := t.isLt
  have b1 := bank.isLt
  generalize hw : t.toNat * 4194304 + bank.toNat * 2097152 + 2415919104 = z
  refine ⟨z, by rw [← hw]; rfl, by simp only [slotBytes]; omega, ?_⟩
  have o0 : fld z 30 2 = 2 := by unfold fld; omega
  have o1 : fld z 26 4 = 4 := by unfold fld; omega
  have f0 : bf z 22 4 = t := bf_eq z 22 t (by omega)
  have f1 : bf z 21 1 = bank := bf_eq z 21 bank (by omega)
  have r0 : fld z 0 21 = 0 := by unfold fld; omega
  simp only [decodeSlot, decodeM, decodeMctl, o0, o1, f0, f1]
  exact checked_ok _ _ _ (by simp [r0]) hwf

theorem Laws.Enc.mzero (acc : BitVec 3) : Laws.Enc.Statement (.mzero acc) := by
  intro hwf
  have b0 := acc.isLt
  generalize hw : acc.toNat * 8388608 + 2483027968 = z
  refine ⟨z, by rw [← hw]; rfl, by simp only [slotBytes]; omega, ?_⟩
  have o0 : fld z 30 2 = 2 := by unfold fld; omega
  have o1 : fld z 26 4 = 5 := by unfold fld; omega
  have f0 : bf z 23 3 = acc := bf_eq z 23 acc (by omega)
  have r0 : fld z 0 23 = 0 := by unfold fld; omega
  simp only [decodeSlot, decodeM, decodeMctl, o0, o1, f0]
  exact checked_ok _ _ _ (by simp [r0]) hwf

theorem Laws.Enc.mguse (slot : BitVec 2) : Laws.Enc.Statement (.mguse slot) := by
  intro hwf
  have b0 := slot.isLt
  generalize hw : slot.toNat * 16777216 + 2550136832 = z
  refine ⟨z, by rw [← hw]; rfl, by simp only [slotBytes]; omega, ?_⟩
  have o0 : fld z 30 2 = 2 := by unfold fld; omega
  have o1 : fld z 26 4 = 6 := by unfold fld; omega
  have f0 : bf z 24 2 = slot := bf_eq z 24 slot (by omega)
  have r0 : fld z 0 24 = 0 := by unfold fld; omega
  simp only [decodeSlot, decodeM, decodeMctl, o0, o1, f0]
  exact checked_ok _ _ _ (by simp [r0]) hwf

theorem Laws.Enc.mrstp : Laws.Enc.Statement .mrstp := by
  intro hwf
  generalize hw : 2617245696 = z
  refine ⟨z, by rw [← hw]; rfl, by simp only [slotBytes]; omega, ?_⟩
  have o0 : fld z 30 2 = 2 := by unfold fld; omega
  have o1 : fld z 26 4 = 7 := by unfold fld; omega
  have r0 : fld z 0 26 = 0 := by unfold fld; omega
  simp only [decodeSlot, decodeM, decodeMctl, o0, o1]
  exact checked_ok _ _ _ (by simp [r0]) hwf

theorem Laws.Enc.mrep (cnt : BitVec 12) : Laws.Enc.Statement (.mrep cnt) := by
  intro hwf
  have b0 := cnt.isLt
  generalize hw : cnt.toNat * 262144 + 3221225472 = z
  refine ⟨z, by rw [← hw]; rfl, by simp only [slotBytes]; omega, ?_⟩
  have o0 : fld z 30 2 = 3 := by unfold fld; omega
  have f0 : bf z 18 12 = cnt := bf_eq z 18 cnt (by omega)
  have r0 : fld z 0 18 = 0 := by unfold fld; omega
  simp only [decodeSlot, decodeM, o0, f0]
  exact checked_ok _ _ _ (by simp [r0]) hwf

theorem Laws.Enc.xcopy (vd : BitVec 9) (vs : BitVec 9) (lgd : BitVec 3) (lgs : BitVec 3) : Laws.Enc.Statement (.xcopy vd vs lgd lgs) := by
  intro hwf
  have b0 := vd.isLt
  have b1 := vs.isLt
  have b2 := lgd.isLt
  have b3 := lgs.isLt
  generalize hw : vd.toNat * 262144 + vs.toNat * 512 + lgd.toNat * 64 + lgs.toNat * 8 = z
  refine ⟨z, by rw [← hw]; rfl, by simp only [slotBytes]; omega, ?_⟩
  have o0 : fld z 27 5 = 0 := by unfold fld; omega
  have f0 : bf z 18 9 = vd := bf_eq z 18 vd (by omega)
  have f1 : bf z 9 9 = vs := bf_eq z 9 vs (by omega)
  have f2 : bf z 6 3 = lgd := bf_eq z 6 lgd (by omega)
  have f3 : bf z 3 3 = lgs := bf_eq z 3 lgs (by omega)
  have r0 : fld z 0 3 = 0 := by unfold fld; omega
  simp only [decodeSlot, decodeX, o0, f0, f1, f2, f3]
  exact checked_ok _ _ _ (by simp [r0]) hwf

theorem Laws.Enc.xbcast (vd : BitVec 9) (vs : BitVec 9) (lgs : BitVec 3) : Laws.Enc.Statement (.xbcast vd vs lgs) := by
  intro hwf
  have b0 := vd.isLt
  have b1 := vs.isLt
  have b2 := lgs.isLt
  generalize hw : vd.toNat * 262144 + vs.toNat * 512 + lgs.toNat * 8 + 134217728 = z
  refine ⟨z, by rw [← hw]; rfl, by simp only [slotBytes]; omega, ?_⟩
  have o0 : fld z 27 5 = 1 := by unfold fld; omega
  have f0 : bf z 18 9 = vd := bf_eq z 18 vd (by omega)
  have f1 : bf z 9 9 = vs := bf_eq z 9 vs (by omega)
  have f2 : bf z 3 3 = lgs := bf_eq z 3 lgs (by omega)
  have r0 : fld z 0 3 = 0 := by unfold fld; omega
  have r1 : fld z 6 3 = 0 := by unfold fld; omega
  simp only [decodeSlot, decodeX, o0, f0, f1, f2]
  exact checked_ok _ _ _ (by simp [r0, r1]) hwf

theorem Laws.Enc.twrow (t : BitVec 4) (row : BitVec 7) (vs : BitVec 9) : Laws.Enc.Statement (.twrow t row vs) := by
  intro hwf
  have b0 := t.isLt
  have b1 := row.isLt
  have b2 := vs.isLt
  generalize hw : t.toNat * 8388608 + row.toNat * 65536 + vs.toNat * 128 + 268435456 = z
  refine ⟨z, by rw [← hw]; rfl, by simp only [slotBytes]; omega, ?_⟩
  have o0 : fld z 27 5 = 2 := by unfold fld; omega
  have f0 : bf z 23 4 = t := bf_eq z 23 t (by omega)
  have f1 : bf z 16 7 = row := bf_eq z 16 row (by omega)
  have f2 : bf z 7 9 = vs := bf_eq z 7 vs (by omega)
  have r0 : fld z 0 7 = 0 := by unfold fld; omega
  simp only [decodeSlot, decodeX, o0, f0, f1, f2]
  exact checked_ok _ _ _ (by simp [r0]) hwf

theorem Laws.Enc.trcol (vd : BitVec 9) (t : BitVec 4) (col : BitVec 7) : Laws.Enc.Statement (.trcol vd t col) := by
  intro hwf
  have b0 := vd.isLt
  have b1 := t.isLt
  have b2 := col.isLt
  generalize hw : vd.toNat * 262144 + t.toNat * 16384 + col.toNat * 128 + 402653184 = z
  refine ⟨z, by rw [← hw]; rfl, by simp only [slotBytes]; omega, ?_⟩
  have o0 : fld z 27 5 = 3 := by unfold fld; omega
  have f0 : bf z 18 9 = vd := bf_eq z 18 vd (by omega)
  have f1 : bf z 14 4 = t := bf_eq z 14 t (by omega)
  have f2 : bf z 7 7 = col := bf_eq z 7 col (by omega)
  have r0 : fld z 0 7 = 0 := by unfold fld; omega
  simp only [decodeSlot, decodeX, o0, f0, f1, f2]
  exact checked_ok _ _ _ (by simp [r0]) hwf

theorem Laws.Enc.trrow (vd : BitVec 9) (t : BitVec 4) (row : BitVec 7) : Laws.Enc.Statement (.trrow vd t row) := by
  intro hwf
  have b0 := vd.isLt
  have b1 := t.isLt
  have b2 := row.isLt
  generalize hw : vd.toNat * 262144 + t.toNat * 16384 + row.toNat * 128 + 536870912 = z
  refine ⟨z, by rw [← hw]; rfl, by simp only [slotBytes]; omega, ?_⟩
  have o0 : fld z 27 5 = 4 := by unfold fld; omega
  have f0 : bf z 18 9 = vd := bf_eq z 18 vd (by omega)
  have f1 : bf z 14 4 = t := bf_eq z 14 t (by omega)
  have f2 : bf z 7 7 = row := bf_eq z 7 row (by omega)
  have r0 : fld z 0 7 = 0 := by unfold fld; omega
  simp only [decodeSlot, decodeX, o0, f0, f1, f2]
  exact checked_ok _ _ _ (by simp [r0]) hwf

theorem Laws.Enc.ldt (t : BitVec 4) (an : BitVec 4) (row : BitVec 7) (blk : BitVec 4) (size : BitVec 3) (inc : BitVec 5) : Laws.Enc.Statement (.ldt t an row blk size inc) := by
  intro hwf
  have b0 := t.isLt
  have b1 := an.isLt
  have b2 := row.isLt
  have b3 := blk.isLt
  have b4 := size.isLt
  have b5 := inc.isLt
  generalize hw : t.toNat * 8388608 + an.toNat * 524288 + row.toNat * 4096 + blk.toNat * 256 + size.toNat * 32 + inc.toNat + 671088640 = z
  refine ⟨z, by rw [← hw]; rfl, by simp only [slotBytes]; omega, ?_⟩
  have o0 : fld z 27 5 = 5 := by unfold fld; omega
  have f0 : bf z 23 4 = t := bf_eq z 23 t (by omega)
  have f1 : bf z 19 4 = an := bf_eq z 19 an (by omega)
  have f2 : bf z 12 7 = row := bf_eq z 12 row (by omega)
  have f3 : bf z 8 4 = blk := bf_eq z 8 blk (by omega)
  have f4 : bf z 5 3 = size := bf_eq z 5 size (by omega)
  have f5 : bf z 0 5 = inc := bf_eq z 0 inc (by omega)
  simp only [decodeSlot, decodeX, o0, f0, f1, f2, f3, f4, f5]
  exact checked_ok _ _ _ (rfl) hwf

theorem Laws.Enc.tunpk (td : BitVec 4) (ts : BitVec 4) : Laws.Enc.Statement (.tunpk td ts) := by
  intro hwf
  have b0 := td.isLt
  have b1 := ts.isLt
  generalize hw : td.toNat * 8388608 + ts.toNat * 524288 + 805306368 = z
  refine ⟨z, by rw [← hw]; rfl, by simp only [slotBytes]; omega, ?_⟩
  have o0 : fld z 27 5 = 6 := by unfold fld; omega
  have f0 : bf z 23 4 = td := bf_eq z 23 td (by omega)
  have f1 : bf z 19 4 = ts := bf_eq z 19 ts (by omega)
  have r0 : fld z 0 19 = 0 := by unfold fld; omega
  simp only [decodeSlot, decodeX, o0, f0, f1]
  exact checked_ok _ _ _ (by simp [r0]) hwf

theorem Laws.Enc.movvs (sd : BitVec 6) (vs : BitVec 9) (lane : BitVec 7) : Laws.Enc.Statement (.movvs sd vs lane) := by
  intro hwf
  have b0 := sd.isLt
  have b1 := vs.isLt
  have b2 := lane.isLt
  generalize hw : sd.toNat * 2097152 + vs.toNat * 4096 + lane.toNat * 32 + 939524096 = z
  refine ⟨z, by rw [← hw]; rfl, by simp only [slotBytes]; omega, ?_⟩
  have o0 : fld z 27 5 = 7 := by unfold fld; omega
  have f0 : bf z 21 6 = sd := bf_eq z 21 sd (by omega)
  have f1 : bf z 12 9 = vs := bf_eq z 12 vs (by omega)
  have f2 : bf z 5 7 = lane := bf_eq z 5 lane (by omega)
  have r0 : fld z 0 5 = 0 := by unfold fld; omega
  simp only [decodeSlot, decodeX, o0, f0, f1, f2]
  exact checked_ok _ _ _ (by simp [r0]) hwf

theorem Laws.Enc.movsv (vd : BitVec 9) (sa : BitVec 6) (lane : BitVec 7) : Laws.Enc.Statement (.movsv vd sa lane) := by
  intro hwf
  have b0 := vd.isLt
  have b1 := sa.isLt
  have b2 := lane.isLt
  generalize hw : vd.toNat * 262144 + sa.toNat * 4096 + lane.toNat * 32 + 1073741824 = z
  refine ⟨z, by rw [← hw]; rfl, by simp only [slotBytes]; omega, ?_⟩
  have o0 : fld z 27 5 = 8 := by unfold fld; omega
  have f0 : bf z 18 9 = vd := bf_eq z 18 vd (by omega)
  have f1 : bf z 12 6 = sa := bf_eq z 12 sa (by omega)
  have f2 : bf z 5 7 = lane := bf_eq z 5 lane (by omega)
  have r0 : fld z 0 5 = 0 := by unfold fld; omega
  simp only [decodeSlot, decodeX, o0, f0, f1, f2]
  exact checked_ok _ _ _ (by simp [r0]) hwf

theorem Laws.Enc.ecfg (nset : BitVec 3) (dim : BitVec 3) (fsel : BitVec 1) (val : BitVec 29) : Laws.Enc.Statement (.ecfg nset dim fsel val) := by
  intro hwf
  have b0 := nset.isLt
  have b1 := dim.isLt
  have b2 := fsel.isLt
  have b3 := val.isLt
  generalize hw : nset.toNat * 8589934592 + dim.toNat * 1073741824 + fsel.toNat * 536870912 + val.toNat = z
  refine ⟨z, by rw [← hw]; rfl, by simp only [slotBytes]; omega, ?_⟩
  have o0 : fld z 58 6 = 0 := by unfold fld; omega
  have f0 : bf z 33 3 = nset := bf_eq z 33 nset (by omega)
  have f1 : bf z 30 3 = dim := bf_eq z 30 dim (by omega)
  have f2 : bf z 29 1 = fsel := bf_eq z 29 fsel (by omega)
  have f3 : bf z 0 29 = val := bf_eq z 0 val (by omega)
  have r0 : fld z 36 22 = 0 := by unfold fld; omega
  simp only [decodeSlot, decodeE, o0, f0, f1, f2, f3]
  exact checked_ok _ _ _ (by simp [r0]) hwf

theorem Laws.Enc.copy (q : BitVec 4) (bar : BitVec 18) (sset : BitVec 3) (dset : BitVec 3) (asrc : BitVec 4) (adst : BitVec 4) (op : BitVec 6) : Laws.Enc.Statement (.copy q bar sset dset asrc adst op) := by
  intro hwf
  have b0 := q.isLt
  have b1 := bar.isLt
  have b2 := sset.isLt
  have b3 := dset.isLt
  have b4 := asrc.isLt
  have b5 := adst.isLt
  have b6 := op.isLt
  generalize hw : q.toNat * 18014398509481984 + bar.toNat * 68719476736 + sset.toNat * 8589934592 + dset.toNat * 1073741824 + asrc.toNat * 67108864 + adst.toNat * 4194304 + op.toNat * 65536 + 288230376151711744 = z
  refine ⟨z, by rw [← hw]; rfl, by simp only [slotBytes]; omega, ?_⟩
  have o0 : fld z 58 6 = 1 := by unfold fld; omega
  have f0 : bf z 54 4 = q := bf_eq z 54 q (by omega)
  have f1 : bf z 36 18 = bar := bf_eq z 36 bar (by omega)
  have f2 : bf z 33 3 = sset := bf_eq z 33 sset (by omega)
  have f3 : bf z 30 3 = dset := bf_eq z 30 dset (by omega)
  have f4 : bf z 26 4 = asrc := bf_eq z 26 asrc (by omega)
  have f5 : bf z 22 4 = adst := bf_eq z 22 adst (by omega)
  have f6 : bf z 16 6 = op := bf_eq z 16 op (by omega)
  have r0 : fld z 0 16 = 0 := by unfold fld; omega
  simp only [decodeSlot, decodeE, o0, f0, f1, f2, f3, f4, f5, f6]
  exact checked_ok _ _ _ (by simp [r0]) hwf

theorem Laws.Enc.gather (q : BitVec 4) (bar : BitVec 18) (nset : BitVec 3) (atab : BitVec 4) (ai : BitVec 4) (ad : BitVec 4) (mode : BitVec 3) (op : BitVec 6) : Laws.Enc.Statement (.gather q bar nset atab ai ad mode op) := by
  intro hwf
  have b0 := q.isLt
  have b1 := bar.isLt
  have b2 := nset.isLt
  have b3 := atab.isLt
  have b4 := ai.isLt
  have b5 := ad.isLt
  have b6 := mode.isLt
  have b7 := op.isLt
  generalize hw : q.toNat * 18014398509481984 + bar.toNat * 68719476736 + nset.toNat * 8589934592 + atab.toNat * 536870912 + ai.toNat * 33554432 + ad.toNat * 2097152 + mode.toNat * 262144 + op.toNat * 4096 + 576460752303423488 = z
  refine ⟨z, by rw [← hw]; rfl, by simp only [slotBytes]; omega, ?_⟩
  have o0 : fld z 58 6 = 2 := by unfold fld; omega
  have f0 : bf z 54 4 = q := bf_eq z 54 q (by omega)
  have f1 : bf z 36 18 = bar := bf_eq z 36 bar (by omega)
  have f2 : bf z 33 3 = nset := bf_eq z 33 nset (by omega)
  have f3 : bf z 29 4 = atab := bf_eq z 29 atab (by omega)
  have f4 : bf z 25 4 = ai := bf_eq z 25 ai (by omega)
  have f5 : bf z 21 4 = ad := bf_eq z 21 ad (by omega)
  have f6 : bf z 18 3 = mode := bf_eq z 18 mode (by omega)
  have f7 : bf z 12 6 = op := bf_eq z 12 op (by omega)
  have r0 : fld z 0 12 = 0 := by unfold fld; omega
  simp only [decodeSlot, decodeE, o0, f0, f1, f2, f3, f4, f5, f6, f7]
  exact checked_ok _ _ _ (by simp [r0]) hwf

theorem Laws.Enc.scatter (q : BitVec 4) (bar : BitVec 18) (nset : BitVec 3) (atab : BitVec 4) (ai : BitVec 4) (ad : BitVec 4) (mode : BitVec 3) (op : BitVec 6) : Laws.Enc.Statement (.scatter q bar nset atab ai ad mode op) := by
  intro hwf
  have b0 := q.isLt
  have b1 := bar.isLt
  have b2 := nset.isLt
  have b3 := atab.isLt
  have b4 := ai.isLt
  have b5 := ad.isLt
  have b6 := mode.isLt
  have b7 := op.isLt
  generalize hw : q.toNat * 18014398509481984 + bar.toNat * 68719476736 + nset.toNat * 8589934592 + atab.toNat * 536870912 + ai.toNat * 33554432 + ad.toNat * 2097152 + mode.toNat * 262144 + op.toNat * 4096 + 864691128455135232 = z
  refine ⟨z, by rw [← hw]; rfl, by simp only [slotBytes]; omega, ?_⟩
  have o0 : fld z 58 6 = 3 := by unfold fld; omega
  have f0 : bf z 54 4 = q := bf_eq z 54 q (by omega)
  have f1 : bf z 36 18 = bar := bf_eq z 36 bar (by omega)
  have f2 : bf z 33 3 = nset := bf_eq z 33 nset (by omega)
  have f3 : bf z 29 4 = atab := bf_eq z 29 atab (by omega)
  have f4 : bf z 25 4 = ai := bf_eq z 25 ai (by omega)
  have f5 : bf z 21 4 = ad := bf_eq z 21 ad (by omega)
  have f6 : bf z 18 3 = mode := bf_eq z 18 mode (by omega)
  have f7 : bf z 12 6 = op := bf_eq z 12 op (by omega)
  have r0 : fld z 0 12 = 0 := by unfold fld; omega
  simp only [decodeSlot, decodeE, o0, f0, f1, f2, f3, f4, f5, f6, f7]
  exact checked_ok _ _ _ (by simp [r0]) hwf

theorem Laws.Enc.nmop (q : BitVec 4) (bar : BitVec 18) (nset : BitVec 3) (ad : BitVec 4) (asrc : BitVec 4) (ai : BitVec 4) (op : BitVec 4) (ix : BitVec 1) : Laws.Enc.Statement (.nmop q bar nset ad asrc ai op ix) := by
  intro hwf
  have b0 := q.isLt
  have b1 := bar.isLt
  have b2 := nset.isLt
  have b3 := ad.isLt
  have b4 := asrc.isLt
  have b5 := ai.isLt
  have b6 := op.isLt
  have b7 := ix.isLt
  generalize hw : q.toNat * 18014398509481984 + bar.toNat * 68719476736 + nset.toNat * 8589934592 + ad.toNat * 536870912 + asrc.toNat * 33554432 + ai.toNat * 2097152 + op.toNat * 131072 + ix.toNat * 65536 + 1152921504606846976 = z
  refine ⟨z, by rw [← hw]; rfl, by simp only [slotBytes]; omega, ?_⟩
  have o0 : fld z 58 6 = 4 := by unfold fld; omega
  have f0 : bf z 54 4 = q := bf_eq z 54 q (by omega)
  have f1 : bf z 36 18 = bar := bf_eq z 36 bar (by omega)
  have f2 : bf z 33 3 = nset := bf_eq z 33 nset (by omega)
  have f3 : bf z 29 4 = ad := bf_eq z 29 ad (by omega)
  have f4 : bf z 25 4 = asrc := bf_eq z 25 asrc (by omega)
  have f5 : bf z 21 4 = ai := bf_eq z 21 ai (by omega)
  have f6 : bf z 17 4 = op := bf_eq z 17 op (by omega)
  have f7 : bf z 16 1 = ix := bf_eq z 16 ix (by omega)
  have r0 : fld z 0 16 = 0 := by unfold fld; omega
  simp only [decodeSlot, decodeE, o0, f0, f1, f2, f3, f4, f5, f6, f7]
  exact checked_ok _ _ _ (by simp [r0]) hwf

theorem Laws.Enc.nmfence (q : BitVec 4) (bar : BitVec 18) : Laws.Enc.Statement (.nmfence q bar) := by
  intro hwf
  have b0 := q.isLt
  have b1 := bar.isLt
  generalize hw : q.toNat * 18014398509481984 + bar.toNat * 68719476736 + 1441151880758558720 = z
  refine ⟨z, by rw [← hw]; rfl, by simp only [slotBytes]; omega, ?_⟩
  have o0 : fld z 58 6 = 5 := by unfold fld; omega
  have f0 : bf z 54 4 = q := bf_eq z 54 q (by omega)
  have f1 : bf z 36 18 = bar := bf_eq z 36 bar (by omega)
  have r0 : fld z 0 36 = 0 := by unfold fld; omega
  simp only [decodeSlot, decodeE, o0, f0, f1]
  exact checked_ok _ _ _ (by simp [r0]) hwf

theorem Laws.Enc.nmopt (q : BitVec 4) (bar : BitVec 18) (ap : BitVec 4) (ag : BitVec 4) (am : BitVec 4) (alg : BitVec 4) (cnt : BitVec 20) : Laws.Enc.Statement (.nmopt q bar ap ag am alg cnt) := by
  intro hwf
  have b0 := q.isLt
  have b1 := bar.isLt
  have b2 := ap.isLt
  have b3 := ag.isLt
  have b4 := am.isLt
  have b5 := alg.isLt
  have b6 := cnt.isLt
  generalize hw : q.toNat * 18014398509481984 + bar.toNat * 68719476736 + ap.toNat * 4294967296 + ag.toNat * 268435456 + am.toNat * 16777216 + alg.toNat * 1048576 + cnt.toNat + 1729382256910270464 = z
  refine ⟨z, by rw [← hw]; rfl, by simp only [slotBytes]; omega, ?_⟩
  have o0 : fld z 58 6 = 6 := by unfold fld; omega
  have f0 : bf z 54 4 = q := bf_eq z 54 q (by omega)
  have f1 : bf z 36 18 = bar := bf_eq z 36 bar (by omega)
  have f2 : bf z 32 4 = ap := bf_eq z 32 ap (by omega)
  have f3 : bf z 28 4 = ag := bf_eq z 28 ag (by omega)
  have f4 : bf z 24 4 = am := bf_eq z 24 am (by omega)
  have f5 : bf z 20 4 = alg := bf_eq z 20 alg (by omega)
  have f6 : bf z 0 20 = cnt := bf_eq z 0 cnt (by omega)
  simp only [decodeSlot, decodeE, o0, f0, f1, f2, f3, f4, f5, f6]
  exact checked_ok _ _ _ (rfl) hwf

theorem Laws.Enc.qfence (q : BitVec 4) (bar : BitVec 18) (mask : BitVec 16) : Laws.Enc.Statement (.qfence q bar mask) := by
  intro hwf
  have b0 := q.isLt
  have b1 := bar.isLt
  have b2 := mask.isLt
  generalize hw : q.toNat * 18014398509481984 + bar.toNat * 68719476736 + mask.toNat * 1048576 + 2017612633061982208 = z
  refine ⟨z, by rw [← hw]; rfl, by simp only [slotBytes]; omega, ?_⟩
  have o0 : fld z 58 6 = 7 := by unfold fld; omega
  have f0 : bf z 54 4 = q := bf_eq z 54 q (by omega)
  have f1 : bf z 36 18 = bar := bf_eq z 36 bar (by omega)
  have f2 : bf z 20 16 = mask := bf_eq z 20 mask (by omega)
  have r0 : fld z 0 20 = 0 := by unfold fld; omega
  simp only [decodeSlot, decodeE, o0, f0, f1, f2]
  exact checked_ok _ _ _ (by simp [r0]) hwf

theorem Laws.Enc.subscr (q : BitVec 4) (bar : BitVec 18) (asrc : BitVec 4) (nset : BitVec 3) (ring : BitVec 4) (first : BitVec 5) (cnt : BitVec 4) (slot : BitVec 16) : Laws.Enc.Statement (.subscr q bar asrc nset ring first cnt slot) := by
  intro hwf
  have b0 := q.isLt
  have b1 := bar.isLt
  have b2 := asrc.isLt
  have b3 := nset.isLt
  have b4 := ring.isLt
  have b5 := first.isLt
  have b6 := cnt.isLt
  have b7 := slot.isLt
  generalize hw : q.toNat * 18014398509481984 + bar.toNat * 68719476736 + asrc.toNat * 4294967296 + nset.toNat * 536870912 + ring.toNat * 33554432 + first.toNat * 1048576 + cnt.toNat * 65536 + slot.toNat + 2305843009213693952 = z
  refine ⟨z, by rw [← hw]; rfl, by simp only [slotBytes]; omega, ?_⟩
  have o0 : fld z 58 6 = 8 := by unfold fld; omega
  have f0 : bf z 54 4 = q := bf_eq z 54 q (by omega)
  have f1 : bf z 36 18 = bar := bf_eq z 36 bar (by omega)
  have f2 : bf z 32 4 = asrc := bf_eq z 32 asrc (by omega)
  have f3 : bf z 29 3 = nset := bf_eq z 29 nset (by omega)
  have f4 : bf z 25 4 = ring := bf_eq z 25 ring (by omega)
  have f5 : bf z 20 5 = first := bf_eq z 20 first (by omega)
  have f6 : bf z 16 4 = cnt := bf_eq z 16 cnt (by omega)
  have f7 : bf z 0 16 = slot := bf_eq z 0 slot (by omega)
  simp only [decodeSlot, decodeE, o0, f0, f1, f2, f3, f4, f5, f6, f7]
  exact checked_ok _ _ _ (rfl) hwf

theorem Laws.Enc.slotret (q : BitVec 4) (bar : BitVec 18) (ring : BitVec 4) (k : BitVec 16) : Laws.Enc.Statement (.slotret q bar ring k) := by
  intro hwf
  have b0 := q.isLt
  have b1 := bar.isLt
  have b2 := ring.isLt
  have b3 := k.isLt
  generalize hw : q.toNat * 18014398509481984 + bar.toNat * 68719476736 + ring.toNat * 33554432 + k.toNat + 2594073385365405696 = z
  refine ⟨z, by rw [← hw]; rfl, by simp only [slotBytes]; omega, ?_⟩
  have o0 : fld z 58 6 = 9 := by unfold fld; omega
  have f0 : bf z 54 4 = q := bf_eq z 54 q (by omega)
  have f1 : bf z 36 18 = bar := bf_eq z 36 bar (by omega)
  have f2 : bf z 25 4 = ring := bf_eq z 25 ring (by omega)
  have f3 : bf z 0 16 = k := bf_eq z 0 k (by omega)
  have r0 : fld z 16 9 = 0 := by unfold fld; omega
  have r1 : fld z 29 7 = 0 := by unfold fld; omega
  simp only [decodeSlot, decodeE, o0, f0, f1, f2, f3]
  exact checked_ok _ _ _ (by simp [r0, r1]) hwf

theorem Laws.Enc.unsubscr (q : BitVec 4) (bar : BitVec 18) (ring : BitVec 4) : Laws.Enc.Statement (.unsubscr q bar ring) := by
  intro hwf
  have b0 := q.isLt
  have b1 := bar.isLt
  have b2 := ring.isLt
  generalize hw : q.toNat * 18014398509481984 + bar.toNat * 68719476736 + ring.toNat * 33554432 + 2882303761517117440 = z
  refine ⟨z, by rw [← hw]; rfl, by simp only [slotBytes]; omega, ?_⟩
  have o0 : fld z 58 6 = 10 := by unfold fld; omega
  have f0 : bf z 54 4 = q := bf_eq z 54 q (by omega)
  have f1 : bf z 36 18 = bar := bf_eq z 36 bar (by omega)
  have f2 : bf z 25 4 = ring := bf_eq z 25 ring (by omega)
  have r0 : fld z 0 25 = 0 := by unfold fld; omega
  have r1 : fld z 29 7 = 0 := by unfold fld; omega
  simp only [decodeSlot, decodeE, o0, f0, f1, f2]
  exact checked_ok _ _ _ (by simp [r0, r1]) hwf

theorem Laws.Enc.hcwld (q : BitVec 4) (bar : BitVec 18) (an : BitVec 4) (first : BitVec 9) (cnt : BitVec 10) : Laws.Enc.Statement (.hcwld q bar an first cnt) := by
  intro hwf
  have b0 := q.isLt
  have b1 := bar.isLt
  have b2 := an.isLt
  have b3 := first.isLt
  have b4 := cnt.isLt
  generalize hw : q.toNat * 18014398509481984 + bar.toNat * 68719476736 + an.toNat * 4294967296 + first.toNat * 8388608 + cnt.toNat * 8192 + 3170534137668829184 = z
  refine ⟨z, by rw [← hw]; rfl, by simp only [slotBytes]; omega, ?_⟩
  have o0 : fld z 58 6 = 11 := by unfold fld; omega
  have f0 : bf z 54 4 = q := bf_eq z 54 q (by omega)
  have f1 : bf z 36 18 = bar := bf_eq z 36 bar (by omega)
  have f2 : bf z 32 4 = an := bf_eq z 32 an (by omega)
  have f3 : bf z 23 9 = first := bf_eq z 23 first (by omega)
  have f4 : bf z 13 10 = cnt := bf_eq z 13 cnt (by omega)
  have r0 : fld z 0 13 = 0 := by unfold fld; omega
  simp only [decodeSlot, decodeE, o0, f0, f1, f2, f3, f4]
  exact checked_ok _ _ _ (by simp [r0]) hwf

theorem Laws.Enc.gload (q : BitVec 4) (bar : BitVec 18) (an : BitVec 4) (slot : BitVec 2) : Laws.Enc.Statement (.gload q bar an slot) := by
  intro hwf
  have b0 := q.isLt
  have b1 := bar.isLt
  have b2 := an.isLt
  have b3 := slot.isLt
  generalize hw : q.toNat * 18014398509481984 + bar.toNat * 68719476736 + an.toNat * 4294967296 + slot.toNat * 1073741824 + 3458764513820540928 = z
  refine ⟨z, by rw [← hw]; rfl, by simp only [slotBytes]; omega, ?_⟩
  have o0 : fld z 58 6 = 12 := by unfold fld; omega
  have f0 : bf z 54 4 = q := bf_eq z 54 q (by omega)
  have f1 : bf z 36 18 = bar := bf_eq z 36 bar (by omega)
  have f2 : bf z 32 4 = an := bf_eq z 32 an (by omega)
  have f3 : bf z 30 2 = slot := bf_eq z 30 slot (by omega)
  have r0 : fld z 0 30 = 0 := by unfold fld; omega
  simp only [decodeSlot, decodeE, o0, f0, f1, f2, f3]
  exact checked_ok _ _ _ (by simp [r0]) hwf

theorem Laws.Enc.floadm (q : BitVec 4) (bar : BitVec 18) (an : BitVec 4) (nset : BitVec 3) (bank : BitVec 1) : Laws.Enc.Statement (.floadm q bar an nset bank) := by
  intro hwf
  have b0 := q.isLt
  have b1 := bar.isLt
  have b2 := an.isLt
  have b3 := nset.isLt
  have b4 := bank.isLt
  generalize hw : q.toNat * 18014398509481984 + bar.toNat * 68719476736 + an.toNat * 4294967296 + nset.toNat * 536870912 + bank.toNat * 268435456 + 3746994889972252672 = z
  refine ⟨z, by rw [← hw]; rfl, by simp only [slotBytes]; omega, ?_⟩
  have o0 : fld z 58 6 = 13 := by unfold fld; omega
  have f0 : bf z 54 4 = q := bf_eq z 54 q (by omega)
  have f1 : bf z 36 18 = bar := bf_eq z 36 bar (by omega)
  have f2 : bf z 32 4 = an := bf_eq z 32 an (by omega)
  have f3 : bf z 29 3 = nset := bf_eq z 29 nset (by omega)
  have f4 : bf z 28 1 = bank := bf_eq z 28 bank (by omega)
  have r0 : fld z 0 28 = 0 := by unfold fld; omega
  simp only [decodeSlot, decodeE, o0, f0, f1, f2, f3, f4]
  exact checked_ok _ _ _ (by simp [r0]) hwf

theorem Laws.Enc.pmig (q : BitVec 4) (bar : BitVec 18) (an : BitVec 4) (tier : BitVec 2) (pages : BitVec 30) : Laws.Enc.Statement (.pmig q bar an tier pages) := by
  intro hwf
  have b0 := q.isLt
  have b1 := bar.isLt
  have b2 := an.isLt
  have b3 := tier.isLt
  have b4 := pages.isLt
  generalize hw : q.toNat * 18014398509481984 + bar.toNat * 68719476736 + an.toNat * 4294967296 + tier.toNat * 1073741824 + pages.toNat + 4035225266123964416 = z
  refine ⟨z, by rw [← hw]; rfl, by simp only [slotBytes]; omega, ?_⟩
  have o0 : fld z 58 6 = 14 := by unfold fld; omega
  have f0 : bf z 54 4 = q := bf_eq z 54 q (by omega)
  have f1 : bf z 36 18 = bar := bf_eq z 36 bar (by omega)
  have f2 : bf z 32 4 = an := bf_eq z 32 an (by omega)
  have f3 : bf z 30 2 = tier := bf_eq z 30 tier (by omega)
  have f4 : bf z 0 30 = pages := bf_eq z 0 pages (by omega)
  simp only [decodeSlot, decodeE, o0, f0, f1, f2, f3, f4]
  exact checked_ok _ _ _ (rfl) hwf

theorem Laws.Enc.put (q : BitVec 4) (bar : BitVec 18) (al : BitVec 4) (ar : BitVec 4) (peer : BitVec 8) (op : BitVec 6) (nset : BitVec 3) : Laws.Enc.Statement (.put q bar al ar peer op nset) := by
  intro hwf
  have b0 := q.isLt
  have b1 := bar.isLt
  have b2 := al.isLt
  have b3 := ar.isLt
  have b4 := peer.isLt
  have b5 := op.isLt
  have b6 := nset.isLt
  generalize hw : q.toNat * 18014398509481984 + bar.toNat * 68719476736 + al.toNat * 4294967296 + ar.toNat * 268435456 + peer.toNat * 1048576 + op.toNat * 16384 + nset.toNat * 2048 + 4323455642275676160 = z
  refine ⟨z, by rw [← hw]; rfl, by simp only [slotBytes]; omega, ?_⟩
  have o0 : fld z 58 6 = 15 := by unfold fld; omega
  have f0 : bf z 54 4 = q := bf_eq z 54 q (by omega)
  have f1 : bf z 36 18 = bar := bf_eq z 36 bar (by omega)
  have f2 : bf z 32 4 = al := bf_eq z 32 al (by omega)
  have f3 : bf z 28 4 = ar := bf_eq z 28 ar (by omega)
  have f4 : bf z 20 8 = peer := bf_eq z 20 peer (by omega)
  have f5 : bf z 14 6 = op := bf_eq z 14 op (by omega)
  have f6 : bf z 11 3 = nset := bf_eq z 11 nset (by omega)
  have r0 : fld z 0 11 = 0 := by unfold fld; omega
  simp only [decodeSlot, decodeE, o0, f0, f1, f2, f3, f4, f5, f6]
  exact checked_ok _ _ _ (by simp [r0]) hwf

theorem Laws.Enc.get (q : BitVec 4) (bar : BitVec 18) (al : BitVec 4) (ar : BitVec 4) (peer : BitVec 8) (op : BitVec 6) (nset : BitVec 3) : Laws.Enc.Statement (.get q bar al ar peer op nset) := by
  intro hwf
  have b0 := q.isLt
  have b1 := bar.isLt
  have b2 := al.isLt
  have b3 := ar.isLt
  have b4 := peer.isLt
  have b5 := op.isLt
  have b6 := nset.isLt
  generalize hw : q.toNat * 18014398509481984 + bar.toNat * 68719476736 + al.toNat * 4294967296 + ar.toNat * 268435456 + peer.toNat * 1048576 + op.toNat * 16384 + nset.toNat * 2048 + 4611686018427387904 = z
  refine ⟨z, by rw [← hw]; rfl, by simp only [slotBytes]; omega, ?_⟩
  have o0 : fld z 58 6 = 16 := by unfold fld; omega
  have f0 : bf z 54 4 = q := bf_eq z 54 q (by omega)
  have f1 : bf z 36 18 = bar := bf_eq z 36 bar (by omega)
  have f2 : bf z 32 4 = al := bf_eq z 32 al (by omega)
  have f3 : bf z 28 4 = ar := bf_eq z 28 ar (by omega)
  have f4 : bf z 20 8 = peer := bf_eq z 20 peer (by omega)
  have f5 : bf z 14 6 = op := bf_eq z 14 op (by omega)
  have f6 : bf z 11 3 = nset := bf_eq z 11 nset (by omega)
  have r0 : fld z 0 11 = 0 := by unfold fld; omega
  simp only [decodeSlot, decodeE, o0, f0, f1, f2, f3, f4, f5, f6]
  exact checked_ok _ _ _ (by simp [r0]) hwf

theorem Laws.Enc.phlive (chunks : BitVec 16) (tiles : BitVec 16) (accs : BitVec 8) (sgroups : BitVec 8) : Laws.Enc.Statement (.phlive chunks tiles accs sgroups) := by
  intro hwf
  have b0 := chunks.isLt
  have b1 := tiles.isLt
  have b2 := accs.isLt
  have b3 := sgroups.isLt
  generalize hw : chunks.toNat * 4398046511104 + tiles.toNat * 67108864 + accs.toNat * 262144 + sgroups.toNat * 1024 + 4899916394579099648 = z
  refine ⟨z, by rw [← hw]; rfl, by simp only [slotBytes]; omega, ?_⟩
  have o0 : fld z 58 6 = 17 := by unfold fld; omega
  have f0 : bf z 42 16 = chunks := bf_eq z 42 chunks (by omega)
  have f1 : bf z 26 16 = tiles := bf_eq z 26 tiles (by omega)
  have f2 : bf z 18 8 = accs := bf_eq z 18 accs (by omega)
  have f3 : bf z 10 8 = sgroups := bf_eq z 10 sgroups (by omega)
  have r0 : fld z 0 10 = 0 := by unfold fld; omega
  simp only [decodeSlot, decodeE, o0, f0, f1, f2, f3]
  exact checked_ok _ _ _ (by simp [r0]) hwf

theorem Laws.Enc.bankcfg (q : BitVec 4) (bar : BitVec 18) (bank : BitVec 5) (mode : BitVec 2) (ring : BitVec 4) : Laws.Enc.Statement (.bankcfg q bar bank mode ring) := by
  intro hwf
  have b0 := q.isLt
  have b1 := bar.isLt
  have b2 := bank.isLt
  have b3 := mode.isLt
  have b4 := ring.isLt
  generalize hw : q.toNat * 18014398509481984 + bar.toNat * 68719476736 + bank.toNat * 2147483648 + mode.toNat * 536870912 + ring.toNat * 33554432 + 5188146770730811392 = z
  refine ⟨z, by rw [← hw]; rfl, by simp only [slotBytes]; omega, ?_⟩
  have o0 : fld z 58 6 = 18 := by unfold fld; omega
  have f0 : bf z 54 4 = q := bf_eq z 54 q (by omega)
  have f1 : bf z 36 18 = bar := bf_eq z 36 bar (by omega)
  have f2 : bf z 31 5 = bank := bf_eq z 31 bank (by omega)
  have f3 : bf z 29 2 = mode := bf_eq z 29 mode (by omega)
  have f4 : bf z 25 4 = ring := bf_eq z 25 ring (by omega)
  have r0 : fld z 0 25 = 0 := by unfold fld; omega
  simp only [decodeSlot, decodeE, o0, f0, f1, f2, f3, f4]
  exact checked_ok _ _ _ (by simp [r0]) hwf

theorem Laws.Enc.zerom (q : BitVec 4) (bar : BitVec 18) (an : BitVec 4) (lines : BitVec 32) : Laws.Enc.Statement (.zerom q bar an lines) := by
  intro hwf
  have b0 := q.isLt
  have b1 := bar.isLt
  have b2 := an.isLt
  have b3 := lines.isLt
  generalize hw : q.toNat * 18014398509481984 + bar.toNat * 68719476736 + an.toNat * 4294967296 + lines.toNat + 5476377146882523136 = z
  refine ⟨z, by rw [← hw]; rfl, by simp only [slotBytes]; omega, ?_⟩
  have o0 : fld z 58 6 = 19 := by unfold fld; omega
  have f0 : bf z 54 4 = q := bf_eq z 54 q (by omega)
  have f1 : bf z 36 18 = bar := bf_eq z 36 bar (by omega)
  have f2 : bf z 32 4 = an := bf_eq z 32 an (by omega)
  have f3 : bf z 0 32 = lines := bf_eq z 0 lines (by omega)
  simp only [decodeSlot, decodeE, o0, f0, f1, f2, f3]
  exact checked_ok _ _ _ (rfl) hwf

theorem Laws.Enc.binit (sa : BitVec 6) (cnt : BitVec 12) : Laws.Enc.Statement (.binit sa cnt) := by
  intro hwf
  have b0 := sa.isLt
  have b1 := cnt.isLt
  generalize hw : sa.toNat * 1048576 + cnt.toNat * 256 = z
  refine ⟨z, by rw [← hw]; rfl, by simp only [slotBytes]; omega, ?_⟩
  have o0 : fld z 26 6 = 0 := by unfold fld; omega
  have f0 : bf z 20 6 = sa := bf_eq z 20 sa (by omega)
  have f1 : bf z 8 12 = cnt := bf_eq z 8 cnt (by omega)
  have r0 : fld z 0 8 = 0 := by unfold fld; omega
  simp only [decodeSlot, decodeT, o0, f0, f1]
  exact checked_ok _ _ _ (by simp [r0]) hwf

theorem Laws.Enc.barrive (sa : BitVec 6) (cnt : BitVec 12) : Laws.Enc.Statement (.barrive sa cnt) := by
  intro hwf
  have b0 := sa.isLt
  have b1 := cnt.isLt
  generalize hw : sa.toNat * 1048576 + cnt.toNat * 256 + 67108864 = z
  refine ⟨z, by rw [← hw]; rfl, by simp only [slotBytes]; omega, ?_⟩
  have o0 : fld z 26 6 = 1 := by unfold fld; omega
  have f0 : bf z 20 6 = sa := bf_eq z 20 sa (by omega)
  have f1 : bf z 8 12 = cnt := bf_eq z 8 cnt (by omega)
  have r0 : fld z 0 8 = 0 := by unfold fld; omega
  simp only [decodeSlot, decodeT, o0, f0, f1]
  exact checked_ok _ _ _ (by simp [r0]) hwf

theorem Laws.Enc.bwait (sd : BitVec 6) (sa : BitVec 6) (ph : BitVec 4) (tmo : BitVec 10) : Laws.Enc.Statement (.bwait sd sa ph tmo) := by
  intro hwf
  have b0 := sd.isLt
  have b1 := sa.isLt
  have b2 := ph.isLt
  have b3 := tmo.isLt
  generalize hw : sd.toNat * 1048576 + sa.toNat * 16384 + ph.toNat * 1024 + tmo.toNat + 134217728 = z
  refine ⟨z, by rw [← hw]; rfl, by simp only [slotBytes]; omega, ?_⟩
  have o0 : fld z 26 6 = 2 := by unfold fld; omega
  have f0 : bf z 20 6 = sd := bf_eq z 20 sd (by omega)
  have f1 : bf z 14 6 = sa := bf_eq z 14 sa (by omega)
  have f2 : bf z 10 4 = ph := bf_eq z 10 ph (by omega)
  have f3 : bf z 0 10 = tmo := bf_eq z 0 tmo (by omega)
  simp only [decodeSlot, decodeT, o0, f0, f1, f2, f3]
  exact checked_ok _ _ _ (rfl) hwf

theorem Laws.Enc.bexpect (sa : BitVec 6) (sb : BitVec 6) : Laws.Enc.Statement (.bexpect sa sb) := by
  intro hwf
  have b0 := sa.isLt
  have b1 := sb.isLt
  generalize hw : sa.toNat * 1048576 + sb.toNat * 16384 + 201326592 = z
  refine ⟨z, by rw [← hw]; rfl, by simp only [slotBytes]; omega, ?_⟩
  have o0 : fld z 26 6 = 3 := by unfold fld; omega
  have f0 : bf z 20 6 = sa := bf_eq z 20 sa (by omega)
  have f1 : bf z 14 6 = sb := bf_eq z 14 sb (by omega)
  have r0 : fld z 0 14 = 0 := by unfold fld; omega
  simp only [decodeSlot, decodeT, o0, f0, f1]
  exact checked_ok _ _ _ (by simp [r0]) hwf

theorem Laws.Enc.sleepb (sa : BitVec 6) : Laws.Enc.Statement (.sleepb sa) := by
  intro hwf
  have b0 := sa.isLt
  generalize hw : sa.toNat * 1048576 + 268435456 = z
  refine ⟨z, by rw [← hw]; rfl, by simp only [slotBytes]; omega, ?_⟩
  have o0 : fld z 26 6 = 4 := by unfold fld; omega
  have f0 : bf z 20 6 = sa := bf_eq z 20 sa (by omega)
  have r0 : fld z 0 20 = 0 := by unfold fld; omega
  simp only [decodeSlot, decodeT, o0, f0]
  exact checked_ok _ _ _ (by simp [r0]) hwf

theorem Laws.Enc.tspawn (sd : BitVec 6) (sa : BitVec 6) : Laws.Enc.Statement (.tspawn sd sa) := by
  intro hwf
  have b0 := sd.isLt
  have b1 := sa.isLt
  generalize hw : sd.toNat * 1048576 + sa.toNat * 16384 + 335544320 = z
  refine ⟨z, by rw [← hw]; rfl, by simp only [slotBytes]; omega, ?_⟩
  have o0 : fld z 26 6 = 5 := by unfold fld; omega
  have f0 : bf z 20 6 = sd := bf_eq z 20 sd (by omega)
  have f1 : bf z 14 6 = sa := bf_eq z 14 sa (by omega)
  have r0 : fld z 0 14 = 0 := by unfold fld; omega
  simp only [decodeSlot, decodeT, o0, f0, f1]
  exact checked_ok _ _ _ (by simp [r0]) hwf

theorem Laws.Enc.tview (view : BitVec 3) (sa : BitVec 6) : Laws.Enc.Statement (.tview view sa) := by
  intro hwf
  have b0 := view.isLt
  have b1 := sa.isLt
  generalize hw : view.toNat * 8388608 + sa.toNat * 131072 + 402653184 = z
  refine ⟨z, by rw [← hw]; rfl, by simp only [slotBytes]; omega, ?_⟩
  have o0 : fld z 26 6 = 6 := by unfold fld; omega
  have f0 : bf z 23 3 = view := bf_eq z 23 view (by omega)
  have f1 : bf z 17 6 = sa := bf_eq z 17 sa (by omega)
  have r0 : fld z 0 17 = 0 := by unfold fld; omega
  simp only [decodeSlot, decodeT, o0, f0, f1]
  exact checked_ok _ _ _ (by simp [r0]) hwf

theorem Laws.Enc.tend : Laws.Enc.Statement .tend := by
  intro hwf
  generalize hw : 469762048 = z
  refine ⟨z, by rw [← hw]; rfl, by simp only [slotBytes]; omega, ?_⟩
  have o0 : fld z 26 6 = 7 := by unfold fld; omega
  have r0 : fld z 0 26 = 0 := by unfold fld; omega
  simp only [decodeSlot, decodeT, o0]
  exact checked_ok _ _ _ (by simp [r0]) hwf

theorem Laws.Enc.tsuspend (sa : BitVec 6) (sb : BitVec 6) : Laws.Enc.Statement (.tsuspend sa sb) := by
  intro hwf
  have b0 := sa.isLt
  have b1 := sb.isLt
  generalize hw : sa.toNat * 1048576 + sb.toNat * 16384 + 536870912 = z
  refine ⟨z, by rw [← hw]; rfl, by simp only [slotBytes]; omega, ?_⟩
  have o0 : fld z 26 6 = 8 := by unfold fld; omega
  have f0 : bf z 20 6 = sa := bf_eq z 20 sa (by omega)
  have f1 : bf z 14 6 = sb := bf_eq z 14 sb (by omega)
  have r0 : fld z 0 14 = 0 := by unfold fld; omega
  simp only [decodeSlot, decodeT, o0, f0, f1]
  exact checked_ok _ _ _ (by simp [r0]) hwf

theorem Laws.Enc.tsignal (sa : BitVec 6) : Laws.Enc.Statement (.tsignal sa) := by
  intro hwf
  have b0 := sa.isLt
  generalize hw : sa.toNat * 1048576 + 603979776 = z
  refine ⟨z, by rw [← hw]; rfl, by simp only [slotBytes]; omega, ?_⟩
  have o0 : fld z 26 6 = 9 := by unfold fld; omega
  have f0 : bf z 20 6 = sa := bf_eq z 20 sa (by omega)
  have r0 : fld z 0 20 = 0 := by unfold fld; omega
  simp only [decodeSlot, decodeT, o0, f0]
  exact checked_ok _ _ _ (by simp [r0]) hwf

theorem Laws.Enc.tnotify (sa : BitVec 6) : Laws.Enc.Statement (.tnotify sa) := by
  intro hwf
  have b0 := sa.isLt
  generalize hw : sa.toNat * 1048576 + 671088640 = z
  refine ⟨z, by rw [← hw]; rfl, by simp only [slotBytes]; omega, ?_⟩
  have o0 : fld z 26 6 = 10 := by unfold fld; omega
  have f0 : bf z 20 6 = sa := bf_eq z 20 sa (by omega)
  have r0 : fld z 0 20 = 0 := by unfold fld; omega
  simp only [decodeSlot, decodeT, o0, f0]
  exact checked_ok _ _ _ (by simp [r0]) hwf

theorem Laws.Enc.btest (sd : BitVec 6) (sa : BitVec 6) (ph : BitVec 4) : Laws.Enc.Statement (.btest sd sa ph) := by
  intro hwf
  have b0 := sd.isLt
  have b1 := sa.isLt
  have b2 := ph.isLt
  generalize hw : sd.toNat * 1048576 + sa.toNat * 16384 + ph.toNat * 1024 + 738197504 = z
  refine ⟨z, by rw [← hw]; rfl, by simp only [slotBytes]; omega, ?_⟩
  have o0 : fld z 26 6 = 11 := by unfold fld; omega
  have f0 : bf z 20 6 = sd := bf_eq z 20 sd (by omega)
  have f1 : bf z 14 6 = sa := bf_eq z 14 sa (by omega)
  have f2 : bf z 10 4 = ph := bf_eq z 10 ph (by omega)
  have r0 : fld z 0 10 = 0 := by unfold fld; omega
  simp only [decodeSlot, decodeT, o0, f0, f1, f2]
  exact checked_ok _ _ _ (by simp [r0]) hwf

theorem Laws.Enc.mrepReissue (c : BitVec 6) : Laws.Enc.Statement (.mrepReissue c) := rfl

theorem Laws.Enc.linePad (k : BitVec 8) : Laws.Enc.Statement (.linePad k) := rfl

theorem Laws.Enc.blockClear (k : BitVec 8) : Laws.Enc.Statement (.blockClear k) := rfl

theorem Laws.Enc.budgetExhausted (k : BitVec 8) : Laws.Enc.Statement (.budgetExhausted k) := rfl

theorem Laws.Enc.shadowLand (k : BitVec 8) : Laws.Enc.Statement (.shadowLand k) := rfl

theorem Laws.Enc.loadDataReturn (k : BitVec 8) : Laws.Enc.Statement (.loadDataReturn k) := rfl

theorem Laws.Enc.storePerform (k : BitVec 8) : Laws.Enc.Statement (.storePerform k) := rfl

theorem Laws.Enc.vSlotComplete (k : BitVec 8) : Laws.Enc.Statement (.vSlotComplete k) := rfl

theorem Laws.Enc.sleepuTarget (k : BitVec 8) : Laws.Enc.Statement (.sleepuTarget k) := rfl

theorem Laws.Enc.bwaitTimeout (k : BitVec 8) : Laws.Enc.Statement (.bwaitTimeout k) := rfl

theorem Laws.Enc.mwaitTimeout (k : BitVec 8) : Laws.Enc.Statement (.mwaitTimeout k) := rfl

theorem Laws.Enc.sleepbPromiseDue (k : BitVec 8) : Laws.Enc.Statement (.sleepbPromiseDue k) := rfl

theorem Laws.Enc.commandComplete (c : BitVec 6) (q : BitVec 4) : Laws.Enc.Statement (.commandComplete c q) := rfl

theorem Laws.Enc.engineFault (c : BitVec 6) (q : BitVec 4) : Laws.Enc.Statement (.engineFault c q) := rfl

theorem Laws.Enc.replayLand (k : BitVec 8) : Laws.Enc.Statement (.replayLand k) := rfl

theorem Laws.Enc.taskStart (k : BitVec 8) : Laws.Enc.Statement (.taskStart k) := rfl

theorem Laws.Enc.viewFold (p : BitVec 4) (task : BitVec 32) : Laws.Enc.Statement (.viewFold p task) := rfl

theorem Laws.Enc.dedupProbe (d : BitVec 2) (line : BitVec 41) : Laws.Enc.Statement (.dedupProbe d line) := rfl

theorem Laws.Enc.hotClear (d : BitVec 2) (line : BitVec 41) : Laws.Enc.Statement (.hotClear d line) := rfl

theorem Laws.Enc.moduleWriteApply (d : BitVec 2) : Laws.Enc.Statement (.moduleWriteApply d) := rfl

theorem Laws.Enc.hostMemoryAccess (write : Bool) (addr : BitVec 48) (size : Nat) (data : List (BitVec 8)) : Laws.Enc.Statement (.hostMemoryAccess write addr size data) := rfl

theorem Laws.Enc.riggerFill (c : BitVec 6) (ring : BitVec 4) : Laws.Enc.Statement (.riggerFill c ring) := rfl

theorem Laws.Enc.groupValidation (c : BitVec 6) (slot : BitVec 2) : Laws.Enc.Statement (.groupValidation c slot) := rfl

theorem Laws.Enc.prectlSave (p : BitVec 4) : Laws.Enc.Statement (.prectlSave p) := rfl

theorem Laws.Enc.prectlRestore (p : BitVec 4) : Laws.Enc.Statement (.prectlRestore p) := rfl

theorem Laws.Enc.hvSave (p : BitVec 4) : Laws.Enc.Statement (.hvSave p) := rfl

theorem Laws.Enc.hvRestore (p : BitVec 4) : Laws.Enc.Statement (.hvRestore p) := rfl

theorem Laws.Enc.preemptBoundExpiry (p : BitVec 4) : Laws.Enc.Statement (.preemptBoundExpiry p) := rfl

theorem Laws.Enc.preemptFail (p : BitVec 4) : Laws.Enc.Statement (.preemptFail p) := rfl

theorem Laws.Enc.preemptStateReached (p : BitVec 4) : Laws.Enc.Statement (.preemptStateReached p) := rfl

theorem Laws.Enc.rootTask (p : BitVec 4) (queue : BitVec 4) (crews : BitVec 16) (tag : BitVec 64) (rec : BitVec 512) : Laws.Enc.Statement (.rootTask p queue crews tag rec) := rfl

theorem Laws.Enc.resume (p : BitVec 4) (n : Nat) : Laws.Enc.Statement (.resume p n) := rfl

theorem Laws.Enc.abort (p : BitVec 4) (n : Nat) : Laws.Enc.Statement (.abort p n) := rfl

theorem Laws.Enc.haltDecision (p : BitVec 4) (task : BitVec 32) (discard : Bool) : Laws.Enc.Statement (.haltDecision p task discard) := rfl

theorem Laws.Enc.shoot (p : BitVec 4) (base : BitVec 64) (size : BitVec 2) (count : Nat) (all : Bool) : Laws.Enc.Statement (.shoot p base size count all) := rfl

theorem Laws.Enc.shootdone (p : BitVec 4) : Laws.Enc.Statement (.shootdone p) := rfl

theorem Laws.Enc.zmap (p : BitVec 4) (frame : BitVec 48) (size : BitVec 2) : Laws.Enc.Statement (.zmap p frame size) := rfl

theorem Laws.Enc.zdone (p : BitVec 4) : Laws.Enc.Statement (.zdone p) := rfl

theorem Laws.Enc.frameGrant (p : BitVec 4) (req : BitVec 32) (refused : Bool) (frames : List (BitVec 64)) : Laws.Enc.Statement (.frameGrant p req refused frames) := rfl

theorem Laws.Enc.putMessage (p : BitVec 4) (m : PutMsg) : Laws.Enc.Statement (.putMessage p m) := rfl

theorem Laws.Enc.getRequest (p : BitVec 4) (port : BitVec 4) (tag : BitVec 64) (addr : BitVec 64) (size : Nat) : Laws.Enc.Statement (.getRequest p port tag addr size) := rfl

theorem Laws.Enc.getData (c : BitVec 6) (q : BitVec 4) (data : List (BitVec 8)) (poisoned : Bool) : Laws.Enc.Statement (.getData c q data poisoned) := rfl

theorem Laws.Enc.farEndAck (c : BitVec 6) (q : BitVec 4) (status : BitVec 2) : Laws.Enc.Statement (.farEndAck c q status) := rfl

theorem Laws.Enc.registerWrite (p : BitVec 4) (pf : Bool) (reg : BitVec 12) (val : BitVec 64) : Laws.Enc.Statement (.registerWrite p pf reg val) := rfl

theorem Laws.Enc.registerRead (p : BitVec 4) (pf : Bool) (reg : BitVec 12) : Laws.Enc.Statement (.registerRead p pf reg) := rfl

theorem Laws.Enc.containWrite (p : BitVec 4) (compat : Bool) : Laws.Enc.Statement (.containWrite p compat) := rfl

theorem Laws.Enc.form (berths : BitVec 16) (vf : BitVec 8) : Laws.Enc.Statement (.form berths vf) := rfl

theorem Laws.Enc.dissolve (p : BitVec 4) : Laws.Enc.Statement (.dissolve p) := rfl

theorem Laws.Enc.reset (p : BitVec 4) (pf : Bool) (task : BitVec 32) : Laws.Enc.Statement (.reset p pf task) := rfl

theorem Laws.Enc.powerOn : Laws.Enc.Statement .powerOn := rfl

theorem Laws.Enc.restartCold : Laws.Enc.Statement .restartCold := rfl

theorem Laws.Enc.restartWarm : Laws.Enc.Statement .restartWarm := rfl

theorem Laws.Enc.quoteRequest (nonce : BitVec 256) : Laws.Enc.Statement (.quoteRequest nonce) := rfl

theorem Laws.Enc.firmwareChunk (off : BitVec 32) (len : BitVec 32) (data : List (BitVec 64)) : Laws.Enc.Statement (.firmwareChunk off len data) := rfl

theorem Laws.Enc.linkParameter (port : BitVec 4) (recv : Bool) (switchPoint : BitVec 64) : Laws.Enc.Statement (.linkParameter port recv switchPoint) := rfl

theorem Laws.Enc.flitArrival (port : BitVec 4) (f : Flit) : Laws.Enc.Statement (.flitArrival port f) := rfl

theorem Laws.Enc.nakReceived (port : BitVec 4) (e : BitVec 32) : Laws.Enc.Statement (.nakReceived port e) := rfl

theorem Laws.Enc.retryTimeout (port : BitVec 4) : Laws.Enc.Statement (.retryTimeout port) := rfl

theorem Laws.Enc.portTrainFull (port : BitVec 4) (epoch : BitVec 64) : Laws.Enc.Statement (.portTrainFull port epoch) := rfl

theorem Laws.Enc.keySwitch (port : BitVec 4) : Laws.Enc.Statement (.keySwitch port) := rfl

theorem Laws.Enc.keyExhausted (port : BitVec 4) : Laws.Enc.Statement (.keyExhausted port) := rfl

theorem Laws.Enc.correctedError (p : BitVec 4) (unit : BitVec 16) (loc : BitVec 64) : Laws.Enc.Statement (.correctedError p unit loc) := rfl

theorem Laws.Enc.patrolScrub (addr : BitVec 48) (found : Bool) : Laws.Enc.Statement (.patrolScrub addr found) := rfl

theorem Laws.Enc.uncorrectableError (p : BitVec 4) (unit : BitVec 16) (loc : BitVec 64) (place : ErrorPlace) : Laws.Enc.Statement (.uncorrectableError p unit loc place) := rfl

theorem Laws.Enc.governorInterval (power : Nat) (temp : Nat) (flowLost : Bool) : Laws.Enc.Statement (.governorInterval power temp flowLost) := rfl

theorem Laws.Enc.retrainingComplete (port : BitVec 4) (ok : Bool) : Laws.Enc.Statement (.retrainingComplete port ok) := rfl

theorem Laws.Enc.keySlotRefill (port : BitVec 4) (recv : Bool) (slot : BitVec 1) : Laws.Enc.Statement (.keySlotRefill port recv slot) := rfl

theorem Laws.Enc.spuriousWake (k : BitVec 8) : Laws.Enc.Statement (.spuriousWake k) := rfl

theorem Laws.Enc.arrayOperationComplete (c : BitVec 6) : Laws.Enc.Statement (.arrayOperationComplete c) := rfl

theorem Laws.Enc.xMoveComplete (k : BitVec 8) : Laws.Enc.Statement (.xMoveComplete k) := rfl

theorem Laws.Enc.scoreboardResultWrite (k : BitVec 8) : Laws.Enc.Statement (.scoreboardResultWrite k) := rfl

end Sys2Proof
end

