-- ==== Sys2Proof/Tests/Slice0.lean ====
section
/-! SUPPORT. Tests of single operations, words written out from the encodings, and, for every statement with hypotheses,
a state and operands that meet them. Expected values come from the manual's text. -/

namespace Sys2Proof.Tests

open Sys2Proof Sys2Proof.Machine

set_option Elab.async false

/-! States to test on. -/

/-- A ready context with these scalar and address registers. -/
def withRegs (sr ar : List (Nat × Word)) : State :=
  { State.reset with ctx := { Ctx.reset with status := .ready, r := { Regs.reset with s := sr, a := ar } } }

/-- s1 and s2 given; a1 the first byte of local SRAM, a2 its second, a3 byte 1024; LDQ holds two scalars. -/
def two (a b : Word) : State :=
  let s := withRegs [(1, a), (2, b)] [(1, 0xFFFFF00000000000), (2, 0xFFFFF00000000001), (3, 0xFFFFF00000000400)]
  s.modPend (fun p => { p with ldq := [.scalar 5, .scalar 6] })

/-- The same, with full windows and the array claim. -/
def windowed : State :=
  let s := (two 7 3).modCtrl (fun c => { c with vwin := 12, twin := 4 })
  { s with core := { s.core with arr := { s.core.arr with claim := some 0 } } }

/-- The same, in HANDLER mode. -/
def inHandler : State := { two 7 3 with ctx := { (two 7 3).ctx with mode := .handler } }

/-! Fields that the encodings do not admit: each check refuses one. -/

theorem test_ill_bc : (Instr.bc 6 0 0).wf = false := by decide
theorem test_ill_loop_len : (Instr.loop 0 1 0).wf = false := by decide
theorem test_ill_loop_counts : (Instr.loop 1 1 4).wf = false := by decide
theorem test_ill_lbreak : (Instr.lbreak 7).wf = false := by decide
theorem test_ill_ldq_size : (Instr.ldq 0 0 5 0).wf = false := by decide
theorem test_ill_stq_size : (Instr.stq 0 0 5 0).wf = false := by decide
theorem test_ill_ld_size : (Instr.ld 0 0 4 0 0).wf = false := by decide
theorem test_ill_st_size : (Instr.st 0 0 4 0).wf = false := by decide
theorem test_ill_vgathq_mode : (Instr.vgathq 0 0 0 0 3 0).wf = false := by decide
theorem test_ill_vscatq_mode : (Instr.vscatq 0 0 0 0 3 0).wf = false := by decide
theorem test_ill_amo_op : (Instr.amo 0 0 0 11 0 0 0).wf = false := by decide
theorem test_ill_amo_size : (Instr.amo 0 0 0 10 1 0 0).wf = false := by decide
theorem test_ill_amo_scope : (Instr.amo 0 0 0 0 0 0 5).wf = false := by decide
theorem test_ill_chunk_scope : (Instr.amoChunk 0 0 0 0 5).wf = false := by decide
theorem test_ill_marm : (Instr.marm 0 0 5 0).wf = false := by decide
theorem test_ill_fence : (Instr.fence 0 5).wf = false := by decide
theorem test_ill_pref : (Instr.pref 0 0 5 0).wf = false := by decide
theorem test_ill_ldt : (Instr.ldt 0 0 0 0 4 0).wf = false := by decide
theorem test_ill_ecfg_dim : (Instr.ecfg 0 7 0 0).wf = false := by decide
theorem test_ill_ecfg_elem : (Instr.ecfg 0 6 0 0x10).wf = false := by decide
theorem test_ill_ecfg_origin : (Instr.ecfg 0 6 1 (6 * 2 ^ 26)).wf = false := by decide
theorem test_ill_bar : (Instr.copy 0 0xC000 0 0 0 0 0).wf = false := by decide
theorem test_ill_copy_op : (Instr.copy 0 0x3FFFF 0 0 0 0 6).wf = false := by decide
theorem test_ill_gather : (Instr.gather 0 0x3FFFF 0 0 0 0 0 1).wf = false := by decide
theorem test_ill_scatter : (Instr.scatter 0 0x3FFFF 0 0 0 0 0 1).wf = false := by decide
theorem test_ill_nmop : (Instr.nmop 0 0x3FFFF 0 0 0 0 6 0).wf = false := by decide
theorem test_ill_nmfence : (Instr.nmfence 0 0xC000).wf = false := by decide
theorem test_ill_nmopt : (Instr.nmopt 0 0x3FFFF 0 0 0 3 0).wf = false := by decide
theorem test_ill_qfence : (Instr.qfence 0 0xC000 0).wf = false := by decide
theorem test_ill_subscr : (Instr.subscr 0 0x3FFFF 0 0 0 20 5 0).wf = false := by decide
theorem test_ill_slotret : (Instr.slotret 0 0x3FFFF 0 0).wf = false := by decide
theorem test_ill_unsubscr : (Instr.unsubscr 0 0xC000 0).wf = false := by decide
theorem test_ill_hcwld_zero : (Instr.hcwld 0 0x3FFFF 0 0 0).wf = false := by decide
theorem test_ill_hcwld_range : (Instr.hcwld 0 0x3FFFF 0 511 2).wf = false := by decide
theorem test_ill_gload : (Instr.gload 0 0xC000 0 0).wf = false := by decide
theorem test_ill_floadm : (Instr.floadm 0 0xC000 0 0 0).wf = false := by decide
theorem test_ill_pmig : (Instr.pmig 0 0x3FFFF 0 2 0).wf = false := by decide
theorem test_ill_put : (Instr.put 0 0x3FFFF 0 0 0 1 0).wf = false := by decide
theorem test_ill_get : (Instr.get 0 0x3FFFF 0 0 0 6 0).wf = false := by decide
theorem test_ill_bankcfg_bank : (Instr.bankcfg 0 0x3FFFF 24 0 0).wf = false := by decide
theorem test_ill_bankcfg_mode : (Instr.bankcfg 0 0x3FFFF 0 3 0).wf = false := by decide
theorem test_ill_zerom : (Instr.zerom 0 0xC000 0 0).wf = false := by decide
theorem test_ill_binit : (Instr.binit 1 0).wf = false := by decide
theorem test_ill_barrive : (Instr.barrive 1 0).wf = false := by decide

/-! Words written out from the encodings (04 R74 to R87, 06 R100 to R112). -/

-- C: opcode [31:26]
theorem test_decode_nop : readAs .c 0 = some .nop := by decide
theorem test_decode_br : readAs .c 0b000001_11111111111111111111111111 = some (.br (-1)) := by decide
theorem test_decode_loop : readAs .c 0b001000_000000_00000001010_000000100 = some (.loop 0 10 4) := by decide
theorem test_decode_trap : readAs .c 0b001110_0000000000_0000000000000111 = some (.trap 7) := by decide
theorem test_decode_mwait : readAs .c 0b010001_000101_000110_00000000000000 = some (.mwait 5 6) := by decide
theorem test_decode_c_reserved : readAs .c 1 = none := by decide
theorem test_decode_c_unassigned : readAs .c (7 * 2 ^ 26) = none := by decide
-- S: opcode [31:26], function [7:0]
theorem test_decode_add : readAs .s 0b000000_000011_000001_000010_00000000 = some (.add 3 1 2) := by decide
theorem test_decode_bfx : readAs .s 0b011000_000011_000001_000100_001000_00 = some (.bfx 3 1 4 8) := by decide
theorem test_decode_crr : readAs .s 0b100000_000011_00000000_000001000101 = some (.crr 3 0x045) := by decide
theorem test_decode_s_unassigned : readAs .s 0x31 = none := by decide
-- A: opcode [31:27]
theorem test_decode_ldq : readAs .a 0b00000_0001_0010_011_0000000000001000 = some (.ldq 1 2 3 8) := by decide
theorem test_decode_fence : readAs .a 0b01110_10_011_0000000000000000000000 = some (.fence 2 3) := by decide
theorem test_decode_qopen : readAs .a 0b10000_011_000000_0101_000111_00000000 = some (.qopen 3 5 7) := by decide
-- M, V, X
theorem test_decode_mbeat : readAs .m 0b00_1_0_1_0_0011_0000101_010_0000111_001_10 = some (.mbeat 1 0 1 0 3 5 2 7 1 2) := by decide
theorem test_decode_mrep : readAs .m 0b11_000000001001_000000000000000000 = some (.mrep 9) := by decide
theorem test_decode_vh : readAs .v 0b111111111_0001_000 = some (.vh 511 1) := by decide
theorem test_decode_xcopy : readAs .x 0b00000_000000011_000000101_001_010_000 = some (.xcopy 3 5 1 2) := by decide
-- E: opcode [63:58], queue [57:54], barrier [53:36]
theorem test_decode_qfence : readAs .e (0b000111_0011_000000000000000010_0000000000000101 * 2 ^ 20) = some (.qfence 3 2 5) := by
  decide
theorem test_decode_phlive : readAs .e (0b010001_0000000000000001_0000000000000010_00000011_00000100 * 2 ^ 10) =
    some (.phlive 1 2 3 4) := by decide
-- T: opcode [31:26]
theorem test_decode_bwait : readAs .t 0b000010_000011_000100_0101_0000000110 = some (.bwait 3 4 5 6) := by decide
theorem test_decode_tend : readAs .t 0b000111_00000000000000000000000000 = some .tend := by decide

/-! Hypotheses that are met: the scalar and control instructions. -/

theorem witness_ScalarRegisterForms : ∃ a b u t, (two 7 3).clean.read2 1 1 62 = .ok (a, b, u) ∧ u.writeS 1 62 (a + b) = .ok t :=
  ⟨7, 5, _, _, rfl, rfl⟩
theorem witness_ScalarDivision :
    (∃ u, (two 9 0).clean.read2 1 1 2 = .ok (9, 0, u)) ∧
    (∃ u, (two (BitVec.intMin 64) (-1)).clean.read2 1 1 2 = .ok (BitVec.intMin 64, -1, u)) ∧
    (∃ u, (two (-9) 2).clean.read2 1 1 2 = .ok (-9, 2, u)) ∧ ∀ (u : State) v, ∃ t, u.writeS 1 3 v = .ok t :=
  ⟨⟨_, rfl⟩, ⟨_, rfl⟩, ⟨_, rfl⟩, fun _ _ => ⟨_, rfl⟩⟩
theorem witness_ScalarCountsSelectAndFunnel :
    (∃ u t, (two 0 3).clean.readS 1 1 = .ok (0, u) ∧ u.writeS 1 3 64 = .ok t) ∧
    (∃ d a b u t, (two 7 3).clean.read3 1 1 2 62 = .ok (d, a, b, u) ∧ u.writeS 1 1 a = .ok t) ∧
    ∃ a b u t, (two 7 3).clean.read2 1 62 62 = .ok (a, b, u) ∧ u.writeS 1 62 a = .ok t :=
  ⟨⟨_, _, rfl, rfl⟩, ⟨7, 3, 5, _, _, rfl, rfl⟩, ⟨5, 6, _, _, rfl, rfl⟩⟩
theorem witness_ScalarImmediateForms : (∃ a u t, (two 7 3).clean.readS 1 62 = .ok (a, u) ∧ u.writeS 1 3 a = .ok t) ∧
    (∃ t, (two 7 3).clean.writeS 1 62 1 = .ok t) ∧ ∃ d u t, (two 7 3).clean.readS 1 1 = .ok (d, u) ∧ u.writeS 1 1 d = .ok t :=
  ⟨⟨5, _, _, rfl, rfl⟩, ⟨_, rfl⟩, ⟨7, _, _, rfl, rfl⟩⟩
theorem witness_ScalarBitFields : 64 < (63#6).toNat + (2#6).toNat ∧ (63#6).toNat + (1#6).toNat ≤ 64 ∧
    (0#6).toNat + 64 ≤ 64 ∧ ∃ d a u t, (two 7 3).clean.read2 1 1 62 = .ok (d, a, u) ∧ u.writeS 1 1 d = .ok t :=
  ⟨by decide, by decide, by decide, 7, 5, _, _, rfl, rfl⟩
theorem witness_ScalarRegisterPorts : State.reset.ctx.pend.ldq = [] ∧ (two 7 3).ctx.pend.ldq = .scalar 5 :: [.scalar 6] ∧
    (State.reset.modPend (fun p => { p with ldq := [.vector 0 0] })).ctx.pend.ldq = .vector 0 0 :: [] ∧
    64 ≤ (State.reset.modPend (fun p => { p with sdq := List.replicate 64 ⟨false, 0, none⟩ })).ctx.pend.sdq.length ∧
    (two 7 3).ctx.pend.sdq.length < 64 ∧ (two 7 3).ctx.pend.claims[0]? ≠ some true ∧ (two 7 3).latch = none :=
  ⟨rfl, rfl, rfl, by decide, by decide, by decide, rfl⟩
theorem witness_ControlRegisterReads : (∃ t, (two 7 3).clean.writeS 1 3 0 = .ok t) ∧ (∀ v : Word, ∃ t, (two 7 3).clean.l2eff.2.writeS 1 3 v = .ok t) ∧
    0x100 ≤ (0x100#12).toNat ∧ ∀ n ∈ [0x007, 0x00C, 0x00F, 0x012, 0x017, 0x01F, 0x034, 0x03F, 0x046, 0x04F, 0x052, 0x05F, 0x064, 0x06F, 0x071, 0x0FF],
      n < 0x100 ∧ ¬ (n ≤ 0x006 ∨ (0x008 ≤ n ∧ n ≤ 0x00B) ∨ n = 0x010 ∨ n = 0x011 ∨ (0x018 ≤ n ∧ n ≤ 0x01E) ∨
        (0x020 ≤ n ∧ n ≤ 0x033) ∨ (0x040 ≤ n ∧ n ≤ 0x045) ∨ n = 0x050 ∨ n = 0x051 ∨ (0x060 ≤ n ∧ n ≤ 0x063) ∨ n = 0x070) :=
  ⟨⟨_, rfl⟩, fun _ => ⟨_, rfl⟩, by decide, by decide⟩
theorem witness_ControlRegisterWrites_numbers : ∀ k ∈ [0x000, 0x002, 0x007, 0x008, 0x00B, 0x00F, 0x012, 0x01F, 0x030, 0x03F, 0x041, 0x0FF],
    k < 0x100 ∧ ¬ ((0x003 ≤ k ∧ k ≤ 0x006) ∨ k = 0x009 ∨ k = 0x00A ∨ k = 0x010 ∨ k = 0x011 ∨ (0x020 ≤ k ∧ k ≤ 0x02F) ∨ k = 0x040) := by
  decide
theorem witness_ControlRegisterWrites : ∃ v u, (two 0x080C 3).clean.readS 1 1 = .ok (v, u) ∧ fmtOk v.toNat = true ∧
    fmtOk 0x2000 = false ∧ mfpOk 0x108 = true ∧ mfpOk 1024 = false ∧ tshapeOk 0x7FFE0 = true ∧ tshapeOk (2 ^ 20) = false ∧
    u.core.arr.dirty = false :=
  ⟨0x080C, _, rfl, by decide, by decide, by decide, by decide, by decide, by decide, rfl⟩
theorem witness_ControlRegisterValues : tshapeOk 0x7FFE0 = true ∧ fmtOk 0x080C = true ∧ mfpOk 0x108 = true ∧
    (4 % 2 ^ 1 = 0 ∧ 5 % 2 ^ 1 ≠ 0 ∧ 2 * (5 % 2 ^ 1) = 2 ^ 1 ∧ 2 * (5 % 2 ^ 2) < 2 ^ 2 ∧ 2 ^ 2 < 2 * (7 % 2 ^ 2)) ∧
    0x3C00 < 2 ^ fmtFP16.width ∧ fmtFP16.decode 0x3C00 = .fin false 1024 (-10) ∧
    (0x3C00 < fmtFP16.maxCode ∧ FVal.lt (.fin false 2049 (-11)) (fmtFP16.decode 0x3C00) = false ∧
      FVal.lt (.fin false 2049 (-11)) (fmtFP16.decode 0x3C01) = true ∧ FVal.lt (fmtFP16.decode 0x3C00) (.fin false 2049 (-11)) = true ∧
      FVal.lt (fmtFP16.decode 0x3C00) (.fin false 1024 (-10)) = false) ∧
    FVal.lt (.fin false 1 16) (.fin false 1 ((fmtFP16.emax : Int) + 0 - fmtFP16.bias)) = false ∧
    FVal.lt (.fin false 1 9) (.fin false 1 ((fmtE4M3.emax : Int) + 1 - fmtE4M3.bias)) = false ∧
    ((⟨8, true⟩ : IntFmt).minV ≤ 127 ∧ (127 : Int) ≤ (⟨8, true⟩ : IntFmt).maxV ∧ ¬ (128 : Int) ≤ (⟨8, true⟩ : IntFmt).maxV ∧
      ¬ (⟨8, true⟩ : IntFmt).minV ≤ -129) ∧
    isNanScale 4 (64 * 3 + 63) = true ∧ isNanScale 6 (64 * 2 + 5) = true ∧ isNanScale 6 (64 * 1 + 5) = false ∧
    ∃ x ∈ [((some (.nan true) : Option FVal), 0)], ∃ sg, x.1 = some (.nan sg) :=
  ⟨by decide, by decide, by decide, by decide, by decide, by decide, by decide +kernel, by decide +kernel, by decide +kernel, by decide,
    by decide, by decide, by decide, _, List.mem_singleton_self _, true, rfl⟩
theorem witness_SetVectorLength : (0x1000#14).toNat / 2 ^ 11 % 8 ≤ 2 ∧ ¬ (0x1800#14).toNat / 2 ^ 11 % 8 ≤ 2 ∧
    (∃ n u, (two 7 3).clean.readS 1 1 = .ok (n, u) ∧ ∃ t, u.writeS 1 3 n = .ok t) ∧ (128#64).toNat = 4096 / (8 * 2 ^ 2) :=
  ⟨by decide, by decide, ⟨7, _, rfl, _, rfl⟩, by decide⟩

theorem witness_ControlTransfers : (∃ x u, (two 7 3).clean.readS 0 63 = .ok (x, u)) ∧ (∃ x u, (two 0 3).clean.readS 0 1 = .ok (x, u)) ∧
    (∀ cond : BitVec 4, cond = 0 ∨ cond = 5 → cond.toNat ≤ 5) :=
  ⟨⟨0, _, rfl⟩, ⟨0, _, rfl⟩, by decide⟩
/-- One and six levels of loops. -/
def looped (n : Nat) : State :=
  let s := two 7 3
  { s with ctx := { s.ctx with loops := ⟨List.replicate n ⟨0, 64, 2, 0⟩, []⟩ } }
theorem witness_LoopLevels : (∃ u n, (looped 5).clean.readS 0 1 = .ok (n, u) ∧ 0 < n.toInt ∧ u.ctx.loopsNow.levels.length < 6) ∧
    (∃ u n, (looped 6).clean.readS 0 1 = .ok (n, u) ∧ 6 ≤ u.ctx.loopsNow.levels.length) ∧
    (∃ u, (looped 0).clean.readS 0 3 = .ok (0, u)) ∧ (looped 1).ctx.loopsNow.levels.length < (2#3).toNat ∧
    (looped 2).ctx.loopsNow.levels[(2#3).toNat - 1]? = some ⟨0, 64, 2, 0⟩ ∧ ((0 + 1 : Word)).toInt < (2 : Word).toInt ∧
    (2 : Word).toInt ≤ (1 + 1 : Word).toInt ∧
    (∀ top rest, (looped 5).ctx.loopsNow.levels = top :: rest → ((looped 5).ctx.npc + 2 * 4 : Word).toNat ≤ top.stop.toNat) ∧
    ¬ ∀ top rest, (looped 5).ctx.loopsNow.levels = top :: rest → ((looped 5).ctx.npc + 2 * 40 : Word).toNat ≤ top.stop.toNat := by
  refine ⟨⟨_, 7, rfl, by decide, by decide⟩, ⟨_, 7, rfl, by decide⟩, ⟨_, rfl⟩, by decide, rfl, by decide, by decide, ?_, ?_⟩
  · intro top rest h; cases h; decide
  · intro h; exact absurd (h _ _ rfl) (by decide)
/-- A watch in this state. -/
def watching (st : WatchState) : State :=
  let s := two 7 3
  { s with ctx := { s.ctx with watch := { Watch.none with st := st } } }
/-- A pre-emption request stands. -/
def requested (s : State) : State := s.setPart 0 { Part.reset with preState := 1 }
/-- Contexts 0 and 2 are ready. -/
def companion : State := { two 7 3 with ctxs := [(2, { Ctx.reset with status := .ready })] }
theorem witness_FormatAndWaits : fmtOk (0x080C#26).toNat = true ∧ fmtOk (7#26).toNat = false ∧
    (∃ x u, (two 0 3).clean.readS 0 1 = .ok (x, u) ∧ x.toNat ≤ (two 0 3).cyc) ∧
    (∃ x u, (two 7 3).clean.readS 0 1 = .ok (x, u) ∧ (two 7 3).cyc < x.toNat) ∧
    (∀ st, ∃ x u, (watching st).clean.readS 0 1 = .ok (x, u) ∧ u.ctx.status = .ready ∧ u.ctx.watch.st = st ∧
      (u.getPart u.ctx.part).preState ≠ 1 ∧ ∃ t, u.writeS 0 3 0 = .ok t) ∧
    (∃ x u, (requested (watching .set)).clean.readS 0 1 = .ok (x, u) ∧ u.ctx.watch.st = .set ∧ (u.getPart u.ctx.part).preState = 1 ∧
      ¬ ∃ n e y, u.ctx.status = .cleared n e (some y)) ∧
    (∃ x u, ({ watching .set with ctx := { (watching .set).ctx with status := .cleared 0 true (some 2) } } : State).clean.readS 0 1 = .ok (x, u) ∧
      u.ctx.status = .cleared 0 true (some 2)) ∧ (3#6) ≠ 62 ∧
    (companion.core.selected < 4 ∧ companion.ctxId < 4 ∧
      ∃ k, k < 4 ∧ k ≠ companion.core.selected ∧ (companion.getCtx (4 * companion.coreId + k)).isReady = true) ∧
    ((two 7 3).ctx.part < 2 ^ 8 ∧ (two 7 3).coreId < 2 ^ 6 ∧ (two 7 3).ctxId < 2 ^ 2) :=
  ⟨by decide, by decide, ⟨0, _, rfl, by decide⟩, ⟨7, _, rfl, by decide⟩,
    fun st => ⟨7, _, rfl, rfl, rfl, show (0 : Nat) ≠ 1 by decide, _, rfl⟩,
    ⟨7, _, rfl, rfl, by decide +kernel, fun ⟨_, _, _, h⟩ => by cases h⟩, ⟨7, _, rfl, rfl⟩, by decide, ⟨by decide, by decide, 2, by decide, by decide, by decide +kernel⟩,
    by decide⟩

/-! Hypotheses that are met: exceptions. -/

/-- A result there is. -/
def okay {α : Type} : Except Stop α → Bool
  | .ok _ => true
  | .error _ => false

theorem of_okay {α : Type} {x : Except Stop α} (h : okay x = true) : ∃ u, x = .ok u := by
  cases x with
  | ok u => exact ⟨u, rfl⟩
  | error e => cases h

/-- A running task whose pages carry MS, with a handler. -/
def tasked : State :=
  let s := State.reset.placed []
  { s with
    mem := asetN zeroByte s.mem 0x3000 (toBytes 0x3F 8),
    ctx := { s.ctx with cr := { s.ctx.cr with trapvec := 0x20000 } } }

theorem tasked_quiet : tasked.quiet := ⟨rfl, rfl, rfl, rfl, rfl, rfl, rfl⟩

theorem witness_TrapEntersHandler : tasked.quiet ∧ tasked.ctx.mode = .user ∧ tasked.ctx.cr.trapvec ≠ 0 ∧
    ∃ u, ({ tasked with ctx := { tasked.ctx with pend := { tasked.ctx.pend with replay := [] } } }).writeFrame
      ⟨0x13, tasked.ctx.pc, [7]⟩ = .ok u :=
  ⟨tasked_quiet, rfl, by decide, of_okay (by decide +kernel)⟩
theorem witness_TrapFrameLayout : (31 : Nat) < 2 ^ 32 ∧ (27 : Nat) < 28 := by decide
theorem witness_TrapFreezesResults : State.reset.ctx.pend.flight.length + State.reset.ctx.pend.reinject.length + 1 ≤ 32 ∧ (⟨1, 1, 0, .fmt 0⟩ : Shadow) ∈ ((State.reset.modPend (fun p => { p with
    shadows := [⟨1, 1, 0, .fmt 0⟩] })).ctx.pend.shadows) := by decide
/-- Without a handler. -/
def unhandled : State := tasked.modCtrl (fun c => { c with trapvec := 0 })
theorem witness_TrapsThatEndTheTask : unhandled.quiet ∧ unhandled.ctx.mode = .user ∧ unhandled.ctx.cr.trapvec = 0 ∧
    ((unhandled.getPart unhandled.ctx.part).task? unhandled.ctx.cr.taskid.toNat).any (fun t => t.parent = none && t.tag = some 0) ∧
    ({ tasked with ctx := { tasked.ctx with mode := .handler } } : State).quiet :=
  ⟨⟨rfl, rfl, rfl, rfl, rfl, rfl, rfl⟩, rfl, rfl, by decide, ⟨rfl, rfl, rfl, rfl, rfl, rfl, rfl⟩⟩
/-- In a handler that was entered with this cause; its frame, at address 0, is all zero. -/
def handling (f : TrapReq) : State := { tasked with ctx := { tasked.ctx with mode := .handler, frame := some f } }
theorem witness_TrapReturnResumesUser : tasked.ctx.mode = .user ∧ (handling ⟨0, 0, []⟩).quiet ∧
    (handling ⟨0, 0, []⟩).ctx.mode = .handler ∧ (handling ⟨0, 0, []⟩).ctx.pend.replay = [] ∧
    (match (handling ⟨0, 0, []⟩).clean.loadBytes 0 256 .load 1 257 with
      | .ok (h, u) => decide (h = frameHead ⟨0, 0, []⟩ 0 0) && okay (u.readEmpty 0 0 32) &&
          decide (h ≠ frameHead ⟨0x13, 0, []⟩ 0 0)
      | .error _ => false) = true :=
  ⟨rfl, ⟨rfl, rfl, rfl, rfl, rfl, rfl, rfl⟩, rfl, rfl, by decide +kernel⟩

/-! Hypotheses that are met: loads, stores and streams. -/

/-- The queue is full of loads. -/
def fullLq : State := (two 7 3).modPend (fun p => { p with lq := List.replicate 64 ⟨0, .queue, []⟩ })
/-- SDQ begins with this entry. -/
def withSdq (e : SdqEntry) : State := (two 7 3).modPend (fun p => { p with sdq := [e] })

theorem witness_QueueLoadsAndStores : ((two 7 3).readA 2).toNat % 2 ^ (1#3).toNat ≠ 0 ∧ ((two 7 3).readA 1).toNat % 2 ^ (4#3).toNat = 0 ∧
    (fullLq.ctx.pend.lq.filter LoadOp.queued).length = 64 ∧ ((two 7 3).ctx.pend.lq.filter LoadOp.queued).length < 64 ∧
    (¬ ∀ e ∈ ((withSdq ⟨true, 0, none⟩).ctx.pend.sdq.drop 0).take 1, e.isVector = false) ∧
    (∀ e ∈ ((withSdq ⟨false, 0, none⟩).ctx.pend.sdq.drop 0).take 1, e.isVector = false) ∧
    (∃ l u, (two 7 3).clean.resolve ((two 7 3).readA 1) 8 .load 1 = .ok (l, u)) ∧
    (∃ l u, (two 7 3).clean.resolve ((two 7 3).readA 1) 8 .store 2 = .ok (l, u)) ∧
    (∃ e, (two 7 3).clean.resolve ((two 7 3).readA 1 + 0xC0000) 8 .load 1 = .error e) ∧
    ∃ e, (two 7 3).clean.resolve ((two 7 3).readA 1 + 0xC0000) 8 .store 2 = .error e :=
  ⟨by decide, by decide, by decide, by decide, by decide, by decide, ⟨_, _, rfl⟩, ⟨_, _, rfl⟩, ⟨_, rfl⟩, ⟨_, rfl⟩⟩
theorem witness_ScalarLoadsAndStores : ((two 7 3).readA 2).toNat % 2 ^ (1#3).toNat ≠ 0 ∧ ((two 7 3).readA 1).toNat % 2 ^ (3#3).toNat = 0 ∧
    (∃ l u t, (two 7 3).clean.resolve ((two 7 3).readA 1) 8 .load 1 = .ok (l, u) ∧
      u.pushSdq 2 ⟨false, u.ctx.pend.seq + 1, none⟩ = .ok t) ∧
    ∃ v u l t, (two 7 3).clean.readS 2 62 = .ok (v, u) ∧ u.resolve ((two 7 3).readA 1) 8 .store 2 = .ok (l, t) :=
  ⟨by decide, by decide, ⟨_, _, _, rfl, rfl⟩, ⟨5, _, _, _, rfl, rfl⟩⟩
/-- VL and VTYPE as given. -/
def vectors (vl vt : Word) : State :=
  let s := windowed
  { s with ctx := { s.ctx with r := { s.ctx.r with vl := vl, vtype := vt } } }
theorem witness_VectorLoadsAndStores :
    (∃ u, (vectors 2 0x1000).clean.readS 2 1 = .ok (7, u)) ∧ (7 : Word).toNat % 4 ≠ 0 ∧
    ((vectors 2 0x1000).readA 1 + 512 * (0 : BitVec 9).signExtend 64).toNat % (sewBits (vectors 2 0x1000).rd.vtype / 8) = 0 ∧
    (vectors 0 0x1000).rd.vl.toNat = 0 ∧ (vectors 2 0x1000).rd.vl.toNat ≠ 0 ∧
    (∃ us t, (vectors 2 0x1000).clean.elements (fun e => some ((vectors 2 0x1000).readA 1 + BitVec.ofNat 64 e * 4)) 4 .load 1 true 0 2 =
      .ok (us, t)) ∧
    (∃ us t, (vectors 2 0x1000).clean.storeElements (fun e => some ((vectors 2 0x1000).readA 1 + BitVec.ofNat 64 e * 4)) 4 [] 0 2 =
      .ok (us, [], t)) ∧
    (∃ us t, (vectors 2 0x1000).clean.storeElements (fun _ => some 0x40) 4 [⟨true, 3, none⟩] 0 1 = .ok (us, [(0, 0x40)], t)) ∧ (512 / 4 : Nat) = 128 :=
  ⟨⟨_, rfl⟩, by decide, by decide, by decide, by decide, ⟨_, _, rfl⟩, ⟨_, _, rfl⟩, ⟨_, _, rfl⟩, by decide⟩

theorem witness_GatherAndScatter :
    (vectors 2 0x1000).clean.vgroup 8 (lmulRegs (vectors 2 0x1000).rd.vtype * 32 / 32) = .ok [0] ∧
    (∃ u, (vectors 2 0x1000).clean.readS 2 3 = .ok (0, u)) ∧ ((vectors 2 0x1000).readA 1).toNat % 4 = 0 ∧
    ¬ (BitVec.ofNat 32 (velem (([0] : List VReg).getD 0 0) 32 0)).toInt < (0 : Word).toNat ∧
    (BitVec.ofNat 32 (velem (([0] : List VReg).getD 0 0) 32 1)).toInt < (BitVec.ofNat 64 (2 ^ 31)).toNat ∧
    (vectors 2 0x1000).rd.vl.toNat = 2 ∧ (vectors 0 0x1000).rd.vl.toNat = 0 ∧
    (∃ us t, (vectors 2 0x1000).clean.elements (fun _ => some ((vectors 2 0x1000).readA 1)) 4 .load 1 true 0 2 = .ok (us, t)) ∧
    ∃ us t, (vectors 2 0x1000).clean.storeElements (fun _ => some ((vectors 2 0x1000).readA 1)) 4 [] 0 2 = .ok (us, [], t) :=
  ⟨rfl, ⟨_, rfl⟩, by decide, by decide +kernel, by decide +kernel, by decide, by decide, ⟨_, _, rfl⟩, ⟨_, _, rfl⟩⟩
theorem witness_Atomics : ((two 7 3).readA 2).toNat % 4 ≠ 0 ∧ ((two 7 3).readA 1).toNat % 32 = 0 ∧
    (∃ c v l u t, (two 7 3).clean.readS 2 1 = .ok (7, c) ∧ c.readS 2 62 = .ok (5, v) ∧
      v.resolve ((two 7 3).readA 1) 8 .amo 2 = .ok (l, u) ∧ u.pushSdq 2 ⟨false, u.ctx.pend.seq + 1, none⟩ = .ok t) ∧
    (∃ l u, (two 7 3).clean.resolve ((two 7 3).readA 1) 32 .amo 2 = .ok (l, u)) ∧ (2 ^ 64 - 1 : Nat) < 2 ^ 64 ∧ (2 ^ 32 - 1 : Nat) < 2 ^ 32 :=
  ⟨by decide, by decide, ⟨_, _, _, _, _, rfl, rfl, rfl, rfl⟩, ⟨_, _, rfl⟩, by decide, by decide⟩
theorem witness_Atomics_performed : (∀ bs : List Byte, ([0, 1, 2, 3].map (fun x : Byte => x + bs.headD 0)).length = 4) ∧ (0 < 4 ∧ 4 ≤ 4) ∧
    (two 7 3).ctx.views = [] ∧ (two 7 3).core.modeAt 0 = .scratch ∧ (0x40 % 128 + 8 ≤ 128) ∧
    (∀ d, (State.reset.getDie d).inbox = [] ∧ (State.reset.getDie d).own = []) ∧ afind State.reset.core.l1 (0x40 / 128) = none ∧
    (⟨1, .amo 0 5 0 3 4 3 1, [(some (.sram 0 0), 4)]⟩ : LoadOp).units = [(some (.sram 0 0), 4)] ∧
    (⟨1, .chunk 3 0 1, [(some (.sram 0 64), 32)]⟩ : LoadOp).units = [(some (.sram 0 64), 32)] :=
  ⟨fun _ => rfl, by decide, rfl, by decide, by decide, fun _ => ⟨rfl, rfl⟩, rfl, rfl, rfl⟩
/-- The first word of local SRAM is full. -/
def filled (e : List SdqEntry) : State :=
  let s := (two 7 3).modPend (fun p => { p with sdq := e })
  { s with core := { s.core with fe := [(0, true)] } }
/-- The first word lies in a FIFO bank whose ring has it in a FREE slot. -/
def unfilled : State :=
  let s := filled []
  { s with core := { s.core with
    bankMode := [(0, .fifo)], bankRing := [(0, 0)], rings := [(0, ⟨0, 1, 512, [.free], 0, 0, true, 0, .reset, 512, 1, none⟩)] } }
theorem witness_FullEmptyWords : ((two 7 3).readA 1).toNat % 4 = 0 ∧ lwin ≤ ((two 7 3).readA 1).toNat ∧
    (two 7 3).ctx.pend.lq = [] ∧ (two 7 3).ctx.pend.stq = [] ∧ (two 7 3).ctx.pend.ldq.length < 64 ∧
    (two 7 3).core.arr.queue = [] ∧ (two 7 3).core.arr.repeat_ = none ∧ (filled []).clean.slotsReady (.sram 0 0) 4 = true ∧
    unfilled.clean.slotsReady (.sram 0 0) 4 = false ∧ (filled []).clean.poisoned (.sram 0 0) 4 = false ∧ (filled []).clean.feFull (0, 0) = true ∧ (two 7 3).clean.feFull (0, 0) = false ∧
    (∃ u, (filled []).clean.resolve ((two 7 3).readA 1) 4 .fullEmpty 1 = .ok (.sram 0 0, u)) ∧
    (∃ u, (two 7 3).clean.resolve ((two 7 3).readA 1) 4 .ldff 1 = .ok (.sram 0 0, u)) ∧
    (filled [⟨false, 0, some (.scalar 9)⟩]).ctx.pend.sdq = ⟨false, 0, some (.scalar 9)⟩ :: [] ∧
    (∃ u, (two 7 3).clean.readS 2 0 = .ok (0, u)) ∧ (∃ u, (two 7 3).clean.readS 2 2 = .ok (3, u)) ∧
    (let s := (two 7 3).modPend (fun p => { p with sdq := [⟨false, 0, some (.scalar 9)⟩] });
      s.ctx.pend.lq = [] ∧ s.ctx.pend.stq = [] ∧ s.clean.feFull (0, 0) = false ∧ s.clean.slotsReady (.sram 0 0) 4 = true ∧
        ∃ u, s.clean.resolve (s.readA 1) 4 .fullEmpty 1 = .ok (.sram 0 0, u)) ∧
    ∃ us t, (two 7 3).clean.elements (fun e => some ((two 7 3).readA 1 + BitVec.ofNat 64 (4 * e))) 4 .fullEmpty 2 false 0 3 =
      .ok (us, t) :=
  ⟨by decide, by decide, rfl, rfl, by decide, rfl, rfl, by decide +kernel, by decide +kernel, by decide, by decide, by decide, ⟨_, rfl⟩, ⟨_, rfl⟩,
    rfl, ⟨_, rfl⟩, ⟨_, rfl⟩, ⟨rfl, rfl, by decide, by decide +kernel, _, rfl⟩, ⟨_, _, rfl⟩⟩
theorem witness_WatchPrefetchFence : ((two 7 3).readA 2).toNat % 2 ^ (1#3).toNat ≠ 0 ∧ ((two 7 3).readA 1).toNat % 2 ^ (4#3).toNat = 0 ∧
    (∃ u, (two 7 3).clean.resolve ((two 7 3).readA 1) 16 .load 1 = .ok (.sram 0 0, u)) ∧
    (∃ e, (two 7 3).clean.resolve ((two 7 3).readA 1 + 0xC0000) 16 .load 1 = .error e) ∧
    (match (State.reset.placed []).clean.resolve 0x40 8 .load 1 with
      | .ok (.phys _ false _, u) => decide (u.core.ways = [])
      | _ => false) = true ∧
    (match tasked.clean.resolve 0x40 8 .load 1 with
      | .ok (.phys _ true _, _) => true
      | _ => false) = true ∧
    (match ({ State.reset.placed [] with core := { (State.reset.placed []).core with bankMode := [(0, .cache)] } } : State).clean.resolve 0x40 8 .load 1 with
      | .ok (.phys _ false _, u) => decide (u.core.ways ≠ [])
      | _ => false) = true ∧
    (two 7 3).ctx.pend.lq = [] ∧ (two 7 3).ctx.pend.stq = [] ∧ (∀ k : BitVec 2, k = 0 ∨ k = 1 ∨ k = 2 ∨ k = 3) :=
  ⟨by decide, by decide, ⟨_, rfl⟩, ⟨_, rfl⟩, by decide +kernel, by decide +kernel, by decide +kernel, rfl, rfl, by decide⟩
/-- A dense stream of four elements at this element. -/
def dense (x : Nat) : Stream :=
  { Stream.reset with
    pos := x, fend := 4, coord := x, opened := true, held := true, copy := some [4, 0, 0, 0xFFFFF00000000000] }
/-- A dense descriptor of extent 4 at the first byte of local SRAM; q0 to q3 stand at elements 0, 0, 2 and at the end. -/
def streaming : State :=
  let s := two 7 2
  let ended := { dense 4 with ended := true, held := false }
  { s with
    core := { s.core with sram := [(4, 4)] },
    ctx := { s.ctx with streams := [(0, dense 0), (1, dense 0), (2, dense 2), (3, ended), (4, ended)] } }
theorem witness_StreamsOpenAndClose : (∃ u, streaming.clean.readS 2 2 = .ok (2, u) ∧ (u.ctx.pend.lq.filter LoadOp.queued).length < 64) ∧
    okay (streaming.clean.settle.openStream 5 (streaming.readA 1) 2) = true ∧
    (aget Stream.reset streaming.ctx.streams 7).opened = false ∧ (aget Stream.reset streaming.ctx.streams 3).ended = true ∧
    (aget Stream.reset streaming.ctx.streams 2).opened = true ∧ (aget Stream.reset streaming.ctx.streams 2).ended = false ∧
    okay (streaming.clean.settle.openStream 5 (streaming.readA 1) (aget Stream.reset streaming.ctx.streams 2).pos) = true ∧
    okay (streaming.clean.renew 2) = true ∧
    (let s : State := { streaming with ctx := { streaming.ctx with streams := [(2, { dense 2 with copy := none, desc := 0xFFFFF00000000000 })] } };
      (aget Stream.reset s.ctx.streams 2).opened = true ∧ (aget Stream.reset s.ctx.streams 2).copy = none ∧
        (s.ctx.pend.lq.filter LoadOp.queued).length < 64 ∧ (match s.clean.renew 2 with
          | .ok v => okay (v.settle.openStream 5 (v.readA 1) 2) && okay (v.writeS 2 3 2)
          | .error _ => false) = true) ∧
    ∃ t, streaming.clean.writeS 2 3 0 = .ok t :=
  ⟨⟨_, rfl, by decide⟩, by decide +kernel, by decide, by decide, by decide, by decide, by decide +kernel, rfl,
    ⟨by decide, by decide, by decide, by decide +kernel⟩, ⟨_, rfl⟩⟩
theorem witness_StreamsWalk : (streaming.ctx.pend.lq.filter LoadOp.queued).length < 64 ∧
    (match streaming.clean.settle.takeUp 0 with
      | .ok (w, u) => w.st.held && !w.release.st.ended && okay (u.entryOf w.release true) && okay (u.move w) &&
          (match u.search w 2 with
            | .ok (m, t) => !m.st.ended && okay (t.entryOf m.release false)
            | .error _ => false) &&
          (match u.search w 4 with
            | .ok (m, _) => m.st.ended
            | .error _ => false) && !w.st.ended && w.st.kind = 0 && decide (w.st.pos + 1 < w.st.fend)
      | .error _ => false) = true ∧
    (match streaming.clean.settle.takeUp 3 with
      | .ok (w, u) => !w.st.held && (match u.move w with
          | .ok (m, _) => m.st.ended
          | .error _ => false)
      | .error _ => false) = true ∧
    (match streaming.clean.candidates 0 1 with
      | .ok (a, b, u) => (match u.meet a b (2 * a.lv.ext + 2) with
          | .ok (m, n, t) => !m.st.ended && !n.st.ended && (match t.entryOf m true with
              | .ok (_, v) => okay (v.entryOf n true)
              | .error _ => false)
          | .error _ => false)
      | .error _ => false) = true ∧
    (match streaming.clean.candidates 0 2 with
      | .ok (a, b, u) => !a.st.ended && !b.st.ended && decide (a.st.coord < b.st.coord) && okay (u.entryOf a false)
      | .error _ => false) = true ∧
    (match streaming.clean.candidates 2 0 with
      | .ok (a, b, u) => !a.st.ended && !b.st.ended && decide (b.st.coord < a.st.coord) && okay (u.entryOf b true)
      | .error _ => false) = true ∧
    (match streaming.clean.candidates 0 1 with
      | .ok (a, b, u) => !a.st.ended && !b.st.ended && decide (a.st.coord = b.st.coord) && (match u.entryOf a true with
          | .ok (_, v) => okay (v.entryOf b true)
          | .error _ => false)
      | .error _ => false) = true ∧
    (match streaming.clean.candidates 0 3 with
      | .ok (a, b, u) => !a.st.ended && b.st.ended && okay (u.entryOf a true) && (match u.meet a b (2 * a.lv.ext + 2) with
          | .ok (_, n, _) => n.st.ended
          | .error _ => false)
      | .error _ => false) = true ∧
    (match streaming.clean.candidates 3 4 with
      | .ok (a, b, _) => a.st.ended && b.st.ended
      | .error _ => false) = true ∧
    (dense 3).fend ≤ (dense 3).pos + 1 :=
  ⟨by decide, by decide +kernel, by decide +kernel, by decide +kernel, by decide +kernel, by decide +kernel, by decide +kernel,
    by decide +kernel, by decide +kernel, by decide⟩

/-! Hypotheses that are met: the V, X and M slots. -/

/-- Entry 0 is good and passes v0 on; entry 1 names a block type that no conversion gives; entry 2 is bad. -/
def coded : State :=
  let s := windowed
  { s with ctx := { s.ctx with hcw := [(1, 0x11 <<< 176)], hcwGood := [(0, true), (1, true)] } }
/-- The window holds 32 registers; entry 3 writes v40 and entry 4 takes its mask from v0. -/
def narrowed : State :=
  let s := coded.modCtrl (fun c => { c with vwin := 1 })
  { s with ctx := { s.ctx with hcw := [(3, 40 <<< 187), (4, 1 <<< 183)], hcwGood := [(3, true), (4, true)] } }
theorem witness_ControlWordIssue : aget false coded.ctx.hcwGood 2 = false ∧ aget false coded.ctx.hcwGood 0 = true ∧
    (hcwOf 0).structOk coded.rd.vtype ((hcwOf 0).src.map (fun c => c + 8)) 8 = true ∧
    (hcwOf (0x11 <<< 176)).structOk coded.rd.vtype (hcwOf (0x11 <<< 176)).src 0 = false ∧
    (hcwOf 0).reads = [true, false, false, false] ∧ 8 < vwinSize coded.ctx.cr.vwin ∧ (hcwOf 0).men = false ∧
    (match coded.clean.vfields (hcwOf 0) coded.rd.vtype coded.rd.vl.toNat ((List.range 4).zip ((hcwOf 0).src.map (fun c => c + 8))) with
      | .ok (_, u) => okay (u.reserveSdq 3 true ((hcwOf 0).pushes coded.rd.vtype 0))
      | .error _ => false) = true ∧
    ([0, 376].find? (fun c => decide (c < 384 ∧ 384 ≤ c + 8 * (1#4).toNat)) = some 376) ∧
    ([0, 375].find? (fun c => decide (c < 384 ∧ 384 ≤ c + 8 * (1#4).toNat)) = none) ∧
    (hcwOf (40 <<< 187)).structOk narrowed.rd.vtype (hcwOf (40 <<< 187)).src 40 = true ∧ (hcwOf (40 <<< 187)).dst = 40 ∧
    ([0, 40].find? (fun c => decide (vwinSize narrowed.ctx.cr.vwin ≤ c)) = some 40) ∧
    ([0, 31].find? (fun c => decide (vwinSize narrowed.ctx.cr.vwin ≤ c)) = none) ∧
    okay (narrowed.clean.vgroup (hcwOf (1 <<< 183)).mreg 1) = true ∧ (hcwOf (1 <<< 183)).men = true :=
  ⟨by decide, by decide, by decide +kernel, by decide +kernel, by decide +kernel, by decide +kernel, by decide +kernel,
    by decide +kernel, by decide, by decide, by decide +kernel, by decide +kernel, by decide +kernel, by decide +kernel,
    by decide +kernel, by decide +kernel⟩
/-- An entry of one stage at this type, with all operands captured. -/
def staged (opa et : Nat) : VFlight :=
  ⟨0, BitVec.ofNat 256 (opa * 2 ^ 248 + et * 2 ^ 176 + 255 * 2 ^ 164), 0, [(0, .group [0]), (1, .group [0]), (2, .group [0])], 0, 4, 0x1000,
    0x080C, [], 0, 0⟩
theorem staged_operands (opa et k : Nat) (h : k < 3) : ∃ rs, afind (staged opa et).ops k = some (.group rs) ∧ rs.length = 1 := by
  match k, h with
  | 0, _ => exact ⟨_, rfl, rfl⟩
  | 1, _ => exact ⟨_, rfl, rfl⟩
  | 2, _ => exact ⟨_, rfl, rfl⟩
theorem witness_ControlWordIssue_stages : (staged 1 4).oneStage (.int ⟨32, true⟩) ∧ (staged 0x20 0x0C).oneStage (.float fmtFP32) ∧
    (staged 0x10 4).oneStage (.int ⟨32, true⟩) ∧ (hcwOf (staged 1 4).entry).opa = 1 ∧ (hcwOf (staged 0x20 0x0C).entry).opa = 0x20 ∧
    (hcwOf (staged 0x20 0x0C).entry).rnd ≠ 5 ∧ (hcwOf (staged 0x10 4).entry).opa = 0x10 ∧
    (staged 0x10 4).vl ≤ emul (staged 0x10 4).vtype 32 * (4096 / 32) ∧ (staged 1 4).isWritten 32 3 = true ∧
    fmtFP32.decode 0x3F800000 = .fin false (2 ^ 23) (-23) :=
  ⟨⟨by decide +kernel, by decide +kernel, by decide +kernel, by decide +kernel, by decide +kernel, fun k h => staged_operands 1 4 k
      (Nat.lt_trans h (by decide +kernel))⟩,
    ⟨by decide +kernel, by decide +kernel, by decide +kernel, by decide +kernel, by decide +kernel, fun k h => staged_operands 0x20 0x0C k
      (Nat.lt_trans h (by decide +kernel))⟩,
    ⟨by decide +kernel, by decide +kernel, by decide +kernel, by decide +kernel, by decide +kernel, fun k h => staged_operands 0x10 4 k
      (Nat.lt_trans h (by decide +kernel))⟩,
    by decide +kernel, by decide +kernel, by decide +kernel, by decide +kernel, by decide +kernel, by decide +kernel, by decide +kernel⟩
/-- An entry whose three stages compute at FP32: FADD, then IAND, then the immediate of FMUL. -/
def cascaded : VFlight :=
  let f := staged 0x20 0x0C
  { f with entry := f.entry ||| BitVec.ofNat 256 (0x0A * 2 ^ 240 + 0x22 * 2 ^ 232 + 2 ^ 146), ops := f.ops ++ [(3, .value 5)] }
theorem fp32_class (f : VFlight) (h : (hcwOf f.entry).et = 12) (op : Nat) : f.classOf op = .float fmtFP32 := by
  unfold VFlight.classOf VFlight.typeOf resolveType
  rw [if_neg (by omega), h]
  rfl
theorem witness_ControlWordIssue_cascade : cascaded.shaped 32 ∧ cascaded.hasElements 0x20 ∧ cascaded.hasElements 0x0A ∧
    cascaded.hasElements 0x22 ∧ (hcwOf cascaded.entry).ops = [0x20, 0x0A, 0x22] ∧ (hcwOf cascaded.entry).csel = true ∧
    (hcwOf (staged 0x20 0x0C).entry).csel = false ∧ (∀ k, k < 3 → afind (staged 0x20 0x0C).ops k ≠ none) :=
  have h : (hcwOf cascaded.entry).et = 12 := by decide +kernel
  have c := fp32_class cascaded h
  have r : (hcwOf cascaded.entry).rnd ≠ 5 := by decide +kernel
  ⟨⟨fun op => ⟨by rw [c op]; rfl, fun _ => by rw [c op]; exact TypeClass.noConfusion⟩, by decide +kernel, by decide +kernel, fun k rs h => by
      match k, h with
      | 0, h => cases h; decide +kernel
      | 1, h => cases h; decide +kernel
      | 2, h => cases h; decide +kernel
      | 3, h => cases h
      | k + 4, h => simp [cascaded, staged, afind] at h⟩,
    .inr (.inr ⟨by decide, r, _, c _⟩), .inr (.inl (by decide)), .inr (.inr ⟨by decide, r, _, c _⟩), by decide +kernel, by decide +kernel,
    by decide +kernel, by decide⟩
theorem witness_ControlWordIssue_conversions :
    (let h := hcwOf (staged 0x40 0x08).entry; h.opa = 0x40 ∧ h.dst < 384 ∧ h.rnd ≠ 5) ∧
    typeClass (resolveType 0x1000 0x40 0x08) = some (.float fmtE4M3) ∧ typeClass 0 = some (.int ⟨8, true⟩) ∧ emul 0x1000 8 ≠ 0 ∧
    (hcwOf ((staged 0x42 0x08).entry ||| BitVec.ofNat 256 (0x10 * 2 ^ 148))).imm % 32 = 0x10 ∧
    (hcwOf ((staged 0x42 0x08).entry ||| BitVec.ofNat 256 (0x11 * 2 ^ 148))).imm % 32 = 0x11 ∧ emul 0x1000 4 ≠ 0 ∧
    (hcwOf (staged 0x41 0x10).entry).et = 0x10 ∧ (hcwOf (staged 0x41 0x11).entry).et = 0x11 ∧ emul 0x1000 32 ≠ 0 ∧
    fmtOk (staged 0x41 0x10).fmt.toNat = true ∧ afind (staged 0x41 0x10).ops 0 = some (.group [0]) ∧ emul 0x1000 32 = 1 :=
  ⟨by decide +kernel, by decide, by decide, by decide +kernel, by decide +kernel, by decide +kernel, by decide +kernel, by decide +kernel,
    by decide +kernel, by decide +kernel, by decide, rfl, by decide +kernel⟩
theorem witness_ControlWordIssue_functions :
    fmtFP32.decode 0x7FC00000 = .nan false ∧ fmtFP32.decode 0xFF800000 = .inf true ∧ fmtFP32.decode 0x80000000 = .fin true 0 (-149) ∧
    fmtFP32.decode 0x3FC00000 = .fin false (3 * 2 ^ 22) (-23) ∧ fmtE4M3.decode 0xB8 = .fin true 8 (-3) ∧
    (-149 ≤ (2 : Int) ∧ (2 : Int) ≤ 127 ∧ 2 ^ 23 * 2 ^ (-22 : Int).toNat = (2 : Int).natAbs * 2 ^ (-(-22 : Int)).toNat) ∧
    magTop (exactFn 0x30 false 3 0).2.1 (exactFn 0x30 false 3 0).2.2 < 127 := by decide +kernel
/-- A tile of 4 rows of 4 columns, then one of one column. -/
def shaped : State := windowed.modCtrl (fun c => { c with tshape := [(1, 0x3060), (2, 0x3000), (3, 0x3068)] })
theorem witness_MovesIssue : windowed.vphys 383 = .ok 383 ∧ windowed.vphys 0 = .ok 0 ∧ windowed.ctx.mode = .user ∧
    vwinSize windowed.ctx.cr.vwin ≤ (384#9).toNat ∧ ¬ vwinSize windowed.ctx.cr.vwin ≤ (383#9).toNat ∧ windowed.tphys 3 = .ok 3 ∧
    (twinCount (windowed.modCtrl (fun c => { c with twin := 2 })).ctx.cr.twin ≤ (2#4).toNat ∧
      ¬ twinCount (windowed.modCtrl (fun c => { c with twin := 2 })).ctx.cr.twin ≤ (1#4).toNat) ∧
    okay (windowed.clean.pushSdq 5 ⟨false, windowed.ctx.pend.seq + 1, none⟩) = true ∧
    isIntType (vetFor 4 windowed.rd.vtype 0x10) = true ∧ isIntType (vetFor 0x0C windowed.rd.vtype 0x10) = false ∧
    ((shaped.shape 1).rows = 4 ∧ (shaped.shape 1).rows ≤ (4#7).toNat ∧ ¬ (shaped.shape 1).rows ≤ (3#7).toNat) ∧
    ((shaped.shape 1).cols ≤ (4#7).toNat ∧ (3#7).toNat < (shaped.shape 1).cols ∧ (shaped.shape 1).type ≠ 0x10) ∧
    (¬ ((shaped.shape 1).rows = (shaped.shape 2).rows ∧ (shaped.shape 1).cols = (shaped.shape 2).cols)) ∧
    ((shaped.shape 1).rows = (shaped.shape 3).rows ∧ (shaped.shape 1).cols = (shaped.shape 3).cols ∧ (shaped.shape 3).type ≠ 0x10) ∧
    ∃ u, windowed.clean.readS 5 62 = .ok (5, u) :=
  ⟨rfl, rfl, rfl, by decide, by decide, rfl, by decide, by decide, by decide, by decide, by decide, by decide, by decide, by decide, ⟨_, rfl⟩⟩
theorem witness_ShadowsWriteTheirTarget : (⟨1, 0, 0, .lanes 3 3 8 0⟩ : Shadow).write = .lanes 3 3 8 0 ∧ (8 : Nat) ≤ 8 ∧
    (⟨1, 0, 0, .fmt 0⟩ : Shadow).write = .fmt 0 := ⟨rfl, by decide, rfl⟩
/-- A move in flight between tiles of one shape, under FMT 0x080C. -/
def crossing (i : Instr) (src : List Byte) (shape : Word) : XFlight := ⟨i, src, [7], 0x080C, 0x1000, 0, shape, shape, [], 0, 2⟩
theorem witness_ShadowsWriteTheirTarget_moves : fmtOk (0x080C : Word).toNat = true ∧ fmtRm 0x080C ≠ 5 ∧ tshapeOk (0x3060 : Word).toNat = true ∧
    tshapeOk (0x3070 : Word).toNat = true ∧ (shapeOf 0x3070).type = 0x10 ∧ (shapeOf 0x3060).rows = 4 ∧
    typeClass ((crossing (.trrow 2 1 3) (rowImage [] 1 (shapeOf 0x3060) (3#7).toNat) 0x3060).vet (shapeOf 0x3060).type) = some (.float fmtFP32) ∧
    isIntType (vetFor 0x080C 0x1000 0x10) = false ∧ (crossing (.twrow 1 3 2) (bytesOf (0 : VReg)) 0x3070).src = bytesOf (0 : VReg) ∧
    (3#7).toNat < (shapeOf 0x3070).rows ∧ (crossing (.movsv 2 3 127) [] 0x3060).ops = [7] ∧
    (crossing (.movvs 3 2 127) (toBytes (0 / 2 ^ (32 * (127#7).toNat)) 4) 0).i = .movvs 3 2 127 :=
  ⟨by decide, by decide, by decide, by decide, by decide, by decide, by decide, by decide, rfl, by decide, rfl, rfl⟩
theorem witness_TileLoad : shaped.tphys 1 = .ok 1 ∧ (1 ≤ (1#3).toNat ∧ typeWidth (shaped.shape 1).type = 4 * 2 ^ (1#3).toNat) ∧
    ¬ typeWidth (shaped.shape 1).type = 4 * 2 ^ (2#3).toNat ∧ (shaped.shape 1).type ≠ 0x10 ∧ (3#7).toNat < (shaped.shape 1).rows ∧
    (shaped.shape 1).rows ≤ (4#7).toNat ∧ (shaped.readA 1).toNat % 1 = 0 ∧
    (typeWidth (({ shaped with ctx := { shaped.ctx with cr := { shaped.ctx.cr with tshape := [(1, 0x3062)] } } } : State).shape 1).type =
      4 * 2 ^ (2#3).toNat) ∧ (shaped.readA 2).toNat % Nat.max 1 (2 ^ (2#3).toNat / 2) ≠ 0 ∧
    okay (shaped.clean.elements (fun e => some (shaped.readA 1 + BitVec.ofNat 64 (e * 1))) 1 .load 1 false 0 4) = true :=
  ⟨rfl, by decide, by decide, by decide, by decide, by decide, by decide, by decide, by decide, by decide +kernel⟩
/-- The array changed. -/
def arrayed (f : ArrayUnit → ArrayUnit) : State := shaped.modArr f
theorem witness_MatrixControl :
    (two 7 3).core.arr.claim ≠ some (two 7 3).ctxId ∧ shaped.core.arr.claim = some shaped.ctxId ∧
    (arrayed (fun u => { u with repeat_ := some ⟨.mrstp, 1, 0, 0, 0, .user, 0⟩ })).core.arr.repeat_.isSome ∧ shaped.core.arr.repeat_ = none ∧
    (shaped.modPend (fun p => { p with mrep := some 2 })).ctx.mrepNow.isSome ∧ shaped.ctx.mrepNow = none ∧
    shaped.core.arr.queue = [] ∧ (arrayed (fun u => { u with dirty := true })).core.arr.dirty = true ∧
    pairIn (shaped.modCtrl (fun c => { c with mfp1 := 0 })).crd.mfp1 ≠ shaped.pair ∧
    (∀ st : GroupState, ∃ g : GroupSlot, g.st = st) ∧ shaped.core.arr.slot = none ∧
    (arrayed (fun u => { u with slot := some 2 })).core.arr.slot = some 2 ∧
    (2#4).toNat < ({ GroupSlot.reset with n := 3 } : GroupSlot).n ∧ ({ GroupSlot.reset with n := 3 } : GroupSlot).n ≤ (3#4).toNat ∧
    shaped.tphys 1 = .ok 1 ∧ arrayType (shaped.shape 1).type = true ∧
    arrayType (({ shaped with ctx := { shaped.ctx with cr := { shaped.ctx.cr with tshape := [(1, 0x3062)] } } } : State).shape 1).type =
      false :=
  ⟨by decide, rfl, rfl, rfl, rfl, rfl, rfl, rfl, by decide, fun st => ⟨{ GroupSlot.reset with st := st }, rfl⟩, rfl, rfl,
    by decide, by decide, rfl, by decide, by decide⟩
theorem witness_MatrixBeatsAndDrains : (two 7 3).core.arr.claim ≠ some (two 7 3).ctxId ∧ shaped.core.arr.claim = some shaped.ctxId ∧
    shaped.core.arr.repeat_ = none ∧ shaped.ctx.mrepNow = none ∧
    okay (shaped.clean.beat true false false false 3 0 0 0 0 0) = true ∧
    okay (shaped.clean.drain 0 0 true 1 0 true false) = true ∧ okay (shaped.clean.fold 0 0 true 1 true false) = true ∧
    4 ≤ (arrayed (fun u => { u with queue := List.replicate 4 (0, 0, .tile 0 []) })).core.arr.queue.length ∧
    (shaped.modPend (fun p => { p with mrep := some 2 })).ctx.mrepNow = some 2 ∧
    okay ((shaped.modPend (fun p => { p with mrep := some 2 })).mrun 0 (.mbeat 1 0 0 0 3 0 0 0 0 0)) = true :=
  ⟨by decide, rfl, rfl, rfl, by decide +kernel, by decide +kernel, by decide +kernel, by decide, rfl, by decide +kernel⟩

/-- Tiles of 4 rows of 4 columns: t0 of FP32, t1 of I8, t2 and t3 of F8.E4M3; the pair in use as given, and the array. -/
def beating (pair : Word) (f : ArrayUnit → ArrayUnit) : State :=
  (windowed.modCtrl (fun c => { c with mfp0 := pair, tshape := [(0, 0x306C), (1, 0x3060), (2, 0x3068), (3, 0x3068)] })).modArr f
theorem witness_MatrixBeatsAndDrains_beats :
    (let s := beating 0x108 id;
      s.core.arr.claim = some s.ctxId ∧ s.core.arr.repeat_ = none ∧ s.ctx.mrepNow = none ∧ s.tphys 2 = .ok 2 ∧ s.tphys 3 = .ok 3 ∧
        (s.shape 2).type = s.pair.a ∧ (s.shape 3).type = s.pair.b ∧ aget .empty s.core.arr.accState 1 = .empty ∧ s.core.arr.rs = false ∧
        (∀ k, aget none s.core.arr.wtypes k = none) ∧ s.core.arr.slot = none ∧ aget none s.core.arr.ftypes s.core.arr.pbank = none) ∧
    (beating 0x108 (fun u => { u with rs := true })).core.arr.rs = true ∧
    aget .empty (beating 0x108 (fun u => { u with accState := [(1, .flt 0)] })).core.arr.accState 1 = .flt ((beating 0x108 id).rd.lscale.truncate 8) ∧
    (let s := beating 0 id; s.pair.isInt = true ∧ s.tphys 1 = .ok 1 ∧ (s.shape 1).type = s.pair.a ∧ s.pair.a ≤ 1) ∧
    (1 < (beating 0x108 id).pair.a ∧ (List.replicate 128 ((FVal.fin false 1 0, false))).length = 128) ∧
    ∀ p ∈ [(true, 3, (-2 : Int)), (false, 5, 4)], (-2 : Int) ≤ p.2.2 :=
  ⟨⟨rfl, rfl, rfl, rfl, rfl, by decide, by decide, rfl, rfl, fun _ => rfl, rfl, rfl⟩, rfl, rfl, ⟨by decide, rfl, by decide, by decide⟩,
    ⟨by decide, by simp⟩, by decide⟩
theorem witness_MatrixBeatsAndDrains_drains :
    (let s := beating 0x108 id;
      s.core.arr.queue.length < 4 ∧ s.tphys 0 = .ok 0 ∧ (1#7).toNat < (s.shape 0).rows ∧ (s.shape 0).type = 0x0C ∧
        aget .empty s.core.arr.accState 1 ≠ .int ∧ typeClass (s.shape 2).type = some (.float fmtE4M3) ∧ (s.shape 2).cols ≤ 128 ∧
        fmtRm s.rd.fmt ≠ 5 ∧ s.rd.fmt.toNat % 32 = 0x0C ∧ okay (s.localUnits (s.readA 1 + BitVec.ofNat 64 (1 * 512)) 4 128) = true) ∧
    (let s := (beating 0x108 (fun u => { u with accState := [(1, .int), (2, .flt 3)] })).modCtrl (fun c => { c with tshape := [(0, 0x3064)] });
      aget .empty s.core.arr.accState 1 = .int ∧ (s.shape 0).type = 0x04 ∧ aget .empty s.core.arr.accState 2 = .flt 3) ∧
    (let h := shapeOf 0x306C; 3 < h.rows ∧ typeWidth h.type = 32 ∧ h.rows * h.cols * 4 ≤ 16384 ∧ [1, 2, 3, 4].length = h.cols ∧
      h.cols ≤ (List.replicate 128 0).length) := by
  refine ⟨⟨by decide, rfl, ?_⟩, ?_, ?_⟩ <;> decide +kernel
-- R183: an accumulated product of small integers, over the old element or not
theorem test_accumulate_int : accumulateInt true 5 [FVal.mul (.ofInt (-3)) (.ofInt 4)] = (2 ^ 32 - 7, 0) ∧
    accumulateInt false 5 [FVal.mul (.ofInt (-3)) (.ofInt 4)] = (2 ^ 32 - 12, 0) := by decide +kernel
-- R185: the rule's example, 6.0 rescaled by 2^-2
theorem test_rescale : rescaleElem (-2) 0x40C00000 = (0x3FC00000, 0) := by decide +kernel

/-! Hypotheses that are met: the E and T slots. -/

/-- s1 names the barrier at the first byte of local SRAM, which holds x; s2 as given. -/
def barred (x : Barrier) (y : Word) : State := (two 0xFFFFF00000000000 y).putBar (0, 0) x
/-- A barrier that expects one arrival. -/
def one : Barrier := ⟨0, false, false, false, 1, 1, 0, 0, 0⟩
/-- The same in phase p. -/
def phase (p : Nat) : Barrier := { one with ph := p }

theorem witness_NestSetsAndHints : ((two 7 3).setPart 0 { Part.reset with preState := 1 }).ctx.mode = .user ∧
    (((two 7 3).setPart 0 { Part.reset with preState := 1 }).getPart 0).preState = 1 ∧
    (((two 7 3).setPart 0 { Part.reset with preState := 1 }).getPart 0).hvState = 0 ∧ inHandler.ctx.mode = .handler := by
  refine ⟨rfl, ?_, ?_, rfl⟩ <;> simp [Part.reset]
theorem witness_EngineCommandsEnqueue : (two 7 3).ctx.pend.lq = [] ∧ (two 7 3).ctx.pend.stq = [] ∧ (two 7 3).core.outstanding 3 < 32 ∧
    (two 7 3).core.arr.claim ≠ some (two 7 3).ctxId ∧ windowed.core.arr.claim = some windowed.ctxId ∧
    aget [] ((two 7 3).getPart (two 7 3).myPart).routes 5 = [] ∧
    (∀ d : Cmd, 32 ≤ ({ (two 7 3).core with eq := [(3, List.replicate 32 d)] } : Core).outstanding 3) :=
  ⟨rfl, rfl, by decide, by decide, rfl, by decide, fun d => by simp [Core.outstanding, Core.queue, aget, afind]⟩
theorem witness_CommandOwesItsBarrier : (0#18) ≠ 0x3FFFF ∧ (barred one 0).core.outstanding 3 < 32 ∧ (barred one 0).ctx.pend.lq = [] ∧
    (barred one 0).ctx.pend.stq = [] ∧ (barred one 0).scratchAt (0, 0) = true ∧ (barred one 0).viewHits 0 0 16 = [] ∧
    (barred one 0).scratchAt (0, 0xC0000) = false ∧
    2 ^ 32 ≤ ((barred { one with ptx := 0xFFFFFFFF } 0).getBar (0, 0)).ptx + 1 ∧ ((barred one 0).getBar (0, 0)).ptx + 1 < 2 ^ 32 :=
  ⟨by decide, by decide, rfl, rfl, by decide, by decide, by decide, by decide +kernel, by decide +kernel⟩
theorem witness_BarrierOperations : (∃ u, (barred one 0).clean.readS 7 1 = .ok (0xFFFFF00000000000, u) ∧
      u.object 0xFFFFF00000000000 = .ok (0, 0) ∧ ∃ w, u.readS 7 2 = .ok (0, w)) ∧
    (barred one 0).ctx.pend.lq = [] ∧ (barred one 0).ctx.pend.stq = [] ∧ (barred one 0).getBar (0, 0) = one ∧
    one.ptx = 0 ∧ one.wait = 0 ∧ one.pend < (2#12).toNat ∧ (1#12).toNat ≤ one.pend ∧ one.pend - (1#12).toNat = 0 ∧
    (barred { one with pend := 3, ptx := 5 } 0).getBar (0, 0) = { one with pend := 3, ptx := 5 } ∧
    ((0 : Nat) : Int) + (-1 : Word).toInt < 0 ∧ (2 ^ 32 : Int) ≤ ((1 : Nat) : Int) + (0xFFFFFFFF : Word).toInt ∧
    ({ one with pend := 0 } : Barrier).pend = 0 ∧ (barred one 0).core.arr.queue = [] ∧ (barred one 0).core.arr.repeat_ = none :=
  ⟨⟨_, rfl, by rfl, _, rfl⟩, rfl, rfl, by decide +kernel, rfl, rfl, by decide, by decide, by decide, by decide +kernel, by decide,
    by decide, rfl, rfl, rfl⟩
/-- A deferred record on the barrier at the first byte of local SRAM. -/
def deferring : State :=
  let s := barred one 0
  { s with ctx := { s.ctx with deferred := [⟨cPAGE, 0, [0, 0, 0, 0, 0, 0], 0, 0, [0, 0, 0, 0], (0, 0)⟩] } }
theorem witness_BarrierWaits : (∃ u, (barred one 0).clean.readS 7 1 = .ok (0xFFFFF00000000000, u) ∧
      u.object 0xFFFFF00000000000 = .ok (0, 0) ∧ u.deferredOn (0, 0) = none ∧ u.mergeOn (0, 0) = none ∧ ∃ t, u.writeS 7 3 3 = .ok t) ∧
    (barred one 0).ctx.status = .ready ∧
    (∀ p : Fin 16, ∃ q : BitVec 4, ((phase p.1).ph + 16 - q.toNat) % 16 = 0) ∧
    ((phase 1).ph + 16 - (0#4).toNat) % 16 = 1 ∧ ((phase 8).ph + 16 - (0#4).toNat) % 16 = 8 ∧
    ((phase 0).ph + 16 - (7#4).toNat) % 16 = 9 ∧
    (deferring.deferredOn (0, 0)).any (fun d => d.indices.length = 6 && d.aregs.length = 4) = true ∧
    (barred one 0).getBar (0, 0) = one ∧ one.prm = false ∧ (barred one 0).core.arr.queue = [] ∧ (barred one 0).core.arr.repeat_ = none ∧
    (barred { one with pend := 0 } 0).getBar (0, 0) = { one with pend := 0 } ∧ one.ptx = 0 ∧ one.wait = 0 ∧ one.arr ≠ 0 ∧ (3#6) ≠ 62 ∧
    ¬ (one.pend = 0 ∧ one.ptx = 0) ∧
    ((barred { one with prm := true } 0).getBar (0, 0)).prm = true ∧ (0 % 2 ^ 32 + 2 ^ 32 - 0) % 2 ^ 32 < 2 ^ 31 ∧
    2 ^ 31 ≤ (0 % 2 ^ 32 + 2 ^ 32 - 1) % 2 ^ 32 :=
  ⟨⟨_, rfl, by rfl, rfl, rfl, _, rfl⟩, rfl, by decide, by decide, by decide, by decide, by decide, by decide +kernel, rfl, rfl, rfl, by decide +kernel, rfl, rfl, by decide, by decide,
    by decide, by decide +kernel, by decide, by decide⟩
/-- s1 names 64 bytes of local SRAM, whose fifth is 4; the partition has one berth. -/
def spawning (q : Part) : State := ({ two 0xFFFFF00000000000 3 with core := { Core.reset with sram := [(4, 4)] } } : State).setPart 0 q
theorem witness_SpawnAndViews :
    (∃ u, (spawning placePart).clean.readS 7 1 = .ok (0xFFFFF00000000000, u) ∧ (match (u.releaseL1 3).resolve 0xFFFFF00000000000 64 .load 1 with
      | .ok (l, w) => w.slotsReady l 64 && !w.poisoned l 64 && okay (((w.readUnit w.coreId l 64).2).storeBytes (0xFFFFF00000000000 + 0x38) (toBytes 0x4001 8) .store 2 9)
      | .error _ => false) = true) ∧
    (∃ u, (spawning placePart).clean.readS 7 2 = .ok (3, u)) ∧ (3 : Word).toNat % 64 ≠ 0 ∧ (3 : Word).toNat % 32 ≠ 0 ∧ (3 : Word) ≠ 0 ∧
    (∃ u, (spawning placePart).clean.readS 7 3 = .ok (0, u)) ∧
    ({ placePart with viewUse := [(0, 2 ^ 40)] } : Part).reserveViews 0 [(0, ⟨0, 4, 0, 0⟩)] = none ∧
    Part.reset.reserveViews 0 [] = some (Part.reset, []) ∧ Part.reset.freeEntry = none ∧
    placePart.freeEntry = some (1, 0x4001) ∧ afind placePart.tasks 1 = none ∧ (jobOf (List.replicate 64 0)).refused false = none ∧
    viewOk (List.replicate 32 0) [] = none ∧ viewOk (toBytes (4 * 2 ^ 32) 32) [] = some ⟨0, 4, 0, 0⟩ ∧
    (match (spawning placePart).clean.resolve 0xFFFFF00000000000 32 .load 1 with
      | .ok (l, w) => w.slotsReady l 32 && !w.poisoned l 32
      | .error _ => false) = true ∧ (spawning placePart).ctx.pend.lq = [] ∧ (spawning placePart).ctx.pend.stq = [] ∧
    (spawning placePart).core.arr.queue = [] ∧ (spawning placePart).core.arr.repeat_ = none :=
  ⟨⟨_, rfl, by decide +kernel⟩, ⟨_, rfl⟩, by decide, by decide, by decide, ⟨_, rfl⟩, by decide +kernel, rfl, by decide +kernel,
    by decide +kernel, by decide, by decide +kernel, by decide +kernel, by decide +kernel, by decide +kernel, rfl, rfl, rfl, rfl⟩
/-- A task with one open family of children. -/
def parent : State := tasked.setPart 0 { placePart with tasks := [(0, { placeTask with
  families := [⟨[1], false, 0, 0, 0, 0, [], [], [], [], [], [], [], 0, 0, 0⟩] })] }
/-- A record at byte 64 that waits for a signal; the object at byte 0 has none. -/
def signalled : State :=
  let s := two 0xFFFFF00000000000 0xFFFFF00000000040
  { s with core := { s.core with sram := [(0x50, 16)] } }
theorem witness_EndSuspendSignalNotify : tasked.ctx.pend.lq = [] ∧ tasked.ctx.pend.stq = [] ∧ tasked.ctx.pend.flight = [] ∧
    tasked.ctx.pend.reinject = [] ∧ tasked.core.arr.queue = [] ∧ tasked.core.arr.repeat_ = none ∧ tasked.families = [] ∧
    tasked.ctx.merges = [] ∧ parent.families ≠ [] ∧ (barred one 0xFFFFF00000000040).core.arr.claim ≠ some 0 ∧
    (∃ u v, (barred one 0xFFFFF00000000040).clean.readS 7 1 = .ok (0xFFFFF00000000000, u) ∧ u.readS 7 2 = .ok (0xFFFFF00000000040, v) ∧
      v.object 0xFFFFF00000000000 = .ok (0, 0) ∧ v.object 0xFFFFF00000000040 = .ok (0, 0x40)) ∧
    crewOffset (0, 0x40) ≠ 0 ∧ (0 + 16 ≤ 0x40) ∧ (barred one 0).ctx.deferred = [] ∧
    (barred one 0xFFFFF00000000040).bankNat (0, 0x48) 8 = 0 ∧ (barred one 0xFFFFF00000000040).bankNat (0, 0x50) 4 = one.ph ∧
    (barred one 0xFFFFF00000000040).bankNat (0, 0x40) 8 % 2 = 0 ∧ (0 : Nat).testBit 0 = false ∧ (0 : Nat).testBit 62 = false ∧
    0x40 / 0x8000 = (0x40 + 0x28 + 8 * (liveRegs 0).length - 1) / 0x8000 ∧ one.pend ≠ 0 ∧
    (barred one 0).bankNat (0, 0x40) 4 = 0 ∧ (barred one 0).bankNat (0, 0x4C) 4 ≠ 0xFFFFFFFF ∧
    ({ barred one 0 with core := { Core.reset with sram := asetN zeroByte [] 0x4C (toBytes 0xFFFFFFFF 4) } } : State).bankNat (0, 0x4C) 4 =
      0xFFFFFFFF ∧ (tasked.getPart tasked.ctx.part).credit < 64 ∧
    (let s := (tasked.setPart 0 { placePart with credit := 64 + Config.extraCredit });
      64 + Config.extraCredit ≤ (s.getPart s.ctx.part).credit ∧ s.ctx.pend.lq = [] ∧ s.ctx.pend.stq = [] ∧ ∃ u, s.clean.readS 7 1 = .ok (0, u)) ∧
    (signalled.bankNat (0, 0x50) 4 = 16 ∧ signalled.bankNat (0, 12) 4 = 0 ∧ 16 < 32) ∧
    (let s := (barred one 0).putBar (0, 0) { one with wait := 0x80 };
      s.bankNat (0, 0) 4 = 0x80 ∧ (let w := crewPlace (crewOf 0) 0x80; ¬ (w.1 = 0 ∧ 0 ≤ w.2 + 0x1C ∧ w.2 + 0x1C < 0 + 16)) ∧
        ∃ u, s.clean.readS 7 1 = .ok (0xFFFFF00000000000, u) ∧ u.object 0xFFFFF00000000000 = .ok (0, 0)) :=
  ⟨rfl, rfl, rfl, rfl, rfl, rfl, by decide +kernel, rfl, by decide +kernel, by decide, ⟨_, _, rfl, rfl, by rfl, by rfl⟩, by decide, by decide, rfl,
    by decide +kernel, by decide +kernel, by decide +kernel, by decide, by decide, by decide, by decide, by decide +kernel,
    by decide +kernel, by decide +kernel, by decide +kernel, ⟨by simp [tasked, State.placed, placeCtx], rfl, rfl, _, rfl⟩,
    ⟨by decide +kernel, by decide +kernel, by decide⟩, ⟨by decide +kernel, by decide +kernel, _, rfl, by rfl⟩⟩

/-! Further hypotheses of the same statements. -/

/-- Route entry 5 of the partition, with this barrier at the far end. -/
def routed (rb : Nat) : State := (two 7 3).setPart 0 { placePart with routes := [(5, [1, 0, rb, 0, 7])] }
theorem witness_EngineCommandsEnqueue_put : aget [] ((routed 9).getPart (routed 9).myPart).routes 5 = [1, 0, 9, 0, 7] ∧ (9 : Nat) ≠ 0 ∧
    aget [] ((routed 0).getPart (routed 0).myPart).routes 5 = [1, 0, 0, 0, 7] ∧ (routed 9).core.outstanding 3 < 32 := by decide +kernel
/-- The barrier object, and nest set 1 empty. -/
def owing : State := { barred one 0 with ctx := { (barred one 0).ctx with nest := [(1, { NestSet.reset with bound := [(0, 0)] })] } }
theorem witness_CommandOwesItsBarrier_amounts :
    (aget NestSet.reset owing.ctx.nest 0).count * (aget NestSet.reset owing.ctx.nest 0).size ≠ 0 ∧
    (aget NestSet.reset owing.ctx.nest 1).count * (aget NestSet.reset owing.ctx.nest 1).size = 0 ∧
    owing.scratchAt (0, 0) = true ∧ owing.viewHits 0 0 16 = [] ∧ (0x20#6).getLsbD 5 = true ∧ (0#6).getLsbD 5 = false ∧
    windowed.core.arr.claim = some windowed.ctxId := by decide +kernel
/-- The barrier at the first byte of local SRAM, with its first word poisoned. -/
def spoiled : State := { barred one 0 with core := { (barred one 0).core with poison := [(0, true)] } }
theorem witness_BarrierWaits_poison : (∃ u, spoiled.clean.readS 7 1 = .ok (0xFFFFF00000000000, u) ∧ u.object 0xFFFFF00000000000 = .ok (0, 0) ∧
      ¬ u.bankBad 0 0 16 = false) ∧ (barred one 0).bankBad 0 0 16 = false ∧ spoiled.ctx.status = .ready ∧
    (let x : Barrier := { one with prm := true, pend := 0 }; (barred x 0).getBar (0, 0) = x ∧ x.prm = true ∧ x.pend = 0 ∧ x.ptx = 0 ∧ x.wait = 0) :=
  ⟨⟨_, rfl, by rfl, by decide +kernel⟩, by decide +kernel, rfl, by decide +kernel, rfl, rfl, rfl, rfl⟩
theorem witness_EndSuspendSignalNotify_views :
    (barred one 0xFFFFF00000000040).viewHits 0 0x40 (0x28 + 8 * (liveRegs 0).length) = [] ∧ parent.ctx.pend.lq = [] ∧ parent.ctx.pend.stq = [] ∧
    parent.ctx.pend.flight = [] ∧ parent.ctx.pend.reinject = [] ∧ parent.core.arr.queue = [] ∧ parent.core.arr.repeat_ = none := by
  refine ⟨by decide +kernel, rfl, rfl, rfl, rfl, rfl, rfl⟩

/-! Hypotheses that are met: what finishes by itself. -/

/-- One load of eight bytes of local SRAM. -/
def loading (k : LoadKind) : State :=
  (two 7 3).modPend (fun p => { p with ldq := [], lq := [⟨1, k, [(some (.sram 0 0), 8)]⟩] })
/-- The same from poisoned storage. -/
def poisonedLoad : State := { loading .queue with core := { (loading .queue).core with poison := [(0, true)] } }
/-- One store of eight bytes. -/
def storing (k : StoreKind) : State :=
  (two 7 3).modPend (fun p => { p with stq := [⟨1, k, [(some (.sram 0 0), 8)], []⟩], sdq := [⟨false, 0, some (.scalar 9)⟩] })
/-- One V slot in flight. -/
def aFlight : VFlight := ⟨0, 0, 0, [], 0, 0, 0, 0, [], 0, 0⟩
/-- One move in flight. -/
def aMove : XFlight := ⟨.movvs 3 0 0, [1, 0, 0, 0], [], 0x080C, 0, 0, 0, 0, [], 0, 0⟩

theorem witness_ResultsLand_loads (k : LoadKind) (h : k = .queue ∨ k = .vector 32 1 ∨ k = .reg 3 false ∨ k = .tile 0) :
    (match ((loading k).clean.focus 0 0).loadsReady.filter (fun o => o.kind.queued = k.queued && o.kind.scalar = k.scalar) with
      | [o] => decide (o.kind = k) && (match (((loading k).clean.focus 0 0).modPend (fun p => p.dropLoad o)).readUnits o.units with
        | (_, bad, u) => !bad && u.ctx.pend.lq.isEmpty && decide (u.ctx.pend.ldq.length + 1 ≤ 64))
      | _ => false) = true := by
  rcases h with rfl | rfl | rfl | rfl <;> decide +kernel
/-- LDQ is full: a load that was performed waits for room in it, and the next one may be performed. -/
def crowded : State := (loading .queue).modPend (fun p => { p with
  ldq := List.replicate 64 (.scalar 0),
  lq := [⟨0, .ready [.scalar 7], []⟩, ⟨1, .queue, [(some (.sram 0 0), 8)]⟩] })
theorem witness_ResultsLand :
    (match (poisonedLoad.clean.focus 0 0).loadsReady with
      | [o] => (match ((poisonedLoad.clean.focus 0 0).modPend (fun p => p.dropLoad o)).readUnits o.units with
        | (_, bad, _) => bad)
      | _ => false) = true ∧
    (let o : LoadOp := ⟨1, .queue, [(some (.sram 0 0), 8)]⟩;
      let t := crowded.clean.focus 0 0;
      t.loadsReady = [o] ∧ 64 < t.ctx.pend.ldq.length + 1 ∧ ∃ x ∈ (t.modPend (fun p => p.dropLoad o)).ctx.pend.lq, x.seq ≤ o.seq) ∧
    (((storing (.data [1, 2, 3, 4, 5, 6, 7, 8])).clean.focus 0 0).storesReady.length = 1) ∧
    (((storing (.queue 1)).clean.focus 0 0).storesReady.length = 1) ∧
    firstFlight true (((two 7 3).modPend (fun p => { p with flight := [(1, .v aFlight)] })).clean.focus 0 0).ctx.pend.flight = some (1, .v aFlight) ∧
    firstFlight false (((two 7 3).modPend (fun p => { p with flight := [(1, .x aMove)] })).clean.focus 0 0).ctx.pend.flight = some (1, .x aMove) ∧
    firstFlight false ((loading (.tile 0)).clean.focus 0 0).ctx.pend.flight = none ∧
    (let t := ((two 7 3).modPend (fun p => { p with shadows := [⟨1, 0, 0, .fmt 5⟩] })).clean.focus 0 0;
      t.ctx.pend.shadows = [⟨1, 0, 0, .fmt 5⟩] ∧ t.canLand ⟨1, 0, 0, .fmt 5⟩ = true) ∧
    (let t := ((two 7 3).modPend (fun p => { p with reinject := [(0, 1, .x aMove)] })).clean.focus 0 0;
      t.ctx.pend.reinject = (0, 1, .x aMove) :: [] ∧ 0 ≤ t.cycle ∧ t.ctx.pend.paused = false) ∧
    ((State.reset.placed []).clean.focus 0 0).ctx.isReady = true ∧ ((State.reset.placed []).getPart 0).preState ≠ 1 ∧
    (match ((State.reset.placed []).clean.focus 0 0).fetch with
      | .ok (bs, _) => decide (bs.length = 2) && decide (ofBytes bs = 0)
      | .error _ => false) = true :=
  ⟨by decide +kernel, by decide +kernel, by decide +kernel, by decide +kernel, rfl, rfl, rfl, ⟨rfl, by decide⟩, ⟨rfl, by decide, rfl⟩, by decide,
    by decide +kernel, by decide +kernel⟩
/-- A store with an element that is still to be translated, from this address. -/
def lateStore (va : Word) : State :=
  (two 7 3).modPend (fun p => { p with stq := [⟨1, .vector 8 1, [(none, 1)], [(0, va)]⟩], sdq := [⟨true, 0, some (.vector 7 1)⟩] })
theorem witness_ResultsLand_scalars :
    (∀ k, k = .reg 3 true ∨ k = .amo 0 5 0 3 8 3 1 → (match ((loading k).clean.focus 0 0).loadsReady.filter (fun o => o.kind.scalar) with
      | [o] => decide (o.kind = k) && (((loading k).clean.focus 0 0).performLoad o).isSome
      | _ => false) = true) ∧
    (let s : State := { loading (.reg 3 false) with core := { (loading (.reg 3 false)).core with poison := [(0, true)] } };
      (match (s.clean.focus 0 0).loadsReady.filter (fun o => o.kind.scalar) with
        | [o] => decide ((s.clean.focus 0 0).performLoad o = none)
        | _ => false) = true) ∧
    (∀ i, i < 64 → (0xFFFFFFFFFFFFFFFE : Word).getLsbD i = (wordOf 64 [0xFE]).getLsbD (min i (8 * ([0xFE] : List Byte).length - 1))) ∧
    (((storing (.fence 1)).clean.focus 0 0).storesReady.map (fun o => decide (o.late = [])) = [true]) ∧
    (((storing (.mark true)).clean.focus 0 0).storesReady.map (fun o => decide (o.late = [])) = [true]) ∧
    (((lateStore 0xFFFFF00000000000).clean.focus 0 0).storesReady.map (fun o =>
      okay (((lateStore 0xFFFFF00000000000).clean.focus 0 0).lateUnits o o.late)) = [true]) ∧
    (((lateStore 0xFFFFF00000000000).clean.focus 0 0).storesReady.map (fun o =>
      okay (((lateStore 0xFFFFF00000000000).clean.focus 0 0).lateUnits o [(0, 0xFFFFF000000C0000)])) = [false]) := by
  refine ⟨fun k h => ?_, by decide +kernel, by decide, by decide +kernel, by decide +kernel, by decide +kernel, by decide +kernel⟩
  rcases h with rfl | rfl <;> decide +kernel
/-- A claimed array with a drain queued, and with a repeat. -/
def draining : State := arrayed (fun u => { u with queue := [(0, 4, .tile 0 [])] })
def repeating (i : Instr) : State := arrayed (fun u => { u with repeat_ := some ⟨i, 2, 0, 0, 0, .user, 0⟩ })
/-- The same drain, after a load of its tile that is not performed. -/
def drainBehind : State :=
  (arrayed (fun u => { u with queue := [(0, 4, .sram [(.sram 0 0, [1, 2, 3, 4])])] })).modPend (fun p => { p with lq := [⟨2, .queue, [(some (.sram 0 0), 8)]⟩] })
theorem witness_ArrayGoesOn : (draining.clean.getCore (0#6).toNat).arr.queue = (0, 4, .tile 0 []) :: [] ∧ 0 / 4 = (0#6).toNat ∧
    (draining.clean.focus 0 0).drainTurn = true ∧ (drainBehind.clean.focus 0 0).drainTurn = false ∧
    (∀ o ∈ (draining.clean.focus 0 0).ctx.pend.lq, 4 < o.seq) ∧ (∀ o ∈ (draining.clean.focus 0 0).ctx.pend.stq, 4 < o.seq) ∧
    (match ((arrayed (fun u => { u with queue := List.replicate 4 (0, 0, .tile 0 []), repeat_ := some ⟨.mdrain 0 0 1 1 0 0 0 0 0, 2, 0, 0, 0, .user, 0⟩ })).clean.focus 0 0).mrun
        0 (Instr.repeated (.mdrain 0 0 1 1 0 0 0 0 0)) with
      | .error .hold => true
      | _ => false) = true ∧
    ((repeating (.mbeat 1 0 0 0 3 0 0 0 0 0)).clean.getCore 0).arr.repeat_ = some ⟨.mbeat 1 0 0 0 3 0 0 0 0 0, 2, 0, 0, 0, .user, 0⟩ ∧
    okay (((repeating (.mbeat 1 0 0 0 3 0 0 0 0 0)).clean.focus 0 0).mrun 0 (Instr.repeated (.mbeat 1 0 0 0 3 0 0 0 0 0))) = true ∧
    (match ((repeating (.mbeat 1 0 0 0 9 0 0 0 0 0)).clean.focus 0 0).mrun 0 (Instr.repeated (.mbeat 1 0 0 0 9 0 0 0 0 0)) with
      | .error (.trap _ _ _) => true
      | _ => false) = true :=
  ⟨rfl, by decide, by decide +kernel, by decide +kernel, by decide, by decide, by decide +kernel, rfl, by decide +kernel, by decide +kernel⟩
/-- A context that waits with one instruction of the C slot or of the T slot. -/
def waitingWith (x : Word) (header w : Nat) (st : WatchState) : State :=
  let s := barred { one with prm := true } 0;
  { s with
    cycle := 0x100,
    ctx := { s.ctx with
      r := { s.ctx.r with s := [(1, x), (2, 0xFFFFF00000000000)] }, fetched := some (toBytes header 2 ++ toBytes w 4),
      watch := { Watch.none with st := st }, status := .blocked 0 false none } }
theorem witness_WaitsEnd :
    ((waitingWith 0 1 0 .idle).clean.focus 0 0).ctx.status = .blocked 0 false none ∧
    ((waitingWith 0 1 0x2C100000 .idle).clean.focus 0 0).waiting = [.sleepu 1] ∧
    ((waitingWith 0 0x80 0x08308041 .idle).clean.focus 0 0).waiting = [.bwait 3 2 0 0x41] ∧
    ((waitingWith 0 0x80 0x08308004 .idle).clean.focus 0 0).waiting = [.bwait 3 2 0 4] ∧
    (0x100 : Nat) ≤ 0x100 - 0 ∧ (4#10).toNat * 64 ≤ 0x100 - 0 ∧
    (((waitingWith 0 0x80 0 .idle).clean.focus 0 0).getBar (0, 0)).distance 0 = 0 ∧
    ((waitingWith 5 1 0x44304000 .set).clean.focus 0 0).waiting = [.mwait 3 1] ∧ (5 : Word).toNat ≤ 0x100 - 0 ∧ (5 : Word) ≠ 0 ∧
    (((waitingWith 0 1 0 .idle).clean.focus 0 0).getPart 0).preState ≠ 1 ∧
    ((waitingWith 0 0x80 0x10200000 .idle).clean.focus 0 0).waiting = [.sleepb 2] ∧
    (∃ u, ((waitingWith 0 0x80 0x10200000 .idle).clean.focus 0 0).readS 7 2 = .ok (0xFFFFF00000000000, u)) ∧
    (((waitingWith 0 0x80 0x10200000 .idle).clean.focus 0 0).getBar (0, 0)).prm = true ∧
    ((waitingWith 0 0x80 0x10200000 .idle).clean.focus 0 0).promiseDue (((waitingWith 0 0x80 0 .idle).clean.focus 0 0).getBar (0, 0)) = true ∧
    (two 7 3).ctx.isReady = true ∧ (5 : Word) ≠ 0 ∧ (5 : Word).toNat ≤ (5 : Word).toNat ∧ (two 7 3).ctx.status = .ready ∧
    State.reset.ctx.status = .idle :=
  ⟨rfl, by decide +kernel, by decide +kernel, by decide +kernel, by decide, by decide, by decide +kernel, by decide +kernel, by decide, by decide,
    by decide, by decide +kernel, ⟨_, rfl⟩, by decide +kernel, by decide +kernel, by decide, by decide, by decide, rfl, rfl⟩
/-- A command at the head of queue 3 of core 0, of a task that runs there. -/
def cmdOf (i : Instr) (w : CmdWait) (as : List Word) (n : Nat) : Cmd :=
  ⟨i, 0, 0, [0, 0, 0, 0, 0, 0], as, [.reset, .reset], 0x080C, none, n, 0x4000, 0, 1, 0, 0, 0, 0, w, [], [], 0, false, [], [], []⟩
def engine (c : Cmd) : State := { tasked with core := { tasked.core with eq := [(3, [c])] } }
def bankCmd : Cmd := cmdOf (.bankcfg 3 0x3FFFF 5 0 0) .none [] 1
def badCopy : Cmd := cmdOf (.copy 3 0x3FFFF 0 0 1 1 0) .none [0xFFFFF000000C0000, 0xFFFFF000000C0000] 1
theorem witness_EnginesGoOn :
    ((engine bankCmd).clean.getCore (0#6).toNat).queue (3#4).toNat = bankCmd :: [] ∧ bankCmd.wait = .none ∧
    (∀ q bar an slot, bankCmd.i ≠ .gload q bar an slot) ∧
    (engine bankCmd).clean.mayStart ((engine bankCmd).clean.partOf (crewOf (0#6).toNat)) (0#6).toNat (3#4).toNat bankCmd = true ∧
    (match ((engine bankCmd).clean.focus 0 0).cmdGo bankCmd (2 * bankCmd.items + 2) with
      | (_, d, none) => decide (d.items ≤ d.done) && decide (d.wait = .none)
      | _ => false) = true ∧
    (match ((engine badCopy).clean.focus 0 0).cmdGo badCopy (2 * badCopy.items + 2) with
      | (_, _, some (.fault _)) => true
      | _ => false) = true ∧
    (let d := cmdOf (.get 3 0x3FFFF 1 2 5 0 0) (.farEnd 0) [0, 0] 1;
      d.i = .get 3 0x3FFFF 1 2 5 0 0 ∧ d.wait = .farEnd 0 ∧
        (List.replicate (min pieceBytes ((d.sets.headD .reset).count * (d.sets.headD .reset).size)) (0 : Byte)).length =
          min pieceBytes (((d.sets.headD .reset).count - d.done) * (d.sets.headD .reset).size)) ∧
    (let d := cmdOf (.put 3 0x3FFFF 1 2 5 0 0) (.farEnd 0) [0, 0] 1;
      d.i = .put 3 0x3FFFF 1 2 5 0 0 ∧ d.wait = .farEnd 0 ∧ d.done < d.items ∧
        ({ d with done := d.items } : Cmd).items ≤ ({ d with done := d.items } : Cmd).done) ∧
    (let d := cmdOf (.pmig 3 0x3FFFF 1 0 1) (.frames 9) [0] 65536;
      (engine d).clean.frameWaiter 0 9 = some (0, 3) ∧
        (engine d).clean.mayStart ((engine d).clean.partOf (crewOf 0)) 0 3 d = true ∧ ((engine d).clean.getCore 0).queue 3 = d :: [] ∧
        ([0x100000] : List Word).length = (1#30).toNat ∧ (0x100000 : Word).toNat % 65536 = 0 ∧
        ((engine d).clean.focus 0 0).owns 0 (0x100000 : Word).toNat = true ∧ tierOf (0x100000 : Word).toNat = (0#2).toNat) ∧
    (let d := cmdOf (.subscr 3 0x3FFFF 1 0 2 0 2 512) .none [0] 1;
      let r : Ring := ⟨0, 2, 512, [.free, .full], 0, 0, true, 0, .reset, 1024, 1, some d⟩;
      r.cmd = some d ∧ d.wait = .none ∧ r.ended = false ∧ r.slots ≠ [] ∧ r.slots.getD (r.next % r.slots.length) .done = .free) ∧
    (let s : State := { tasked with core := { tasked.core with groups := [(1, { GroupSlot.reset with st := .validating })] } };
      (aget GroupSlot.reset (s.getCore 0).groups 1).st = .validating ∧ (s.getCore 0).gloading 1 = false ∧
        (aget GroupSlot.reset (s.getCore 0).groups 1).loader = none) :=
  ⟨rfl, rfl, by simp [bankCmd, cmdOf], by decide +kernel, by decide +kernel, by decide +kernel, ⟨rfl, rfl, by simp [cmdOf]⟩, ⟨rfl, rfl, by decide +kernel, by decide +kernel⟩,
    ⟨by decide +kernel, by decide +kernel, rfl, rfl, by decide +kernel, by decide +kernel, by decide +kernel⟩,
    ⟨rfl, rfl, by decide +kernel, by decide +kernel, by decide +kernel⟩, ⟨rfl, by decide +kernel, rfl⟩⟩
/-- A core whose scratchpad holds six bytes, an index among them, and no view and no poison; its context has no task. -/
def moving : State := { (two 7 3) with core := { (two 7 3).core with sram := [(0, 1), (1, 2), (2, 3), (3, 4), (4, 1), (5, 9)] } }
/-- A command with these addresses, offsets in the scratchpad. -/
def moves (i : Instr) (as : List Nat) (set : NestSet) : Cmd :=
  { cmdOf i .none (as.map (fun a => BitVec.ofNat 64 (lwin + a))) 1 with sets := [set, set] }
/-- Two bounds for indexed commands: rows of one element, a table of n rows. -/
def tableOf (n : Nat) : NestSet := { NestSet.reset with bound := [(2, n)], stride := [(1, 1)] }
theorem witness_EnginesGoOn_units : moving.ctx.views = [] ∧ moving.core.poison = [] ∧
    (let n := NestSet.reset; let c := moves (.copy 3 0x3FFFF 0 0 1 1 0) [0, 8] n;
      moving.ownUnit (n.at (c.aregs.getD 0 0) 0) n.size 0 ∧ moving.ownUnit (n.at (c.aregs.getD 1 0) 0) n.size 8) ∧
    (let n := tableOf 2; let c := moves (.gather 3 0x3FFFF 0 0 1 2 0 0) [0, 4, 8] n;
      0 % n.boundAt 0 = 0 ∧ moving.ownUnit (c.aregs.getD 1 0 + BitVec.ofNat 64 (4 * (0 / 1))) 4 4 ∧
        moving.ownUnit (c.aregs.getD 2 0 + BitVec.ofNat 64 (0 * n.size)) n.size 8 ∧ n.boundAt 2 ≠ 0 ∧
        (⟨32, true⟩ : IntFmt).decode (ofBytes (agetN zeroByte moving.core.sram 4 4)) = 0x901 ∧ ¬ (0x901 : Int) < n.boundAt 2 ∧
        (0x901 : Int) < (tableOf 0x1000).boundAt 2 ∧ moving.ownUnit ((tableOf 0x1000).inRow (c.aregs.getD 0 0) 0x901 0) 1 0x901 ∧
        moving.ownUnit (n.inRow (c.aregs.getD 0 0) 1 0) n.size 1) ∧
    moving.ownUnit (BitVec.ofNat 64 (lwin + 128) + BitVec.ofNat 64 (128 * 1)) 128 256 ∧
    moving.ownUnit (BitVec.ofNat 64 lwin + BitVec.ofNat 64 (32 * 0)) 32 0 ∧
    (let n := NestSet.reset; n.size ≤ 2 ∧ 0 % n.filterCols + 1 = n.filterCols ∧ (n.filterCols - 1) * n.size = 0 ∧ 0 / n.filterCols < 128 ∧
      moving.ownUnit (n.inRow (BitVec.ofNat 64 lwin) (0 / n.filterCols) (0 % n.filterCols)) n.size 0 ∧ n.count = 0 + 1) := by
  unfold State.ownUnit
  decide +kernel
/-- The same with two banks in FIFO mode, of ring 2. -/
def rung : State := { moving with core := { moving.core with bankMode := [(4, .fifo), (5, .fifo)], bankRing := [(4, 2), (5, 2)] } }
theorem witness_EnginesGoOn_runs :
    (let n : NestSet := { NestSet.reset with bound := [(0, 4)], stride := [(0, 1)] }; let c := moves (.copy 3 0x3FFFF 0 0 1 1 0) [0, 8] n;
      (0#5).toNat % 32 = 0 ∧ n.size = 1 ∧ 0 + 4 ≤ c.items ∧ 8 % 4 = 0 ∧ ∀ i, i < 4 →
        moving.ownUnit (n.at (c.aregs.getD 0 0) (0 + i)) n.size i ∧ moving.ownUnit (n.at (c.aregs.getD 1 0) (0 + i)) n.size (8 + i * n.size) ∧
        (i + n.size ≤ 8 ∨ 8 + 4 ≤ i)) ∧
    (let n := tableOf 0x1000; let c := moves (.scatter 3 0x3FFFF 0 0 1 2 0 2) [0, 4, 8] n;
      (2#3) ≠ 0 ∧ 0 + 1 = n.boundAt 0 * n.boundAt 1 ∧ moving.ownUnit (c.aregs.getD 1 0 + BitVec.ofNat 64 (4 * (0 / n.boundAt 0))) 4 4 ∧
        (0 : Int) ≤ 0x901 ∧ (0x901 : Int) < n.boundAt 2 ∧ moving.ownUnit (c.aregs.getD 2 0 + BitVec.ofNat 64 (0 * n.size)) n.size 8 ∧
        moving.ownUnit (n.inRow (c.aregs.getD 0 0) 0x901 0) n.size 0x901) ∧
    (rung.core.ring (2#4).toNat).active = false ∧
    (∀ b, b < 6 → 4 ≤ b → rung.core.modeAt (b * 0x8000) = .fifo ∧ aget 0 rung.core.bankRing b = 2) ∧ rung.core.modeAt (6 * 0x8000) = .scratch ∧
    (512 * 128 ≤ 2 * 32768) := by
  unfold State.ownUnit
  decide +kernel
theorem witness_EnginesGoOn_parameters :
    (match tasked.nmLoc 0x40 4 with
      | .ok (.phys pp true _, u) => (match u.nmRead 0x80 4 with
        | .ok (.phys _ true _, v) => (match v.nmLoc (0x100 + 64 + 0) 4 with
          | .ok (.phys pm true _, w) => decide (pp + 4 ≤ pm) && (match w.nmLoc (0x100 + 64 + 512 + 0) 4 with
            | .ok (.phys pv true _, _) => decide (pm + 4 ≤ pv)
            | _ => false)
          | _ => false)
        | _ => false)
      | _ => false) = true := by decide +kernel
theorem witness_EnginesGoOn_sides :
    (let c := moves (.hcwld 3 0x3FFFF 0 1 1) [0] .reset; ∀ f, moving.modCmdCtx moving.myPart c f = { moving with ctx := f moving.ctx }) ∧
    (let s : State := { routed 9 with ports := [(1, { Port.reset with st := 2 })] };
      aget [] (s.getPart s.myPart).routes (5#8).toNat = [1, 0, 9, 0, 7] ∧ (s.getPort 1).st ≠ 0) ∧
    (∀ b ∈ (moves (.get 3 0x3FFFF 0 1 5 0 0) [0, 0] .reset).bads, b = false) ∧
    (NestSet.reset.size ≤ ([1] : List Byte).length) ∧
    (match tasked.nmLoc 0x40 ([1, 2, 3, 4] : List Byte).length with
      | .ok (.phys _ true _, _) => true
      | _ => false) = true ∧
    Memory.wf [(3, 4), (5, 6)] = true ∧ typeClass 4 = some (.int ⟨32, true⟩) ∧ (7 : Nat) < 2 ^ 32 ∧
    (∀ d, d < 6 → 0 < NestSet.reset.boundAt d) :=
  ⟨fun _ => rfl, ⟨by decide +kernel, by decide +kernel⟩, by decide, by decide, by decide +kernel, by decide, by decide, by decide, by decide⟩
-- R212: three bytes and one wrap at eight bits
theorem test_elem_add : elemCombine 1 2 0xFF 2 = 1 := by decide +kernel
/-- One tag in die 0. -/
def tagged (g : L2Tag) : State :=
  { State.reset with cyc := 8192, dies := [(0, { Die.reset with tags := [(4, g)], entries := [(0, ⟨0, 0, 1, 0, false⟩)], nextEntry := 1 })] }
def aTag : L2Tag := ⟨.own, 0, true, false, true, 0, 0, 0, 0⟩
theorem witness_FabricEvents :
    afind ((tagged aTag).getDie (0#2).toNat).tags (4#41).toNat = some aTag ∧ (tagged aTag).cyc - aTag.idle ≥ 2048 ∧
    afind ((tagged aTag).getDie 0).entries aTag.entry = some ⟨0, 0, 1, 0, false⟩ ∧
    (let g := { aTag with hot := true, dirty := false };
      afind ((tagged g).getDie 0).tags 4 = some g ∧ (tagged g).cyc - g.idle ≥ 8192) ∧ (tagged aTag).cyc - ({ aTag with idle := 6145 } : L2Tag).idle < 2048 ∧
    (let w : ModWrite := ⟨1, 1, [0, 0, 0, 0], 0, [(0x1000, 7)]⟩;
      let s : State := { State.reset with dies := [(0, { Die.reset with inbox := [w] })] };
      (s.getDie 0).inbox.filter (s.clean.applicable 0) = [w]) ∧
    (List.replicate 128 (0 : Byte)).length = 128 ∧ (∀ i, i < 1 → afind (State.reset.getDie (homeDie (0x1000 + i))).own (0x1000 + i) = none) ∧
    State.reset.berthOf (2 ^ 47) = none ∧ (State.reset.berthOf 0x1000).isSome = true ∧ (State.reset.berthOf (0x1000 + 8 - 1)).isSome = true ∧
    State.reset.clean.poisoned (.phys 0x1000 false .none) 8 = false ∧ State.reset.recovery = false ∧
    ({ State.reset with recovery := true } : State).recovery = true ∧ ([7] : List Byte) ≠ [] :=
  ⟨by decide, by decide, by decide, ⟨by decide, by decide⟩, by decide, by decide +kernel, by simp, fun _ _ => rfl, by decide +kernel, by decide +kernel, by decide +kernel,
    by decide, rfl, rfl, by decide⟩

/-! Hypotheses that are met: the cox, the host, pre-emption, links, starts and the step. -/

/-- The placed module with partition 0 as given. -/
def partly (f : Part → Part) : State := (State.reset.placed []).setPart 0 (f placePart)
/-- A root task that is ready for the first free context of crew 0. -/
def readied : State := partly (fun q =>
  { q with tqcfg := [(0, 1)], tasks := [(0, placeTask), (1, Task.fresh 0x4001 (jobOf []) 0 0 1 (some 7) none 0 [])] })
/-- One finished child, not folded yet. -/
def folding : State := partly (fun q =>
  { q with tasks := [(0, { placeTask with families := [⟨[0x4001], true, 0, 0, 0, 0, [], [], [], [], [], [], [], 0, 0, 0⟩] }),
      (1, { Task.fresh 0x4001 (jobOf []) 0 0 1 none (some 0x4000) 0 [] with st := .finished 0 false })] })
/-- A fault record of context 0 that waits for its reply. -/
def faulted (e : Option TrapReq) : State :=
  let s := partly (fun q => { q with faults := [(3, 0x20, .context 0)] })
  { s with ctx := { s.ctx with status := .hostWait e } }
theorem witness_CoxEvents :
    (State.reset.placed []).recovery = false ∧ ({ State.reset with recovery := true } : State).recovery = true ∧ placePart.formed = true ∧
    (1#16 ≠ 0 ∧ (1#16).toNat &&& placePart.berths = (1#16).toNat) ∧ ¬ ((2#16).toNat &&& placePart.berths = (2#16).toNat) ∧
    (aget 1 placePart.tqcfg (0#4).toNat).testBit 0 = true ∧ (aget 1 ({ placePart with tqcfg := [(0, 0)] } : Part).tqcfg (0#4).toNat).testBit 0 = false ∧
    placePart.freeEntry = some (1, 0x4001) ∧ Part.reset.freeEntry = none ∧ (jobOf (bytesOf (0 : BitVec 512))).refused true = none ∧
    readied.clean.nextFree 0 0 = some 1 ∧ (readied.clean.choice 0 1).2.isSome = true ∧
    (readied.getPart (readied.clean.partOf 0)).preState = 0 ∧ (folding.clean.foldStep 0 0x4000).isSome = true ∧
    afind ((faulted none).getPart 0).faults 3 = some (0x20, .context 0) ∧
    ((faulted none).clean.focus 0 0).ctx.status = .hostWait none ∧ ((faulted none).clean.focus 0 0).ctx.startLoad = none ∧
    ((faulted (some ⟨0, 0, []⟩)).clean.focus 0 0).ctx.status = .hostWait (some ⟨0, 0, []⟩) ∧
    (let s : State := { tasked with ctx := { tasked.ctx with status := .halted } };
      s.ctx.part = 0 ∧ s.ctx.status = .halted ∧ s.ctx.cr.taskid.toNat = (0x4000#32).toNat ∧ s.ctxId < 4 ∧ s.savePending = false ∧
        (s.setPart 0 { placePart with preState := 1 }).savePending = true) ∧
    (jobOf (bytesOf (1 : BitVec 512))).refused true = some 0x81 ∧
    (let t := (faulted none).clean.modPart 0 (fun q => { q with faults := adel q.faults 3 });
      (t.focus 0 0).savePending = false ∧ ((t.modPart 0 (fun q => { q with preState := 1 })).focus 0 0).savePending = true) :=
  ⟨rfl, rfl, rfl, by decide, by decide, by decide, by decide, by decide +kernel, by decide +kernel, by decide +kernel, by decide +kernel,
    by decide +kernel, by decide +kernel, by decide +kernel, by decide +kernel, rfl, rfl, rfl,
    ⟨rfl, rfl, by decide, by decide, by decide +kernel, by decide +kernel⟩, by decide +kernel, by decide +kernel, by decide +kernel⟩
/-- The same partition with context 0 in its saved image. -/
def keptCtx (s : State) : State := s.modPart 0 (fun q => { q with saved := [(0, 1)] })
theorem witness_CoxEvents_kept :
    (let c := ((faulted none).clean.modPart 0 (fun q => { q with faults := adel q.faults 3 })).dropTlbs 0 (fun _ _ => true) |>.focus 0 0;
      afind ((faulted none).getPart (0#4).toNat).faults 3 = some (0x20, .context 0) ∧ c.ctx.status = .hostWait none ∧ c.ctx.startLoad = none ∧
        afind (c.getPart c.ctx.part).saved c.here = none ∧ c.savePending = false) ∧
    (let s := keptCtx (faulted none); let c := (s.clean.modPart 0 (fun q => { q with faults := adel q.faults 3 })).dropTlbs 0 (fun _ _ => true) |>.focus 0 0;
      afind (s.getPart 0).faults 3 = some (0x20, .context 0) ∧ (afind (c.getPart c.ctx.part).saved c.here).isSome = true ∧
        c.ctx.status = .hostWait none ∧ c.ctx.startLoad = none) ∧
    (let s := (faulted none).modPart 0 (fun q => { q with preState := 1 });
     let c := (s.clean.modPart 0 (fun q => { q with faults := adel q.faults 3 })).dropTlbs 0 (fun _ _ => true) |>.focus 0 0;
      c.ctx.status = .hostWait none ∧ afind (c.getPart c.ctx.part).saved c.here = none ∧ c.savePending = true) ∧
    (let s : State := keptCtx { tasked with ctx := { tasked.ctx with status := .halted } };
      s.ctx.part = 0 ∧ s.ctx.status = .halted ∧ s.ctxId < 4 ∧ (afind (s.getPart 0).saved s.here).isSome = true) ∧
    (folding.getPart 0).hvState = 0 ∧ (readied.getPart (readied.clean.partOf 0)).hvState = 0 := by
  decide +kernel
/-- A family of two, of which one child is folded: slot 0 holds a view of one I32 element in the pool. -/
def aView (op : Nat) : View := ⟨⟨0x40, 4, 4, op⟩, 0, none, [], [], []⟩
def aChild : Task :=
  { Task.fresh 0x4001 (jobOf []) 0 0 1 none (some 0x4000) 0 [] with st := .finished 0 false, views := [(0, aView 0)] }
def halfway (n : Nat) : Family :=
  ⟨[0x4001, 0x4001], true, 0xFFFFFFFF, 0x80, 0, n, [(0, ⟨n, 0, false, false⟩)], [], [(0, aView 0)], [(0, (aView 0).desc)], [], [], [], 0, 0, 0⟩
def merging : State := partly (fun q => { q with tasks := [(0, { placeTask with families := [halfway 1] }), (1, aChild)] })
theorem witness_CoxEvents_folds :
    (placeTask.cont = none ∧ placeTask.job.hcwtab = 0 ∧ placeTask.job.vwin ≤ 12 ∧ placeTask.job.tiles ≤ 16) ∧
    (merging.getPart 0).task? 0x4000 = some { placeTask with families := [halfway 1] } ∧
    (FoldMove.first aChild ∈ merging.foldMoves 0 true { halfway 0 with steps := [] }) ∧
    (FoldMove.slot aChild 0 ⟨1, 0, false, false⟩ ∈ merging.foldMoves 0 true (halfway 1)) ∧
    (FoldMove.done aChild ∈ merging.foldMoves 0 true { halfway 1 with steps := [(0, ⟨2, 0, false, false⟩)] }) ∧
    (FoldMove.join 0 ⟨2, 0, false, false⟩ ∈ merging.foldMoves 0 true { halfway 2 with steps := [(0, ⟨2, 0, false, false⟩)] }) ∧
    (FoldMove.finish ∈ merging.foldMoves 0 true { halfway 2 with steps := [(0, ⟨2, 0, false, true⟩)] }) ∧
    merging.childDone 0 0x4001 = some aChild ∧ aChild.isDiscarded = false ∧ afind (halfway 1).acc 0 = some (aView 0) ∧
    afind aChild.views 0 = some (aView 0) ∧ (aView 0).backing = none ∧ afind (halfway 1).firstDescs 0 = some (aView 0).desc ∧
    0 < (aView 0).desc.width ∧ (aView 0).gives 0 = true ∧ (aView 7).gives 0 = false ∧ typeClass (aView 0).desc.type = some (.int ⟨32, true⟩) ∧
    (∀ x ∈ merging.taskViews 0 0x4000, ¬ (x.2.desc.range ≤ 0x40 ∧ 0x40 < x.2.desc.range + x.2.desc.len)) ∧
    merging.scratchAt (crewPlace 0 0x40) = true ∧
    ({ merging with core := { merging.core with bankMode := [(0, .cache)] } } : State).scratchAt (crewPlace 0 0x40) = false ∧
    (inCrew (0x80 + 4 * 7) = true ∧ inCrew 0xC0000 = false ∧ merging.scratchAt (crewPlace 0 (0x80 + 4 * 7)) = true) ∧
    (merging.getBar (crewPlace 0 0x200)).pend = 0 ∧ ((barred one 0).getBar (crewPlace 0 0)).pend ≠ 0 := by
  decide +kernel
theorem witness_ShootdownAndZeroing_walks :
    (let e : Word := wordOf 64 (agetN zeroByte tasked.mem (0x1000 + 8 * 0) 8);
      e.getLsbD 0 = true ∧ e.getLsbD 1 = false ∧ e.extractLsb' 48 16 = 0 ∧ e.extractLsb' 9 3 = 0 ∧ tasked.owns 0 0x2000 = true) ∧
    (let e : Word := wordOf 64 (agetN zeroByte tasked.mem (0x3000 + 8 * 0) 8);
      e.getLsbD 0 = true ∧ e.getLsbD 1 = true ∧ ¬ ∃ z ∈ (tasked.getPart 0).zeroing, z.1 < 0 + 2 ^ 30 ∧ 0 < z.1 + z.2) ∧
    (wordOf 64 (agetN zeroByte tasked.mem (0x1000 + 8 * 1) 8)).getLsbD 0 = false ∧
    ((partly (fun q => { q with zeroing := [(0x10000, 4096)] })).getPart 0).zeroing = [(0x10000, 4096)] ∧ (0x10000 < 0 + 2 ^ 30 ∧ 0 < 0x10000 + 4096) ∧
    (match tasked.walk 0 0x40 0x1000 walkLevels with
      | .ok (e, sh) => decide (sh = 30) && leafAllows e .load && leafAllows e .store
      | .error _ => false) = true ∧
    (match tasked.walk 0 (2 ^ 39) 0x1000 walkLevels with
      | .ok _ => false
      | .error c => c = cPAGE) = true ∧
    ((tasked.getPart 0).ptroot.toNat / 2 ^ 12 % 2 ^ 36 * 2 ^ 12 = 0x1000 ∧ tasked.owns 0 0x1000 = true ∧ tlbFind tasked.core.tlb 0 0x40 = none ∧
      tlbFind (tasked.getDie (dieOf tasked.coreId)).tlb 0 0x40 = none) ∧
    (0x40 / 2 ^ 56 = 0 ∧ ¬ (2 ^ 56 / 2 ^ 56 = 0 ∨ 2 ^ 56 / 2 ^ 56 = 0xFF)) ∧
    (0xBFFFF < 0x100000 ∧ 0xC0000 < 0x100000) ∧ localPlace 0 (0xFFFFF00000000000 : Word).toNat = some (0, 0) ∧
    localPlace 0 (0xFFFFF000000C0000 : Word).toNat = none ∧ (0x7FFF / 0x8000 ≠ (0x7FFF + 4 - 1) / 0x8000) ∧
    ((two 7 3).getCore 0).modeAt 0 = .scratch ∧ BankMode.cache.admits .load = false ∧ (two 7 3).ctx.views = [] ∧
    (match tasked.translate tasked.myPart 0x40 .load true with
      | .ok _ => true
      | .error _ => false) = true ∧
    ({ State.reset with recovery := true } : State).recovery = true := by
  decide +kernel
theorem witness_ShootdownAndZeroing : ((partly (fun q => { q with shoots := 1 })).getPart 0).shoots ≠ 0 ∧
    (partly (fun q => { q with shoots := 1 })).clean.translatedPending 0 = false ∧
    (let s := State.reset.placed []; let n := 2 ^ pageBits 0;
      s.owns 0 (0x10000#48).toNat = true ∧ s.owns 0 (0x10000 + n - 1) = true ∧ (0x10000#48).toNat % n = 0 ∧
      s.owns 0 (0x400000000#48).toNat = false) ∧
    ((partly (fun q => { q with zeroing := [(0x10000, 4096)] })).getPart 0).zeroing = (0x10000, 4096) :: [] :=
  ⟨by decide +kernel, by decide +kernel, by decide +kernel, by decide +kernel⟩
theorem witness_PartitionsAndRegisters : ((State.reset.placed []).getPart 0).formed = true ∧
    ((partly (fun q => { q with tasks := [] })).getPart 0).tasks = [] ∧ ((State.reset.placed []).getPart 0).tasks ≠ [] ∧
    (State.reset.getPart 0).formed = false ∧ (2#16).toNat ≠ 0 ∧ (State.reset.placed []).berthsTaken 2 = false ∧
    (State.reset.placed []).berthsTaken 1 = true ∧ (State.reset.placed []).recovery = false ∧
    (State.reset.placed []).functionTaken 0 = true ∧ (State.reset.placed []).functionTaken 1 = false :=
  ⟨by decide +kernel, by decide +kernel, by decide +kernel, by decide, by decide, by decide +kernel, by decide +kernel, rfl, by decide +kernel, by decide +kernel⟩
/-- Partition 0 in these states of a save, at CYC 1000, with no task running. -/
def preempting (st hv : Nat) : State :=
  let s := partly (fun q => { q with preState := st, hvState := hv })
  { s with cyc := 1000, ctx := { s.ctx with status := .idle } }
/-- The same with context 0 running. -/
def forcing : State := { preempting 1 0 with ctx := { (preempting 1 0).ctx with status := .ready } }
theorem witness_PreemptionStates :
    (∀ st hv : Fin 4, ((preempting st.1 hv.1).getPart 0).preState = st.1 ∧ ((preempting st.1 hv.1).getPart 0).hvState = hv.1) ∧
    (preempting 0 0).clean.busy 0 = [] ∧ ((preempting 2 0).getPart 0).saved = [] ∧ ((preempting 0 3).getPart 0).guestCmds = [] ∧
    (let s : State := { forcing with cyc := 2 ^ 40 }; let q := s.getPart 0;
      q.preState = 1 ∧ q.bound ≤ s.cyc - q.preSince ∧ 2 * q.bound ≤ s.cyc - q.preSince ∧ 0 ∈ s.clean.busy 0 ∧
      afind q.saved 0 = none) ∧
    (let s : State := { forcing with cyc := 2 ^ 40 }; (({ s with ctx := { s.ctx with loops := ⟨[], []⟩ } } : State).modPend (fun p =>
      { p with flight := [(1, .v aFlight)] })).getCtx 0 |>.atPoint) = false :=
  ⟨by decide +kernel, by decide +kernel, by decide +kernel, by decide +kernel, by decide +kernel,
    by decide +kernel⟩
/-- A context that a save holds, or that a hint names parts of, or that waits. -/
def holding (st : Status) : State := { preempting 1 0 with ctx := { (preempting 1 0).ctx with status := st } }
theorem witness_PreemptionStates_contexts : (two 7 3).ctx.isBlocked = false ∧
    (waitingWith 0 1 0x2C100000 .idle).waiting = [.sleepu 1] ∧ (waitingWith 5 1 0x44304000 .set).waiting = [.mwait 3 1] ∧
    (waitingWith 5 1 0x44304000 .set).ctx.status = .blocked 0 false none ∧ (waitingWith 0 1 0x44304000 .set).ctx.watch.st = .set ∧
    (∃ v, (waitingWith 0 1 0x44304000 .set).readS 0 1 = .ok (0, v)) ∧ (waitingWith 5 1 0x44304000 .idle).ctx.watch.st ≠ .set ∧
    ((holding (.saving none)).getCtx 0).atPoint = true ∧ (let s := holding .ready; ({ s with core := { s.core with eq := [(3, [bankCmd])] } } : State).saveClear 0 = false) ∧
    ((holding (.saving none)).getPart 0).preState = 1 ∧ ((holding (.saving none)).getPart 0).hvState = 0 ∧
    afind ((holding (.saving none)).getPart 0).saved 0 = none ∧ (holding (.saving none)).saveClear 0 = true ∧
    (holding (.saving (some (3, none)))).ctx.status = .saving (some (3, none)) ∧ ({ tasked with mem := asetN zeroByte tasked.mem 0x3100 (toBytes 0x1F 8) } : State).restoreFault 0 = none ∧
    (holding (.saving (some (3, some (1, 2, 3, 4))))).ctx.status = .saving (some (3, some (1, 2, 3, 4))) ∧
    (holding (.saving none)).clean.allSaved 0 = false ∧ (preempting 1 0).clean.allSaved 0 = true ∧ ((preempting 1 0).getPart 0).hvState = 0 ∧
    windowed.core.arr.claim = some windowed.ctxId ∧ State.reset.core.arr.claim ≠ some State.reset.ctxId :=
  ⟨by decide, by decide +kernel, by decide +kernel, rfl, rfl, ⟨_, rfl⟩, by decide, by decide +kernel, by decide +kernel, by decide +kernel,
    by decide +kernel, by decide +kernel, by decide +kernel, rfl, by decide +kernel, rfl, by decide +kernel, by decide +kernel, by decide +kernel,
    by decide, by decide⟩
/-- A flit that is not acknowledged. -/
def aFlit (seq : BitVec 32) : Flit := ⟨seq, 0, 0, 0, 0, 0, 0, 0, 0, 0⟩
/-- Port 1 as given, at CYC 8192. -/
def linked (f : Port → Port) : State := { State.reset with cyc := 8192, ports := [(1, f { Port.reset with st := 2 })] }
theorem witness_LinkEvents : (State.reset.getPort 1).st ≠ 2 ∧ ((linked id).getPort 1).st = 2 ∧ ((linked id).getPort 1).tx.retry = [] ∧
    (let q := (linked (fun q => { q with tx := { q.tx with retry := [aFlit 0, aFlit 1] } })).getPort 1;
      q.tx.retry.filter (fun f => seqBefore ((1 : BitVec 32) - 1) f.seq) = aFlit 1 :: [] ∧ q.tx.retry = aFlit 0 :: [aFlit 1] ∧
      aget 0 q.tx.failures (aFlit 1).seq.toNat = 0 ∧ q.tx.ackedAt + 8192 ≤ (linked id).cyc) ∧
    ((aFlit 5).seq ≠ ((linked id).getPort 1).rx.seq ∧ ((aFlit 5).seq - ((linked id).getPort 1).rx.seq).toNat < 2 ^ 31) ∧
    ((linked (fun q => { q with rx := { q.rx with nakOut := true } })).getPort 1).rx.nakOut = true ∧
    (aFlit 0).seq = ((linked id).getPort 1).rx.seq ∧ (aFlit 0).type = 0 ∧
    ((linked (fun q => { q with st := 3 })).getPort 1).st = 3 ∧ (State.reset.getPort 1).st = 0 ∧ State.reset.waitingOn 1 = [] ∧
    (let q := (linked (fun q => { q with tx := { q.tx with counters := [(0, 2 ^ 32)], slots := [(0, 1)] } })).getPort 1;
      q.tx.due = true ∧ q.tx.keyexh = false ∧ q.tx.retry.length < 512 ∧ q.tx.slotAt (1 - q.tx.cur) ≠ 1) ∧
    (let q := (linked (fun q => { q with tx := { q.tx with counters := [(0, 2 ^ 32)], slots := [(0, 1), (1, 1)] } })).getPort 1;
      q.tx.due = true ∧ q.tx.slotAt (1 - q.tx.cur) = 1) ∧
    (let q := (linked (fun q => { q with tx := { q.tx with counters := [(0, 2 ^ 40 - 1)] } })).getPort 1;
      lastCounter ≤ q.tx.counter ∧ q.tx.slotAt (1 - q.tx.cur) ≠ 1) ∧
    ((linked id).getPort 1).rx.slotAt (0#1).toNat ≠ 1 ∧
    ((0x100000#64).toNat = 2 ^ 20 ∧ (0xFFFFFFFFFF#64).toNat = 2 ^ 40 - 1 ∧ (0xFFFFF#64).toNat < 2 ^ 20 ∧ 2 ^ 40 - 1 < (0x10000000000#64).toNat) ∧
    (State.reset.getPart 0).formed = false ∧ ((State.reset.placed []).getPart 0).formed = true ∧
    (let m : PutMsg := ⟨1, 0, 0, 0, [], 0, [], 0, none, 0, 0, 9, false⟩; m.data = [] ∧ m.barrier = none) :=
  ⟨by decide, by decide, by decide, by decide +kernel, by decide +kernel, by decide, by decide, by decide, by decide, by decide, by decide,
    by decide +kernel, by decide +kernel, by decide +kernel, by decide, by decide, by decide, by decide +kernel, by decide⟩
theorem witness_StartsErrorsAndGovernor : State.reset.power = true ∧ ({ State.reset with power := false } : State).power = false ∧
    State.reset.recovery = false ∧ (4#32).toNat % 8 ≠ 0 ∧ (0 : BitVec 32).toNat % 8 = 0 ∧ ([5, 6] : List Word).length = imageWords (16#32).toNat ∧
    State.reset.berthOf (0 : BitVec 48).toNat = some 0 ∧ (99 : Nat) < 115 ∧ 115 ≤ (115 : Nat) ∧ (100 ≤ 100 ∧ 100 < 110) ∧ 110 ≤ (110 : Nat) :=
  ⟨rfl, rfl, rfl, by decide, by decide, by decide, by decide +kernel, by decide⟩
/-- A bundle of ADD s3, s1, s2, where s1 is 7 and s2 is 3. -/
def adding : State :=
  let s := State.reset.placed (toBytes 2 2 ++ toBytes 0x00304200 4)
  { s with ctx := { s.ctx with r := { s.ctx.r with s := [(1, 7), (2, 3)] } } }
theorem witness_StepRunsTheBundle : adding.agenda = [] ∧ adding.power = true ∧ adding.moves = [.bundle 0] ∧ adding.issuer 0 = some 0 ∧
    decodeSlot .s 0x00304200 = .ok (.add 3 1 2) ∧
    (let base := adding.focus 0 0;
      let f : State := ({ base with core := { base.core with selected := 0, woken := none } }).passLoads.unpause;
      f.ctx.startLoad = none ∧ f.spent = false ∧ (match f.fetch with
        | .ok (bs, u) => decide (bs = toBytes (2 ^ slotNo .s) 2 ++ toBytes 0x00304200 (slotBytes .s)) &&
            decide (u.ctx.status = .ready) && decide (u.ctx.mode = .user) && !u.ctx.skipC && !u.mustHold [.add 3 1 2]
        | .error _ => false) = true) :=
  ⟨rfl, rfl, by decide +kernel, by decide +kernel, rfl, by decide +kernel, by decide +kernel⟩
-- A step adds, and goes on six bytes further.
theorem test_step_add : (match step adding with
    | .next t => decide (aget 0 t.ctx.r.s 3 = 10 ∧ t.ctx.pc = 0x10006 ∧ t.ctx.npc = 0x10006)
    | _ => false) = true := by decide +kernel
theorem witness_EncodedInstructionsDecodeBack : (Instr.add 3 1 2).slot = some .s ∧ (Instr.add 3 1 2).wf = true := by decide
theorem witness_DecodedBodiesEncodeBack : (0x00304200 : Nat) < 2 ^ (8 * slotBytes .s) ∧ decodeSlot .s 0x00304200 = .ok (.add 3 1 2) :=
  ⟨by decide, rfl⟩
theorem witness_ScalarFrame : (Instr.add 3 1 2).slot = some .s ∧ (∀ sd cr, Instr.add 3 1 2 ≠ .crr sd cr) ∧
    (∀ sa cr, Instr.add 3 1 2 ≠ .crw sa cr) ∧ (∀ sd sa vt, Instr.add 3 1 2 ≠ .setvl sd sa vt) ∧
    ∃ t, exec (.add 3 1 2) (two 7 3) = .next t ∧ t.evt = .none :=
  ⟨rfl, by simp, by simp, by simp, _, rfl, rfl⟩
/-- A core with one cache-way bank and one clean line in it. -/
def cached : State := { State.reset with core := { State.reset.core with
  bankMode := [(0, .cache)], l1 := [(8, ⟨0, List.replicate 128 5, BitVec.allOnes 32, 0, ⟨false, false⟩, 0⟩)] } }
theorem witness_StoresChangeTheirBytes : State.reset.ctx.views = [] ∧ (State.reset.getCore 0).modeAt 0 = .scratch ∧
    ([7] : List Byte) ≠ [] ∧ 0x400 % 128 + ([7] : List Byte).length ≤ 128 ∧ (State.reset.getCore 0).ways = [] ∧
    (cached.getCore 0).ways ≠ [] ∧ (∀ x ∈ (cached.getCore 0).l1, x.1 ≠ 0x400 / 128 → x.2.dirty = 0) ∧
    (afind (cached.getCore 0).l1 (0x400 / 128)).any (fun h => h.valid.getLsbD (5 / 4)) = true ∧
    ∀ e, (State.reset.getDie e).inbox = [] ∧ (State.reset.getDie e).own = [] :=
  ⟨by decide, by decide, by decide, by decide, by decide, by decide +kernel, by decide +kernel, by decide +kernel, fun _ => ⟨rfl, rfl⟩⟩
theorem witness_MemoryStaysCanonical : Memory.wf adding.mem = true ∧ ∃ t, step adding = .next t := by
  refine ⟨by decide +kernel, ?_⟩
  have h := test_step_add
  cases e : step adding with
  | next t => exact ⟨t, rfl⟩
  | fault f => rw [e] at h; cases h
  | refused r => rw [e] at h; cases h

/-! Single operations on single states; each result is worked out by hand from the rule it names. -/

/-- A register after an instruction; 0 when it stops. -/
def after (i : Instr) (s : State) (n : Nat) : Word :=
  match exec i s with
  | .next t => aget 0 t.ctx.r.s n
  | _ => 0

-- R134: addition wraps
theorem test_add_wraps : after (.add 3 1 2) (two (BitVec.allOnes 64) 2) 3 = 1 := by decide +kernel
-- R135: division truncates toward zero
theorem test_div_truncates : after (.div 3 1 2) (two (-7) 2) 3 = -3 := by decide +kernel
-- R135: the remainder takes the sign of the dividend
theorem test_rem_sign : after (.rem 3 1 2) (two (-7) 2) 3 = -1 := by decide +kernel
-- R134: the high half of an unsigned product
theorem test_mulhu : after (.mulhu 3 1 2) (two (BitVec.allOnes 64) 2) 3 = 1 := by decide +kernel
-- R134: the high half of a signed product
theorem test_mulh : after (.mulh 3 1 2) (two (BitVec.allOnes 64) 2) 3 = BitVec.allOnes 64 := by decide +kernel
-- R134: a count of leading zeros
theorem test_clz : after (.clz 3 1) (two 0x10 0) 3 = 59 := by decide +kernel
-- R136: an immediate is sign-extended
theorem test_addi : after (.addi 3 1 (-1)) (two 7 0) 3 = 6 := by decide +kernel
-- R139: a field of eight bits at bit four, sign-extended or not
theorem test_bfx : after (.bfx 3 1 4 8) (two 0xABCD 0) 3 = -68 := by decide +kernel
theorem test_bfxu : after (.bfxu 3 1 4 8) (two 0xABCD 0) 3 = 0xBC := by decide +kernel
-- R57: s62 reads the head of LDQ, and s0 reads 0
theorem test_ports : after (.add 3 62 0) (two 7 3) 3 = 5 := by decide +kernel
-- R57: a write of s0 is discarded
theorem test_zero_register : after (.add 0 1 2) (two 7 3) 0 = 0 := by decide +kernel
-- R116: a branch goes on at the bundle's address plus twice its offset
theorem test_branch : (match exec (.br 4) { two 7 3 with ctx := { (two 7 3).ctx with pc := 0x1000, npc := 0x1006 } } with
    | .next t => t.ctx.npc
    | _ => 0) = 0x1008 := by decide +kernel
-- R259: the modes of the table's lines
theorem test_line_modes :
    lineMode false ((List.replicate 32 (toBytes 0x3F800000 4)).flatten) = .repeated ∧
    lineMode false (((List.range 16).map (fun k => toBytes (0x7F0010000000 + 8 * k) 8)).flatten) = .delta1 ∧
    lineMode false (((List.range 16).map (fun k => toBytes (0x7F0010000000 + 64 * k) 8)).flatten) = .delta2 ∧
    lineMode false (((List.range 16).map (fun k => toBytes (0x7F0010000000 + 65536 * k) 8)).flatten) = .delta4 ∧
    lineMode false (((List.range 32).map (fun k => toBytes (1000 + k) 4)).flatten) = .raw := by decide +kernel
-- R259: a line of deltas arrives as it was
theorem test_cross_line : (let x := ((List.range 16).map (fun k => toBytes (0x7F0010000000 + 65536 * (15 - k)) 8)).flatten;
    crossLine false x = x) := by decide +kernel

/-! The published functions, on the examples that their standards give. -/

-- FIPS 180-4: SHA-256 of the three bytes of abc
theorem test_sha256 : sha256 [0x61, 0x62, 0x63] = 0xba7816bf8f01cfea414140de5dae2223b00361a396177a9cb410ff61f20015ad := by
  decide +kernel
-- The reference example of SipHash-2-4: key 00 to 0f, message 00 to 0e
theorem test_siphash : sipHash64 0x0f0e0d0c0b0a09080706050403020100 ((List.range 15).map (BitVec.ofNat 8)) = 0xa129ca6149be45e5 := by
  decide +kernel
-- FIPS 197, appendix C.3: the first and the last byte of the block
theorem test_aes256 : (let b := aesBlock ((List.range 32).map (BitVec.ofNat 8)) ((List.range 16).map (fun k => BitVec.ofNat 8 (17 * k)));
    (b.length, b.headD 0, b.getLastD 0)) = (16, 0x8e, 0x89) := by decide +kernel
-- The first test case of Galois/Counter Mode with a key of 256 bits: no data
theorem test_gcm : gcmTag 0 0 [] [] = 0x8b73cbc4f1b463a9b93645c7fb8a0f53 := by decide +kernel

/-! Further hypotheses of the statements on links. -/

theorem witness_LinkEvents_more :
    ((linked (fun q => { q with tx := { q.tx with keyexh := true } })).getPort 1).tx.keyexh = true ∧
    (let q := (linked (fun q => { q with st := 3 })).getPort 1; q.st = 3 ∧ q.failedTrainings = 0) ∧
    ((linked id).getPort 1).st ≠ 3 ∧ ((linked id).getPort 1).st ≠ 0 ∧ State.reset.inFlight = 0 := by decide +kernel
/-- A PUT of two bytes to an address of the placed partition, and one to an address that no table maps. -/
def aPut (a : Word) : PutMsg := ⟨1, 0, 0, 0, [0, 0, 0, 0, 0, 0], a, [5, 6], 2, none, 0, 0, 9, false⟩
theorem witness_LinkEvents_data :
    (aPut 0x40).op = 0 ∧ (aPut 0x40).data ≠ [] ∧ (aPut 0x40).data.length ≤ 128 - (aPut 0x40).addr.toNat % 128 ∧ (aPut 0x40).addr.toNat < lwin ∧
    tasked.inFlight = 0 ∧ (aPut 0x40).barrier = none ∧ tasked.recovery = false ∧ (tasked.getPart 0).formed = true ∧
    (match (tasked.clean.asPeerState 0).translate (tasked.clean.asPeerState 0).myPart 0x40 .engineWrite false with
      | .ok ((_, e), _) => e.testBit 5
      | .error _ => false) = true ∧
    (match (tasked.clean.asPeerState 0).translate (tasked.clean.asPeerState 0).myPart 0x40 .engineRead false with
      | .ok ((_, e), _) => e.testBit 5
      | .error _ => false) = true ∧ (2 : Nat) ≤ 32 - (0x40#64).toNat % 32 ∧
    (tasked.clean.peerWrite 0 (aPut 0x40)).2 = none ∧ (tasked.clean.peerWrite 0 (aPut 0x7FFFFFFF0000)).2.isSome = true ∧
    (match (tasked.clean.peerRead 0 0x40 2).2 with
      | .ok xs => decide (xs.length = 1)
      | .error _ => false) = true ∧
    (match (tasked.clean.peerRead 0 0x7FFFFFFF0000 2).2 with
      | .ok _ => false
      | .error _ => true) = true := by
  decide +kernel
theorem witness_StartsErrorsAndGovernor_more : 2 ≤ (0x2000#16).toNat / 4096 ∧ (0x1020#64).toNat / 128 = (0x20#41).toNat ∧
    (0 : BitVec 32) = 0 ∧ ([5, 6] : List Word) ≠ [] ∧ ([5, 6] : List Word).length ≤ 4096 ∧ (16#32) ≠ 0 ∧ (116 : Nat) ≥ 115 := by decide

end Sys2Proof.Tests
end

section
/-! O53: what a step does next, and the issue of a bundle of one slot. -/

namespace Sys2Proof.Machine

/-! The choice among the things that can happen next (00 R13). -/

/-- Time can pass wherever no core can issue. -/
theorem moves_ne_nil (s : State) : s.moves ≠ [] := by
  unfold State.moves
  cases s.bundleMoves <;> simp

theorem step_of_quiet {s : State} (ha : s.agenda = []) (hp : s.power = true) : step s = s.proceed Config.pick := by
  simp only [step, State.stepWith, ha, hp]

theorem proceed_of_one {s : State} {m : Move} (h : s.moves = [m]) (pick : Nat → Nat) : s.proceed pick = s.perform m := by
  simp only [State.proceed, h]

/-- Of several moves the one done is a listed one, after `tick` has counted the choice. -/
theorem proceed_performs_move (s : State) (pick : Nat → Nat) :
    ∃ m ∈ s.moves, s.proceed pick = s.perform m ∨ s.proceed pick = ({ s with tick := s.tick + 1 }).perform m := by
  rcases h : s.moves with _ | ⟨m, _ | ⟨m', ms⟩⟩
  · exact absurd h (moves_ne_nil s)
  · exact ⟨m, List.mem_singleton_self m, .inl (proceed_of_one h pick)⟩
  · have hlt : pick s.tick % ((m' :: ms).length + 1) < (m :: m' :: ms).length := Nat.mod_lt _ (Nat.succ_pos _)
    refine ⟨_, List.getElem_mem hlt, .inr ?_⟩
    simp only [State.proceed, h, List.getD_eq_getElem?_getD, List.getElem?_eq_getElem hlt, Option.getD_some]

/-! The bytes of a bundle of one slot (04 R67). -/

@[simp] theorem slotOf_slotNo (sl : Slot) : slotOf (slotNo sl) = sl := by cases sl <;> rfl

@[simp] theorem bodyWidth_slotNo (sl : Slot) : bodyWidth (slotNo sl) = slotBytes sl := by cases sl <;> rfl

theorem slotNo_lt (sl : Slot) : slotNo sl < 8 := by cases sl <;> decide

/-- Slots whose bit the header lacks are read as nothing. -/
theorem slotsFrom_absent (hist : List (Nat × Instr)) (h : Nat) (bs : List Byte) :
    ∀ ns : List Nat, (∀ n ∈ ns, h.testBit n = false) → slotsFrom hist h ns bs = .ok []
  | [], _ => rfl
  | n :: ns, hns => by
    have hn := hns n List.mem_cons_self
    have ht := slotsFrom_absent hist h (bs := bs) ns (fun m hm => hns m (List.mem_cons_of_mem n hm))
    simp only [slotsFrom, hn, ht, Bool.not_false, if_true]

/-- A header of one bit reads one body, in the slot of that bit. -/
theorem slotsFrom_two_pow (hist : List (Nat × Instr)) (k : Nat) (bs : List Byte) :
    ∀ ns : List Nat, ns.Nodup → k ∈ ns →
      slotsFrom hist (2 ^ k) ns bs = .ok [(k, readAs (slotOf k) (ofBytes (bs.take (bodyWidth k))))]
  | n :: ns, hd, hk => by
    obtain ⟨hn, hd'⟩ := List.nodup_cons.1 hd
    by_cases e : k = n
    · subst e
      have hrest : slotsFrom hist (2 ^ k) ns (bs.drop (bodyWidth k)) = .ok [] :=
        slotsFrom_absent hist _ _ ns fun m hm => by
          rw [Nat.testBit_two_pow]; exact decide_eq_false fun h => hn (h ▸ hm)
      have hrep : (2 ^ k).testBit (8 + k) = false := by
        rw [Nat.testBit_two_pow]; exact decide_eq_false (by omega)
      simp only [slotsFrom, Nat.testBit_two_pow_self, hrep, hrest, Bool.not_true, Bool.false_eq_true, if_false]
      rfl
    · have hbit : (2 ^ k).testBit n = false := by
        rw [Nat.testBit_two_pow]; exact decide_eq_false e
      have htail := slotsFrom_two_pow hist k bs ns hd' ((List.mem_cons.1 hk).resolve_left e)
      simp only [slotsFrom, hbit, htail, Bool.not_false, if_true]

theorem readAs_of_ok {sl : Slot} {n : Nat} {i : Instr} (h : decodeSlot sl n = .ok i) : readAs sl n = some i := by
  simp only [readAs, h]

theorem ofBytes_toBytes_of_lt {n v : Nat} (h : v < 2 ^ (8 * n)) : ofBytes (toBytes v n) = v := by
  rw [ofBytes_toBytes, Nat.mod_eq_of_lt (by rwa [show (256 : Nat) = 2 ^ 8 from rfl, ← Nat.pow_mul])]

/-- A bundle of one slot: its header, and the body of n. -/
def oneSlotBytes (sl : Slot) (n : Nat) : List Byte := toBytes (2 ^ slotNo sl) 2 ++ toBytes n (slotBytes sl)

@[simp] theorem length_oneSlotBytes (sl : Slot) (n : Nat) : (oneSlotBytes sl n).length = 2 + slotBytes sl := by
  simp [oneSlotBytes]

theorem slotBytes_pos (sl : Slot) : 0 < slotBytes sl := by cases sl <;> decide

theorem slots_oneSlotBytes (s : State) {sl : Slot} {n : Nat} {i : Instr} (hn : n < 2 ^ (8 * slotBytes sl))
    (hi : decodeSlot sl n = .ok i) : s.slots (oneSlotBytes sl n) = .ok [(slotNo sl, some i)] := by
  have hlen : (toBytes (2 ^ slotNo sl) 2).length = 2 := length_toBytes ..
  have hhead : ofBytes (toBytes (2 ^ slotNo sl) 2) = 2 ^ slotNo sl :=
    ofBytes_toBytes_of_lt (Nat.pow_lt_pow_right (by decide) (by have := slotNo_lt sl; omega))
  rw [State.slots, oneSlotBytes, List.take_left' hlen, List.drop_left' hlen, hhead,
    slotsFrom_two_pow _ _ _ _ List.nodup_range (List.mem_range.2 (slotNo_lt sl)), slotOf_slotNo, bodyWidth_slotNo,
    List.take_of_length_le (Nat.le_of_eq (length_toBytes ..)), ofBytes_toBytes_of_lt hn, readAs_of_ok hi]

/-! One slot in its turn (03 R58; 04 R72, R73). -/

@[simp] theorem inTurn_single (k : Nat) (i : Instr) : inTurn [(k, some i)] = [(k, some i)] := by
  cases k with
  | zero => simp [inTurn]
  | succ k => rfl

theorem acting_of_ready {s : State} (hs : s.ctx.status = .ready) (hk : s.ctx.mode = .user → s.ctx.skipC = false)
    (slots : List (Nat × Option Instr)) : s.acting slots = slots := by
  have hskip : (s.ctx.skipC && decide (s.ctx.mode = .user)) = false := by
    by_cases hm : s.ctx.mode = .user
    · simp [hk hm]
    · simp [hm]
  simp [State.acting, hs, hskip]

section OneSlot

variable {v w : State} {k : Nat} {i : Instr} {e : Stop}

theorem runBundle_single_done (hx : exec i v = .next w) (he : ∀ e, w.evt ≠ .stopped e) :
    v.runBundle [(k, some i)] = (w, none) := by
  cases h : w.evt with
  | none => simp [State.runBundle, State.runSlots, hx, h]
  | stopped e => exact absurd h (he e)
  | ended => simp [State.runBundle, State.runSlots, hx, h]

theorem runBundle_single_stopped (hx : exec i v = .next w) (he : w.evt = .stopped e) :
    v.runBundle [(k, some i)] = (v, some (k, e)) := by
  simp [State.runBundle, State.runSlots, State.lowestCause, hx, he]

end OneSlot

/-- What the only instruction of a bundle of n bytes acts on: the sequential next address, an earlier result discarded that
it overwrites, and no entry in LDQ where it pops more than are there (03 R58). -/
def State.readied (s : State) (n : Nat) (i : Instr) : State :=
  let x := ({ s with
    ctx := { s.ctx with npc := s.ctx.pc + BitVec.ofNat 64 n },
    evt := .none, latch := none }).supersede ((resultOf i).toList.map BitVec.toNat)
  if s.ctx.pend.ldq.length < s.popsOf i then x.modPend (fun p => { p with ldq := [] }) else x

theorem tryBundle_single {s : State} {k n : Nat} {i : Instr}
    (hm : s.ctx.mode = .user → s.ctx.skipC = false ∧ i ≠ .eret) (hh : s.mustHold [i] = false) :
    s.tryBundle n [(k, some i)] =
      ({ ((s.readied n i).runBundle [(k, some i)]).1 with latch := none }, ((s.readied n i).runBundle [(k, some i)]).2) := by
  have heret : (decide (s.ctx.mode = .user) && [i].contains .eret) = false := by
    by_cases h : s.ctx.mode = .user
    · simp [(hm h).2.symm]
    · simp [h]
  have hskip : (s.ctx.skipC && decide (s.ctx.mode = .handler)) = s.ctx.skipC := by
    cases h : s.ctx.mode with
    | user => simp [(hm h).1]
    | handler => simp
  have hpops : s.popsOfAll [i] = s.popsOf i := by simp [State.popsOfAll]
  have hres : [i].filterMap resultOf = (resultOf i).toList := by cases h : resultOf i <;> simp [h]
  have his : [(k, some i)].filterMap Prod.snd = [i] := rfl
  simp only [State.tryBundle, his, heret, hh, hskip, hpops, hres, inTurn_single, List.length_singleton, Nat.le_refl,
    Bool.false_eq_true, if_false, if_true]
  rfl

/-! The issue of a bundle of one slot (03 R50 to R53; 04 R73). -/

section Issue

variable {s w : State} {bs : List Byte} {k : Nat} {i : Instr} {e : Stop}

theorem issueBytes_single_done (hsl : s.slots bs = .ok [(k, some i)]) (hr : s.ctx.status = .ready)
    (hm : s.ctx.mode = .user → s.ctx.skipC = false ∧ i ≠ .eret) (hh : s.mustHold [i] = false)
    (hx : exec i (s.readied bs.length i) = .next w) (he : ∀ e, w.evt ≠ .stopped e) :
    s.issueBytes bs = ({ w with latch := none }).finish s.ctx.mode [(k, some i)] := by
  simp only [State.issueBytes, hsl, acting_of_ready hr fun h => (hm h).1, tryBundle_single hm hh,
    runBundle_single_done hx he, decide_true, Bool.true_or, if_true]

theorem issueBytes_single_stopped (hsl : s.slots bs = .ok [(k, some i)]) (hr : s.ctx.status = .ready)
    (hm : s.ctx.mode = .user → s.ctx.skipC = false ∧ i ≠ .eret) (hh : s.mustHold [i] = false)
    (hx : exec i (s.readied bs.length i) = .next w) (he : w.evt = .stopped e) :
    s.issueBytes bs = s.stopBundle { s.readied bs.length i with latch := none } bs [(k, some i)] k e := by
  simp only [State.issueBytes, hsl, acting_of_ready hr fun h => (hm h).1, tryBundle_single hm hh,
    runBundle_single_stopped hx he]

end Issue

/-- A fetched bundle that is no line pad is issued, unless the slice is spent. -/
theorem issue_of_fetch {s t : State} {bs : List Byte} (hl : s.unpause.ctx.startLoad = none)
    (hs : s.unpause.spent = false) (hf : s.unpause.fetch = .ok (bs, t)) (hn : bs.length ≠ 2) :
    s.issue = .next (t.passLoads.issueBytes bs) := by
  simp only [State.issue, hl, hf, hs, hn, decide_false, Bool.false_and, Bool.false_eq_true, if_false]

/-- The state in which context k of core c issues: the selector has come to it. -/
def State.issuing (s : State) (c k : Nat) : State :=
  let base := s.focus c (k % 4)
  { base with core := { base.core with selected := k % 4, woken := none } }

theorem perform_bundle_of_issue {s u : State} {c k : Nat} (hc : s.issuer c = some k)
    (h : (s.issuing c k).issue = .next u) : s.perform (.bundle c) = .next (u.focus s.coreId s.ctxId) := by
  unfold State.issuing at h
  simp only [State.perform, State.issueCore, hc, h]

/-- Settles O53: the choice among the moves, then the path from the core's issuer through fetch, decoding and the one
slot to the bundle's end or to what its stop says. -/
theorem stepRunsTheBundle : Obligations.StepRunsTheBundle := by
  unfold Obligations.StepRunsTheBundle
  refine ⟨fun s ha hp => ?_, ?_⟩
  · rw [step_of_quiet ha hp]
    exact ⟨fun m hm => proceed_of_one hm _, proceed_performs_move s _⟩
  · intro s f t u x v w c k n sl i bytes base hc hf hl hs hfetch hu hn hi hr hm hh hx hv hw
    have hbytes : bytes.length = 2 + slotBytes sl := length_oneSlotBytes sl n
    have hlen : bytes.length ≠ 2 := by have := slotBytes_pos sl; omega
    have hsl : u.slots bytes = .ok [(slotNo sl, some i)] := slots_oneSlotBytes u hn hi
    have hready : v = u.readied bytes.length i := by rw [hv, hx, hbytes]; rfl
    have hissue : s.perform (.bundle c) = .next ((u.issueBytes bytes).focus s.coreId s.ctxId) := by
      subst hf hu
      exact perform_bundle_of_issue hc (issue_of_fetch hl hs hfetch hlen)
    subst hready
    rw [hissue]
    exact ⟨fun he => by rw [issueBytes_single_done hsl hr hm hh hw he],
      fun e he => by rw [issueBytes_single_stopped hsl hr hm hh hw he]⟩

end Sys2Proof.Machine

end

section
/-! O9: the values that FMT, MFPn and TSHAPEn accept (02 R24, R38, R46; 03 R60). -/

namespace Sys2Proof.Machine

@[simp] theorem fld_zero_five (v : Nat) : fld v 0 5 = v % 32 := by simp [fld]

/-- FMT's fields are checked one by one, and its element type by itself. -/
theorem fmtOk_iff_fields (v : Nat) : fmtOk v = true ↔
    v / 2 ^ 13 % 2 ^ 13 = 0 ∧ v / 2 ^ 9 % 8 ≤ 4 ∧ v / 2 ^ 5 % 8 ≤ 5 ∧ fmtOk (v % 32) = true := by
  have hz : v % 32 / 32 = 0 := Nat.div_eq_of_lt (Nat.mod_lt _ (by decide))
  have h9 : v % 32 / 512 = 0 := by omega
  have h13 : v % 32 / 8192 = 0 := by omega
  simp only [fmtOk, fld_zero_five, Nat.mod_mod, Bool.and_eq_true, decide_eq_true_eq, and_assoc]
  simp [fld, hz, h9, h13]

theorem fmtOk_iff (v : Nat) : fmtOk v = true ↔ v / 2 ^ 13 % 2 ^ 13 = 0 ∧ v / 2 ^ 9 % 8 ≤ 4 ∧ v / 2 ^ 5 % 8 ≤ 5 ∧
    v % 32 ∈ [0, 1, 2, 3, 4, 5, 8, 9, 10, 11, 12, 31] := by
  have htype : ∀ t < 32, fmtOk t = true ↔ t ∈ [0, 1, 2, 3, 4, 5, 8, 9, 10, 11, 12, 31] := by decide
  rw [fmtOk_iff_fields, htype _ (Nat.mod_lt _ (by decide))]

theorem pairOk_iff : ∀ a < 32, ∀ b < 32, pairOk a b = true ↔ (a, b) ∈ [(0, 0), (0, 1), (1, 0), (1, 1), (8, 8), (8, 9),
    (9, 8), (9, 9), (8, 16), (9, 16), (16, 8), (16, 9), (16, 16), (10, 10), (11, 11)] := by
  decide

theorem mfpOk_iff (v : Nat) : mfpOk v = true ↔ v < 1024 ∧ (v % 32, v / 32) ∈ [(0, 0), (0, 1), (1, 0), (1, 1), (8, 8), (8, 9),
    (9, 8), (9, 9), (8, 16), (9, 16), (16, 8), (16, 9), (16, 16), (10, 10), (11, 11)] := by
  have hb : v < 1024 → v / 32 % 32 = v / 32 := fun h => Nat.mod_eq_of_lt (by omega)
  have hp := pairOk_iff (v % 32) (Nat.mod_lt _ (by decide)) (v / 32 % 32) (Nat.mod_lt _ (by decide))
  have hz : v / 1024 = 0 ↔ v < 1024 := by omega
  simp only [mfpOk, fld, Nat.pow_zero, Nat.div_one, Nat.reducePow, Bool.and_eq_true, decide_eq_true_eq, hz, hp]
  exact and_congr_right fun h => by rw [hb h]

/-- A shape's element type, by what TSHAPEn asks of it: B4 has its own measure, four kinds of code are refused, and the
others are whole bytes. -/
theorem shape_type_cases : ∀ t < 32,
    (t = 16 ∧ elemTypeOf t = some .b4) ∨
    (t ∉ [0, 1, 2, 3, 4, 5, 8, 9, 10, 11, 12, 16] ∧ elemTypeOf t ∈ [none, some .i64, some .b6, some .dyn]) ∨
    (t ∈ [0, 1, 2, 3, 4, 5, 8, 9, 10, 11, 12, 16] ∧ t ≠ 16 ∧
      elemTypeOf t ∈ [some .i8, some .n8, some .i16, some .n16, some .i32, some .n32, some .e4m3, some .e5m2, some .fp16,
        some .bf16, some .fp32] ∧
      typeWidth t / 8 = if t ∈ [0, 1, 8, 9] then 1 else if t ∈ [2, 3, 10, 11] then 2 else 4) := by
  decide

section Shape

variable {v : Nat}

theorem tshapeOk_of_refused (h : elemTypeOf (v % 32) ∈ [none, some .i64, some .b6, some .dyn]) : tshapeOk v = false := by
  simp only [List.mem_cons, List.not_mem_nil, or_false] at h
  rcases h with h | h | h | h <;> simp [tshapeOk, h]

theorem tshapeOk_of_b4 (h : elemTypeOf (v % 32) = some .b4) :
    tshapeOk v = true ↔ v / 2 ^ 20 = 0 ∧ fld v 12 8 + 1 ≤ 128 ∧
    (fld v 5 7 + 1) * ((fld v 12 8 + 1 + 1) / 2) + (fld v 5 7 + 1) * ((fld v 12 8 + 1 + 31) / 32) ≤ 16384 := by
  simp [tshapeOk, h, and_assoc]

theorem tshapeOk_of_bytes (h : elemTypeOf (v % 32) ∈ [some .i8, some .n8, some .i16, some .n16, some .i32, some .n32,
    some .e4m3, some .e5m2, some .fp16, some .bf16, some .fp32]) :
    tshapeOk v = true ↔ v / 2 ^ 20 = 0 ∧ fld v 12 8 + 1 ≤ 128 ∧
    (fld v 5 7 + 1) * (fld v 12 8 + 1) * (typeWidth (v % 32) / 8) ≤ 16384 := by
  simp only [List.mem_cons, List.not_mem_nil, or_false] at h
  rcases h with h | h | h | h | h | h | h | h | h | h | h <;> simp [tshapeOk, h, and_assoc]

/-- Any B4 shape of 128 rows and 128 columns at most fits, whether an odd last half byte is rounded up or not. -/
theorem b4_shape_fits {r c : Nat} (hr : r ≤ 128) (hc : c ≤ 128) :
    r * ((c + 1) / 2) + r * ((c + 31) / 32) ≤ 16384 ∧ r * c + 2 * (r * ((c + 31) / 32)) ≤ 2 * 16384 := by
  have hhalf : r * ((c + 1) / 2) ≤ 128 * 64 := Nat.mul_le_mul hr (by omega)
  have hscale : r * ((c + 31) / 32) ≤ 128 * 4 := Nat.mul_le_mul hr (by omega)
  have hall : r * c ≤ 128 * 128 := Nat.mul_le_mul hr hc
  omega

theorem tshapeOk_iff (v : Nat) :
    let ty := v % 32
    let rows := v / 2 ^ 5 % 128 + 1
    let cols := v / 2 ^ 12 % 256 + 1
    let bytes := if ty ∈ [0, 1, 8, 9] then 1 else if ty ∈ [2, 3, 10, 11] then 2 else 4
    tshapeOk v = true ↔ v < 2 ^ 20 ∧ cols ≤ 128 ∧ ty ∈ [0, 1, 2, 3, 4, 5, 8, 9, 10, 11, 12, 16] ∧
      if ty = 16 then rows * cols + 2 * (rows * ((cols + 31) / 32)) ≤ 2 * 16384 else rows * cols * bytes ≤ 16384 := by
  intro ty rows cols bytes
  have hsize : v / 2 ^ 20 = 0 ↔ v < 2 ^ 20 := by omega
  have hrows : rows ≤ 128 := Nat.succ_le_of_lt (Nat.mod_lt _ (by decide))
  rcases shape_type_cases ty (Nat.mod_lt _ (by decide)) with ⟨hty, ht⟩ | ⟨hty, ht⟩ | ⟨hmem, hty, ht, hbytes⟩
  · rw [tshapeOk_of_b4 ht, hsize, if_pos hty, hty]
    exact and_congr_right fun _ => and_congr_right fun hc =>
      iff_of_true (b4_shape_fits hrows hc).1 ⟨by decide, (b4_shape_fits hrows hc).2⟩
  · simp [tshapeOk_of_refused ht, hty]
  · rw [tshapeOk_of_bytes ht, hsize, if_neg hty, hbytes]
    exact and_congr_right fun _ => and_congr_right fun _ => (and_iff_right hmem).symm

end Shape

end Sys2Proof.Machine
end

section
/-! O9: rounding to one of the two neighbours of a value (02 R35). -/

namespace Sys2Proof.Machine

/-- What a mode adds to the lower neighbour of a value between two integers: 1 for the upper one. -/
def roundStep (mode : Nat) (neg : Bool) (m sh : Nat) (g : Rng) (lane : Nat) : Nat :=
  if roundUp mode neg (m / 2 ^ sh % 2 = 1) (m % 2 ^ sh) sh (if mode = 5 then (g.draw lane).1 else 0) then 1 else 0

section RoundNat

variable {mode m sh lane : Nat} {neg : Bool} {g : Rng}

theorem roundNat_exact (h : m % 2 ^ sh = 0) : roundNat mode neg m sh g lane = (m / 2 ^ sh, false, g) := by
  simp [roundNat, h]

theorem roundNat_inexact (h : m % 2 ^ sh ≠ 0) : roundNat mode neg m sh g lane =
    (m / 2 ^ sh + roundStep mode neg m sh g lane, true, if mode = 5 then (g.draw lane).2 else g) := by
  simp only [roundNat, h, if_false, roundStep, apply_ite (m / 2 ^ sh + ·), Nat.add_zero]
  by_cases h5 : mode = 5 <;> simp [h5]

theorem roundStep_eq_zero_or_one (mode : Nat) (neg : Bool) (m sh : Nat) (g : Rng) (lane : Nat) :
    roundStep mode neg m sh g lane = 0 ∨ roundStep mode neg m sh g lane = 1 := by
  unfold roundStep
  cases roundUp mode neg (m / 2 ^ sh % 2 = 1) (m % 2 ^ sh) sh (if mode = 5 then (g.draw lane).1 else 0)
  · exact .inl rfl
  · exact .inr rfl

/-- The rounded value is one of the two neighbours. -/
theorem roundNat_bounds (mode : Nat) (neg : Bool) (m sh : Nat) (g : Rng) (lane : Nat) :
    m / 2 ^ sh ≤ (roundNat mode neg m sh g lane).1 ∧
    (roundNat mode neg m sh g lane).1 ≤ m / 2 ^ sh + 1 := by
  by_cases h : m % 2 ^ sh = 0
  · simp [roundNat_exact h]
  · rw [roundNat_inexact h]
    rcases roundStep_eq_zero_or_one mode neg m sh g lane with h | h <;> simp [h]

/-! Which neighbour each mode takes. -/

theorem roundStep_nearestEven (neg : Bool) (m sh : Nat) (g : Rng) (lane : Nat) :
    (2 * (m % 2 ^ sh) < 2 ^ sh → roundStep 0 neg m sh g lane = 0) ∧
    (2 ^ sh < 2 * (m % 2 ^ sh) → roundStep 0 neg m sh g lane = 1) ∧
    (2 * (m % 2 ^ sh) = 2 ^ sh → (m / 2 ^ sh + roundStep 0 neg m sh g lane) % 2 = 0) := by
  refine ⟨fun h => ?_, fun h => ?_, fun h => ?_⟩
  · simp [roundStep, roundUp, Nat.ne_of_lt h, Nat.le_of_lt h]
  · simp [roundStep, roundUp, h]
  · rcases Nat.mod_two_eq_zero_or_one (m / 2 ^ sh) with hlo | hlo
    · simp [roundStep, roundUp, h, hlo]
    · simp [roundStep, roundUp, h, Nat.add_mod, hlo]

@[simp] theorem roundStep_towardZero : roundStep 1 neg m sh g lane = 0 := rfl

@[simp] theorem roundStep_up : roundStep 2 neg m sh g lane = if neg then 0 else 1 := by
  cases neg <;> rfl

@[simp] theorem roundStep_down : roundStep 3 neg m sh g lane = if neg then 1 else 0 := by
  cases neg <;> rfl

theorem roundStep_nearestAway : roundStep 4 neg m sh g lane = 1 ↔ 2 ^ sh ≤ 2 * (m % 2 ^ sh) := by
  simp [roundStep, roundUp]

theorem roundStep_stochastic : roundStep 5 neg m sh g lane = 1 ↔
    if neg then (2 ^ sh - m % 2 ^ sh) * 65536 ≤ (g.draw lane).1 * 2 ^ sh
    else (g.draw lane).1 * 2 ^ sh < m % 2 ^ sh * 65536 := by
  cases neg <;> simp [roundStep, roundUp]

end RoundNat

/-- R35, for every mode at once. -/
theorem roundNat_takes_a_neighbour (mode m sh lane : Nat) (neg : Bool) (g : Rng) :
    let r := roundNat mode neg m sh g lane
    let lo := m / 2 ^ sh
    let part := m % 2 ^ sh
    let d := (g.draw lane).1
    (part = 0 → r = (lo, false, g)) ∧
    (part ≠ 0 → r.2.1 = true ∧ (r.1 = lo ∨ r.1 = lo + 1) ∧ r.2.2 = (if mode = 5 then (g.draw lane).2 else g) ∧
      (mode = 0 → (2 * part < 2 ^ sh → r.1 = lo) ∧ (2 ^ sh < 2 * part → r.1 = lo + 1) ∧
        (2 * part = 2 ^ sh → r.1 % 2 = 0)) ∧
      (mode = 1 → r.1 = lo) ∧ (mode = 2 → (r.1 = lo + 1 ↔ neg = false)) ∧ (mode = 3 → (r.1 = lo + 1 ↔ neg = true)) ∧
      (mode = 4 → (r.1 = lo + 1 ↔ 2 ^ sh ≤ 2 * part)) ∧
      (mode = 5 → (r.1 = lo + 1 ↔
        if neg then (2 ^ sh - part) * 65536 ≤ d * 2 ^ sh else d * 2 ^ sh < part * 65536))) := by
  intro r lo part d
  refine ⟨roundNat_exact, fun hp => ?_⟩
  have hr : r = (lo + roundStep mode neg m sh g lane, true, if mode = 5 then (g.draw lane).2 else g) := roundNat_inexact hp
  rw [hr]
  refine ⟨rfl, (roundStep_eq_zero_or_one mode neg m sh g lane).imp (congrArg (lo + ·)) (congrArg (lo + ·)), rfl,
    ?nearestEven, ?towardZero, ?up, ?down, ?nearestAway, ?stochastic⟩
  case nearestEven =>
    rintro rfl
    obtain ⟨hbelow, habove, htie⟩ := roundStep_nearestEven neg m sh g lane
    exact ⟨fun h => congrArg (lo + ·) (hbelow h), fun h => congrArg (lo + ·) (habove h), htie⟩
  case towardZero => rintro rfl; simp
  case up => rintro rfl; simp
  case down => rintro rfl; simp
  case nearestAway => rintro rfl; exact (Nat.add_right_inj (n := lo)).trans roundStep_nearestAway
  case stochastic => rintro rfl; exact (Nat.add_right_inj (n := lo)).trans roundStep_stochastic

end Sys2Proof.Machine
end

section
/-! O9: exact values in units of a common power of two, and the exact sums and products (08 R155, R158). -/

namespace Sys2Proof.Machine

/-- How many units of `2 ^ z` a mantissa and an exponent stand for, where `z` is at most the exponent. -/
def magnitudeAt (z : Int) (m : Nat) (e : Int) : Nat := m * 2 ^ (e - z).toNat

section Scaled

variable {m n : Nat} {a b : Bool} {e k q z : Int}

theorem magnitudeAt_zero : magnitudeAt z 0 e = 0 := Nat.zero_mul _

theorem magnitudeAt_mul_two_pow (h : z ≤ e) (m t : Nat) : magnitudeAt z (m * 2 ^ t) e = magnitudeAt z m (e + t) := by
  have hexp : (e + t - z).toNat = t + (e - z).toNat := by omega
  rw [magnitudeAt, magnitudeAt, hexp, Nat.pow_add, Nat.mul_assoc]

theorem magnitudeAt_lt_iff : magnitudeAt z m e < magnitudeAt z n e ↔ m < n := Nat.mul_lt_mul_right (Nat.two_pow_pos _)

theorem magnitudeAt_le_iff : magnitudeAt z m e ≤ magnitudeAt z n e ↔ m ≤ n := by
  rw [← Nat.not_lt, magnitudeAt_lt_iff, Nat.not_lt]

theorem magnitudeAt_eq_of_le (hz : z ≤ q) (hq : q ≤ e) : magnitudeAt z m e = magnitudeAt z (m * 2 ^ (e - q).toNat) q := by
  have hexp : q + ((e - q).toNat : Int) = e := by omega
  rw [magnitudeAt_mul_two_pow hz, hexp]

/-- The comparison of the model is that of the units. -/
theorem lt_fin_iff (he : z ≤ e) (hk : z ≤ k) :
    FVal.lt (.fin false m e) (.fin false n k) = true ↔ magnitudeAt z m e < magnitudeAt z n k := by
  have hz : z ≤ min e k := Int.le_min.2 ⟨he, hk⟩
  rw [magnitudeAt_eq_of_le hz (Int.min_le_left e k), magnitudeAt_eq_of_le hz (Int.min_le_right e k), magnitudeAt_lt_iff]
  simp only [FVal.lt, scaled, Bool.false_eq_true, if_false, decide_eq_true_eq, Int.ofNat_lt]

theorem lt_fin_eq_false_iff (he : z ≤ e) (hk : z ≤ k) :
    FVal.lt (.fin false m e) (.fin false n k) = false ↔ magnitudeAt z n k ≤ magnitudeAt z m e := by
  rw [← Nat.not_lt, ← lt_fin_iff he hk, Bool.not_eq_true]

theorem scaled_zero : scaled a 0 e z = 0 := by
  cases a <;> simp only [scaled, Nat.zero_mul] <;> rfl

/-- A value at a lower exponent. -/
theorem scaled_lower (hz : z ≤ q) (hq : q ≤ e) : scaled a m e z = scaled a m e q * (2 ^ (q - z).toNat : Nat) := by
  have hexp : (e - z).toNat = (e - q).toNat + (q - z).toNat := by omega
  simp only [scaled, hexp, Nat.pow_add, ← Nat.mul_assoc]
  rw [Int.natCast_mul]
  cases a with
  | false => rfl
  | true => exact (Int.neg_mul _ _).symm

/-- A number taken apart into its sign and its magnitude. -/
theorem scaled_natAbs (x q z : Int) : scaled (x < 0) x.natAbs q z = x * (2 ^ (q - z).toNat : Nat) := by
  by_cases h : x < 0
  · have habs : (x.natAbs : Int) = -x := by omega
    simp only [scaled, h, decide_true, if_true]
    rw [Int.natCast_mul, habs, Int.neg_mul, Int.neg_neg]
  · have habs : (x.natAbs : Int) = x := by omega
    simp only [scaled, h, decide_false, Bool.false_eq_true, if_false]
    rw [Int.natCast_mul, habs]

theorem add_fin_of_sum_eq_zero (mode : Nat) (hx : scaled a m e (min e k) + scaled b n k (min e k) = 0) :
    FVal.add mode (.fin a m e) (.fin b n k) = (.fin (zeroSign mode a b) 0 0, false) := by
  simp only [FVal.add, hx, if_true]
  split <;> rfl

theorem add_fin_of_sum_ne_zero (mode : Nat) {x : Int} (hx : scaled a m e (min e k) + scaled b n k (min e k) = x) (h : x ≠ 0) :
    FVal.add mode (.fin a m e) (.fin b n k) = (.fin (x < 0) x.natAbs (min e k), false) := by
  have h0 : ¬ (m = 0 ∧ n = 0) := by
    rintro ⟨rfl, rfl⟩
    rw [scaled_zero, scaled_zero] at hx
    exact h hx.symm
  simp only [FVal.add, hx, if_neg h, Bool.and_eq_true, decide_eq_true_eq, if_neg h0]

theorem add_exact (mode m n : Nat) (a b : Bool) (e k : Int) :
    ∃ c p q, FVal.add mode (.fin a m e) (.fin b n k) = (.fin c p q, false) ∧
      ∀ z, z ≤ e → z ≤ k → scaled c p q z = scaled a m e z + scaled b n k z := by
  obtain ⟨x, hx⟩ : ∃ x, scaled a m e (min e k) + scaled b n k (min e k) = x := ⟨_, rfl⟩
  have hlower : ∀ z, z ≤ e → z ≤ k →
      scaled a m e z + scaled b n k z = x * (2 ^ (min e k - z).toNat : Nat) := fun z he hk => by
    have hz : z ≤ min e k := Int.le_min.2 ⟨he, hk⟩
    rw [scaled_lower hz (Int.min_le_left e k), scaled_lower hz (Int.min_le_right e k), ← Int.add_mul, hx]
  by_cases h : x = 0
  · refine ⟨_, _, _, add_fin_of_sum_eq_zero mode (hx.trans h), fun z he hk => ?_⟩
    rw [hlower z he hk, h, Int.zero_mul, scaled_zero]
  · exact ⟨_, _, _, add_fin_of_sum_ne_zero mode hx h, fun z he hk => by rw [hlower z he hk, scaled_natAbs]⟩

theorem mul_exact (m n : Nat) (a b : Bool) (e k : Int) :
    ∃ c p q, FVal.mul (.fin a m e) (.fin b n k) = (.fin c p q, false) ∧
      ∀ z w, z ≤ e → w ≤ k → scaled c p q (z + w) = scaled a m e z * scaled b n k w := by
  refine ⟨_, _, _, rfl, fun z w hz hw => ?_⟩
  have hexp : (e + k - (z + w)).toNat = (e - z).toNat + (k - w).toNat := by omega
  have hmag : ((m * n * 2 ^ (e + k - (z + w)).toNat : Nat) : Int) =
      (m * 2 ^ (e - z).toNat : Nat) * (n * 2 ^ (k - w).toNat : Nat) := by
    rw [hexp, Nat.pow_add, Nat.mul_mul_mul_comm, Int.natCast_mul]
  simp only [scaled, hmag]
  cases a <;> cases b
  · rfl
  · exact (Int.mul_neg _ _).symm
  · exact (Int.neg_mul _ _).symm
  · exact (Int.neg_mul_neg _ _).symm

end Scaled

end Sys2Proof.Machine
end

section
/-! O9: the codes of the float formats, in the order of their values, and the conversion to them (02 R27, R28, R36, R39). -/

namespace Sys2Proof.Machine

/-- What the five formats share: the sign bit stands above the exponent field, and the largest finite code is the last one
below the infinity, or below the one NaN of F8.E4M3. -/
structure FloatFmt.Regular (f : FloatFmt) : Prop where
  signBit_eq : f.signBit = (f.emax + 1) * 2 ^ f.mbits
  width_eq : 2 ^ f.width = 2 * f.signBit
  emax_pos : 0 < f.emax
  ieee_max : f.ieee = true → f.maxCode + 1 = f.emax * 2 ^ f.mbits
  plain_max : f.ieee = false → f.mbits = 3 ∧ f.emax = 15

theorem FloatFmt.regular_of_mem {f : FloatFmt} (h : f ∈ [fmtE4M3, fmtE5M2, fmtFP16, fmtBF16, fmtFP32]) : f.Regular := by
  simp only [List.mem_cons, List.not_mem_nil, or_false] at h
  rcases h with rfl | rfl | rfl | rfl | rfl <;> constructor <;> decide

/-- The exponent of the least subnormal. -/
def FloatFmt.emin (f : FloatFmt) : Int := 1 - (f.bias : Int) - f.mbits

/-- The mantissa of a positive code, the hidden bit included. -/
def FloatFmt.mant (f : FloatFmt) (c : Nat) : Nat :=
  if c / 2 ^ f.mbits = 0 then c % 2 ^ f.mbits else c % 2 ^ f.mbits + 2 ^ f.mbits

/-- The exponent of a positive code's mantissa. -/
def FloatFmt.expo (f : FloatFmt) (c : Nat) : Int := f.emin + (c / 2 ^ f.mbits - 1 : Nat)

/-- The value of a positive code, as if the exponents went on, in units of `2 ^ z`. -/
def FloatFmt.codeVal (f : FloatFmt) (z : Int) (c : Nat) : Nat := magnitudeAt z (f.mant c) (f.expo c)

section Codes

variable {f : FloatFmt} {z : Int}

theorem FloatFmt.emin_le_expo (f : FloatFmt) (c : Nat) : f.emin ≤ f.expo c := by
  unfold FloatFmt.expo
  omega

theorem FloatFmt.mant_expo_subnormal {c : Nat} (h : c < 2 ^ f.mbits) : f.mant c = c ∧ f.expo c = f.emin := by
  rw [FloatFmt.mant, FloatFmt.expo, Nat.div_eq_of_lt h, Nat.mod_eq_of_lt h, if_pos rfl]
  exact ⟨rfl, Int.add_zero _⟩

theorem FloatFmt.mant_expo_normal {k t : Nat} (h : k < 2 ^ f.mbits) :
    f.mant (k + (t + 1) * 2 ^ f.mbits) = k + 2 ^ f.mbits ∧ f.expo (k + (t + 1) * 2 ^ f.mbits) = f.emin + t := by
  rw [FloatFmt.mant, FloatFmt.expo, Nat.add_mul_div_right _ _ (Nat.two_pow_pos _), Nat.add_mul_mod_self_right,
    Nat.div_eq_of_lt h, Nat.mod_eq_of_lt h, Nat.zero_add, if_neg (Nat.succ_ne_zero t)]
  exact ⟨rfl, rfl⟩

/-- A code of n units in the t-th step above the subnormals is worth n units of that step. -/
theorem FloatFmt.codeVal_add_mul (hz : z ≤ f.emin) {n t : Nat} (hlo : 2 ^ f.mbits ≤ n ∨ t = 0) (hhi : n ≤ 2 * 2 ^ f.mbits) :
    f.codeVal z (n + t * 2 ^ f.mbits) = magnitudeAt z n (f.emin + t) := by
  by_cases hn : n < 2 ^ f.mbits
  · obtain rfl : t = 0 := hlo.resolve_left (Nat.not_le.2 hn)
    obtain ⟨hmant, hexpo⟩ := FloatFmt.mant_expo_subnormal hn
    rw [Nat.zero_mul, Nat.add_zero, FloatFmt.codeVal, hmant, hexpo, Int.natCast_zero, Int.add_zero]
  · -- n = 2 ^ mbits + k: a normal code, or the first one of the next step
    obtain ⟨k, rfl⟩ := Nat.exists_eq_add_of_le (Nat.not_lt.1 hn)
    by_cases hk : k < 2 ^ f.mbits
    · obtain ⟨hmant, hexpo⟩ := FloatFmt.mant_expo_normal (t := t) hk
      have hc : 2 ^ f.mbits + k + t * 2 ^ f.mbits = k + (t + 1) * 2 ^ f.mbits := by rw [Nat.add_mul]; omega
      rw [hc, FloatFmt.codeVal, hmant, hexpo, Nat.add_comm k]
    · obtain rfl : k = 2 ^ f.mbits := by omega
      obtain ⟨hmant, hexpo⟩ := FloatFmt.mant_expo_normal (f := f) (t := t + 1) (Nat.two_pow_pos _)
      have hc : 2 ^ f.mbits + 2 ^ f.mbits + t * 2 ^ f.mbits = 0 + (t + 1 + 1) * 2 ^ f.mbits := by
        rw [Nat.add_mul, Nat.add_mul]; omega
      have hm : 2 ^ f.mbits + 2 ^ f.mbits = 2 ^ f.mbits * 2 ^ 1 := by omega
      rw [hc, FloatFmt.codeVal, hmant, hexpo, hm, magnitudeAt_mul_two_pow (by omega), Nat.zero_add, Int.natCast_add,
        Int.add_assoc]

/-- Every code is a number of units of one step. -/
theorem FloatFmt.exists_units (f : FloatFmt) (c : Nat) :
    ∃ n t, c = n + t * 2 ^ f.mbits ∧ (2 ^ f.mbits ≤ n ∨ t = 0) ∧ n < 2 * 2 ^ f.mbits := by
  have hpos : 0 < 2 ^ f.mbits := Nat.two_pow_pos _
  by_cases hc : c < 2 ^ f.mbits
  · exact ⟨c, 0, by omega, .inr rfl, by omega⟩
  · obtain ⟨k, rfl⟩ := Nat.exists_eq_add_of_le (Nat.not_lt.1 hc)
    have hk := Nat.mod_lt k hpos
    have hd := Nat.mod_add_div' k (2 ^ f.mbits)
    exact ⟨2 ^ f.mbits + k % 2 ^ f.mbits, k / 2 ^ f.mbits, by omega, .inl (by omega), by omega⟩

theorem FloatFmt.codeVal_lt_succ (hz : z ≤ f.emin) (c : Nat) : f.codeVal z c < f.codeVal z (c + 1) := by
  obtain ⟨n, t, rfl, hlo, hhi⟩ := f.exists_units c
  have hnext : n + t * 2 ^ f.mbits + 1 = (n + 1) + t * 2 ^ f.mbits := by omega
  rw [hnext, FloatFmt.codeVal_add_mul hz hlo (Nat.le_of_lt hhi), FloatFmt.codeVal_add_mul hz (by omega) hhi, magnitudeAt_lt_iff]
  exact Nat.lt_succ_self n

theorem FloatFmt.codeVal_mono (hz : z ≤ f.emin) {c d : Nat} (h : c ≤ d) : f.codeVal z c ≤ f.codeVal z d := by
  induction h with
  | refl => exact Nat.le_refl _
  | step _ ih => exact Nat.le_trans ih (Nat.le_of_lt (FloatFmt.codeVal_lt_succ hz _))

theorem FloatFmt.lt_of_codeVal_lt (hz : z ≤ f.emin) {c d : Nat} (h : f.codeVal z c < f.codeVal z d) : c < d :=
  Nat.not_le.1 fun hle => Nat.not_lt.2 (FloatFmt.codeVal_mono hz hle) h

theorem FloatFmt.codeVal_zero (f : FloatFmt) (z : Int) : f.codeVal z 0 = 0 := by
  rw [FloatFmt.codeVal, (FloatFmt.mant_expo_subnormal (Nat.two_pow_pos f.mbits)).1, magnitudeAt_zero]

/-- A code is found from the two values it lies between. -/
theorem FloatFmt.code_unique (hz : z ≤ f.emin) {c d x : Nat} (hc : f.codeVal z c ≤ x) (hc' : x < f.codeVal z (c + 1))
    (hd : f.codeVal z d ≤ x) (hd' : x < f.codeVal z (d + 1)) : c = d :=
  Nat.le_antisymm (Nat.le_of_lt_succ (FloatFmt.lt_of_codeVal_lt hz (Nat.lt_of_le_of_lt hc hd')))
    (Nat.le_of_lt_succ (FloatFmt.lt_of_codeVal_lt hz (Nat.lt_of_le_of_lt hd hc')))

/-- The first code of an exponent field is a power of two. -/
theorem FloatFmt.codeVal_mul_two_pow (hz : z ≤ f.emin) {k : Nat} (hk : 0 < k) :
    f.codeVal z (k * 2 ^ f.mbits) = magnitudeAt z 1 (k - f.bias) := by
  obtain ⟨t, rfl⟩ : ∃ t, k = t + 1 := ⟨k - 1, by omega⟩
  have hc : (t + 1) * 2 ^ f.mbits = 2 ^ f.mbits + t * 2 ^ f.mbits := by rw [Nat.add_mul]; omega
  have hexp : f.emin + (t : Int) + (f.mbits : Int) = ((t + 1 : Nat) : Int) - f.bias := by rw [FloatFmt.emin]; omega
  rw [hc, FloatFmt.codeVal_add_mul hz (.inl (Nat.le_refl _)) (by omega), ← Nat.one_mul (2 ^ f.mbits),
    magnitudeAt_mul_two_pow (by omega), hexp]

/-! What a code decodes to. -/

theorem FloatFmt.Regular.maxCode_lt (hf : f.Regular) : f.maxCode < f.signBit := by
  rw [hf.signBit_eq, Nat.add_mul]
  cases h : f.ieee with
  | true =>
    have hmax := hf.ieee_max h
    omega
  | false =>
    obtain ⟨hm, he⟩ := hf.plain_max h
    rw [hm, he, FloatFmt.maxCode, h, if_neg Bool.false_ne_true]
    decide

theorem FloatFmt.Regular.field_eq (hf : f.Regular) (c : Nat) :
    c % f.signBit / 2 ^ f.mbits = c / 2 ^ f.mbits % (f.emax + 1) := by
  rw [hf.signBit_eq, Nat.mul_comm, Nat.mod_mul_right_div_self]

theorem FloatFmt.Regular.mod_eq (hf : f.Regular) (c : Nat) : c % f.signBit % 2 ^ f.mbits = c % 2 ^ f.mbits :=
  Nat.mod_mod_of_dvd c (hf.signBit_eq ▸ Nat.dvd_mul_left _ _)

/-- The codes beyond the largest finite one: the infinity and the NaNs, or the NaN of F8.E4M3. -/
theorem FloatFmt.Regular.maxCode_lt_iff (hf : f.Regular) (c : Nat) : f.maxCode < c % f.signBit ↔
    c / 2 ^ f.mbits % (f.emax + 1) = f.emax ∧ (f.ieee = true ∨ c % 2 ^ f.mbits = 7) := by
  rw [← hf.field_eq, ← hf.mod_eq]
  have hpos : 0 < 2 ^ f.mbits := Nat.two_pow_pos _
  have hlt : c % f.signBit < f.signBit := Nat.mod_lt _ (Nat.two_pow_pos _)
  generalize c % f.signBit = d at hlt ⊢
  rw [hf.signBit_eq] at hlt
  have hfield : d / 2 ^ f.mbits < f.emax + 1 := Nat.div_lt_of_lt_mul (Nat.mul_comm _ _ ▸ hlt)
  cases h : f.ieee with
  | true =>
    rw [← Nat.succ_le_iff, Nat.succ_eq_add_one, hf.ieee_max h, ← Nat.le_div_iff_mul_le hpos]
    simp only [true_or, and_true]
    omega
  | false =>
    obtain ⟨hm, he⟩ := hf.plain_max h
    simp only [hm, he, FloatFmt.maxCode, h, Bool.false_eq_true, if_false, false_or, Nat.reducePow] at hlt ⊢
    omega

/-- A code of a finite magnitude is worth that magnitude. -/
theorem FloatFmt.Regular.decode_of_le (hf : f.Regular) {c : Nat} (hc : c % f.signBit ≤ f.maxCode) :
    f.decode c = .fin (f.signBit ≤ c % 2 ^ f.width) (f.mant (c % f.signBit)) (f.expo (c % f.signBit)) := by
  rw [← Nat.not_lt, hf.maxCode_lt_iff] at hc
  rw [FloatFmt.mant, FloatFmt.expo, hf.field_eq, hf.mod_eq, FloatFmt.emin]
  have hinf : ¬ (f.ieee = true ∧ c / 2 ^ f.mbits % (f.emax + 1) = f.emax) := fun h => hc ⟨h.2, .inl h.1⟩
  have hnan : ¬ ((f.ieee = false ∧ c / 2 ^ f.mbits % (f.emax + 1) = f.emax) ∧ c % 2 ^ f.mbits = 7) :=
    fun h => hc ⟨h.1.2, .inr h.2⟩
  simp only [FloatFmt.decode, Bool.and_eq_true, Bool.not_eq_true', decide_eq_true_eq, if_neg hinf, if_neg hnan]
  generalize c / 2 ^ f.mbits % (f.emax + 1) = field
  by_cases h0 : field = 0
  · rw [if_pos h0, if_pos h0, h0]
    congr 1
    omega
  · rw [if_neg h0, if_neg h0]
    congr 1
    omega

theorem FloatFmt.Regular.le_of_decode_fin (hf : f.Regular) {c m : Nat} {neg : Bool} {e : Int} (h : f.decode c = .fin neg m e) :
    c % f.signBit ≤ f.maxCode := by
  refine Nat.not_lt.1 fun hc => ?_
  obtain ⟨hfield, hs⟩ := (hf.maxCode_lt_iff c).1 hc
  cases hi : f.ieee with
  | true =>
    simp only [FloatFmt.decode, hfield, hi, decide_true, Bool.and_self, if_true] at h
    split at h <;> cases h
  | false =>
    have hnan : c % 2 ^ f.mbits = 7 := hs.resolve_left (Bool.eq_false_iff.1 hi)
    simp only [FloatFmt.decode, hfield, hi, hnan, decide_true, Bool.not_false, Bool.and_self, Bool.false_and,
      Bool.false_eq_true, if_false, if_true] at h
    cases h

theorem FloatFmt.Regular.decode_positive (hf : f.Regular) {c : Nat} (hc : c ≤ f.maxCode) :
    f.decode c = .fin false (f.mant c) (f.expo c) := by
  have hlt : c < f.signBit := Nat.lt_of_le_of_lt hc hf.maxCode_lt
  have hmod : c % f.signBit = c := Nat.mod_eq_of_lt hlt
  have hwidth : c % 2 ^ f.width = c := Nat.mod_eq_of_lt (by rw [hf.width_eq]; omega)
  rw [hf.decode_of_le (hmod.symm ▸ hc), hmod, hwidth, decide_eq_false (Nat.not_le.2 hlt)]

/-- A finite code is its magnitude's code under its sign. -/
theorem FloatFmt.Regular.exists_code_of_decode_fin (hf : f.Regular) {c m : Nat} {neg : Bool} {e : Int} (hw : c < 2 ^ f.width)
    (h : f.decode c = .fin neg m e) : ∃ d ≤ f.maxCode, c = f.signed neg d ∧ m = f.mant d ∧ e = f.expo d := by
  have hle := hf.le_of_decode_fin h
  rw [hf.decode_of_le hle, Nat.mod_eq_of_lt hw] at h
  obtain ⟨rfl, rfl, rfl⟩ := FVal.fin.inj h
  refine ⟨_, hle, ?_, rfl, rfl⟩
  rw [hf.width_eq] at hw
  by_cases hs : f.signBit ≤ c
  · rw [Nat.mod_eq_sub_mod hs, Nat.mod_eq_of_lt (by omega), FloatFmt.signed, if_pos (decide_eq_true hs), Nat.sub_add_cancel hs]
  · rw [Nat.mod_eq_of_lt (Nat.not_le.1 hs), FloatFmt.signed, decide_eq_false hs, if_neg Bool.false_ne_true]

end Codes

end Sys2Proof.Machine
end

section
/-! O9: conversion to a float format (02 R36, R39). -/

namespace Sys2Proof.Machine

/-- The exponent of the unit that a value is rounded to. -/
def FloatFmt.unitExp (f : FloatFmt) (m : Nat) (e : Int) : Int := max f.emin (e + bitLen m - (f.mbits + 1))

/-- How many steps above the subnormals that unit stands. -/
def FloatFmt.steps (f : FloatFmt) (m : Nat) (e : Int) : Nat := (f.unitExp m e - f.emin).toNat

/-- A value in its units is `numer` over two to the `denomLog`. -/
def FloatFmt.numer (f : FloatFmt) (m : Nat) (e : Int) : Nat := m * 2 ^ (e - f.unitExp m e).toNat

/-- The binary logarithm of the denominator of a value in its units. -/
def FloatFmt.denomLog (f : FloatFmt) (m : Nat) (e : Int) : Nat := (f.unitExp m e - e).toNat

/-- The whole units of a value. -/
def FloatFmt.units (f : FloatFmt) (m : Nat) (e : Int) : Nat := f.numer m e / 2 ^ f.denomLog m e

/-- The code of the whole units of a value. -/
def FloatFmt.floorCode (f : FloatFmt) (m : Nat) (e : Int) : Nat := f.units m e + f.steps m e * 2 ^ f.mbits

section Round

variable {f : FloatFmt} {m : Nat} {e z : Int} {mode lane : Nat} {sat neg : Bool} {g : Rng}

theorem magnitudeAt_two_pow (he : z ≤ e) (t : Nat) : magnitudeAt z (2 ^ t) e = magnitudeAt z 1 (e + t) := by
  rw [← magnitudeAt_mul_two_pow he, Nat.one_mul]

theorem magnitudeAt_one_mono {k : Int} (h : e ≤ k) : magnitudeAt z 1 e ≤ magnitudeAt z 1 k :=
  Nat.mul_le_mul_left 1 (Nat.pow_le_pow_right Nat.two_pos (by omega))

/-- A value's highest bit bounds it from both sides. -/
theorem magnitudeAt_bounds (he : z ≤ e) (h : m ≠ 0) :
    magnitudeAt z 1 (e + bitLen m - 1) ≤ magnitudeAt z m e ∧ magnitudeAt z m e < magnitudeAt z 1 (e + bitLen m) := by
  have hlen : bitLen m = Nat.log2 m + 1 := if_neg h
  have hexp : e + (Nat.log2 m + 1 : Nat) - 1 = e + Nat.log2 m := by omega
  rw [hlen, hexp, ← magnitudeAt_two_pow he, ← magnitudeAt_two_pow he, magnitudeAt_le_iff, magnitudeAt_lt_iff]
  exact ⟨Nat.log2_self_le h, Nat.lt_log2_self⟩

theorem FloatFmt.emin_le_unitExp (f : FloatFmt) (m : Nat) (e : Int) : f.emin ≤ f.unitExp m e := Int.le_max_left _ _

theorem FloatFmt.unitExp_eq (f : FloatFmt) (m : Nat) (e : Int) : f.unitExp m e = f.emin + f.steps m e := by
  have hmin := f.emin_le_unitExp m e
  rw [FloatFmt.steps]
  omega

/-- A value, and a number of its units, at the lower one of their exponents. -/
theorem FloatFmt.magnitudeAt_eq_numer (hz : z ≤ f.emin) (he : z ≤ e) :
    magnitudeAt z m e = magnitudeAt z (f.numer m e) (f.unitExp m e - f.denomLog m e) := by
  have hmin := f.emin_le_unitExp m e
  have hexp : f.unitExp m e - f.denomLog m e + (e - f.unitExp m e).toNat = e := by rw [FloatFmt.denomLog]; omega
  rw [FloatFmt.numer, magnitudeAt_mul_two_pow (by rw [FloatFmt.denomLog]; omega), hexp]

theorem FloatFmt.magnitudeAt_units (hz : z ≤ f.emin) (he : z ≤ e) (k : Nat) : magnitudeAt z k (f.unitExp m e) =
    magnitudeAt z (k * 2 ^ f.denomLog m e) (f.unitExp m e - f.denomLog m e) := by
  have hmin := f.emin_le_unitExp m e
  rw [magnitudeAt_mul_two_pow (by rw [FloatFmt.denomLog]; omega), Int.sub_add_cancel]

theorem FloatFmt.lt_units_iff (hz : z ≤ f.emin) (he : z ≤ e) {k : Nat} :
    magnitudeAt z m e < magnitudeAt z k (f.unitExp m e) ↔ f.units m e < k := by
  rw [FloatFmt.magnitudeAt_eq_numer hz he, FloatFmt.magnitudeAt_units hz he, magnitudeAt_lt_iff, FloatFmt.units,
    Nat.div_lt_iff_lt_mul (Nat.two_pow_pos _)]

theorem FloatFmt.units_le_iff (hz : z ≤ f.emin) (he : z ≤ e) {k : Nat} :
    magnitudeAt z k (f.unitExp m e) ≤ magnitudeAt z m e ↔ k ≤ f.units m e := by
  rw [← Nat.not_lt, FloatFmt.lt_units_iff hz he, Nat.not_lt]

/-- A value is more than its whole units where something is left over. -/
theorem FloatFmt.units_lt_iff (hz : z ≤ f.emin) (he : z ≤ e) :
    magnitudeAt z (f.units m e) (f.unitExp m e) < magnitudeAt z m e ↔ f.numer m e % 2 ^ f.denomLog m e ≠ 0 := by
  have hdiv := Nat.div_add_mod' (f.numer m e) (2 ^ f.denomLog m e)
  rw [FloatFmt.magnitudeAt_units hz he, FloatFmt.magnitudeAt_eq_numer hz he, magnitudeAt_lt_iff, FloatFmt.units]
  omega

/-- The whole units of a nonzero value fill the mantissa, unless it is subnormal. -/
theorem FloatFmt.units_bounds (f : FloatFmt) (e : Int) (hm : m ≠ 0) :
    (2 ^ f.mbits ≤ f.units m e ∨ f.steps m e = 0) ∧ f.units m e < 2 * 2 ^ f.mbits := by
  have hz : min f.emin e ≤ f.emin := Int.min_le_left _ _
  have he : min f.emin e ≤ e := Int.min_le_right _ _
  have hq : min f.emin e ≤ f.unitExp m e := Int.le_trans hz (f.emin_le_unitExp m e)
  obtain ⟨hlow, hhigh⟩ := magnitudeAt_bounds he hm
  rw [← FloatFmt.units_le_iff hz he, ← FloatFmt.lt_units_iff hz he, Nat.mul_comm 2, ← Nat.pow_succ, magnitudeAt_two_pow hq,
    magnitudeAt_two_pow hq]
  refine ⟨?_, Nat.lt_of_lt_of_le hhigh (magnitudeAt_one_mono (by rw [FloatFmt.unitExp]; omega))⟩
  by_cases hs : f.steps m e = 0
  · exact .inr hs
  · have hunit : f.unitExp m e + f.mbits = e + bitLen m - 1 := by
      rw [FloatFmt.steps, FloatFmt.unitExp] at hs
      rw [FloatFmt.unitExp]
      omega
    exact .inl (hunit ▸ hlow)

theorem FloatFmt.codeVal_floorCode (hz : z ≤ f.emin) (hm : m ≠ 0) :
    f.codeVal z (f.floorCode m e) = magnitudeAt z (f.units m e) (f.unitExp m e) := by
  obtain ⟨hlo, hhi⟩ := f.units_bounds e hm
  rw [FloatFmt.floorCode, FloatFmt.codeVal_add_mul hz hlo (Nat.le_of_lt hhi), ← FloatFmt.unitExp_eq]

/-- A value is less than the value of the code after its floor code. -/
theorem FloatFmt.lt_codeVal_floorCode_succ (hz : z ≤ f.emin) (he : z ≤ e) (hm : m ≠ 0) :
    magnitudeAt z m e < f.codeVal z (f.floorCode m e + 1) := by
  obtain ⟨hlo, hhi⟩ := f.units_bounds e hm
  have hnext : f.floorCode m e + 1 = (f.units m e + 1) + f.steps m e * 2 ^ f.mbits := by rw [FloatFmt.floorCode]; omega
  rw [hnext, FloatFmt.codeVal_add_mul hz (by omega) hhi, ← FloatFmt.unitExp_eq, FloatFmt.lt_units_iff hz he]
  exact Nat.lt_succ_self _

/-- The floor code is the one whose value and its successor's enclose the value. -/
theorem FloatFmt.floorCode_eq (hz : z ≤ f.emin) (he : z ≤ e) {c : Nat} (hm : m ≠ 0) (h : f.codeVal z c ≤ magnitudeAt z m e)
    (h' : magnitudeAt z m e < f.codeVal z (c + 1)) : f.floorCode m e = c := by
  have hfloor : f.codeVal z (f.floorCode m e) ≤ magnitudeAt z m e := by
    rw [FloatFmt.codeVal_floorCode hz hm]
    exact (FloatFmt.units_le_iff hz he).2 (Nat.le_refl _)
  exact FloatFmt.code_unique hz hfloor (FloatFmt.lt_codeVal_floorCode_succ hz he hm) h h'

/-- Something is left over where the floor code's value is less. -/
theorem FloatFmt.codeVal_floorCode_lt_iff (hz : z ≤ f.emin) (he : z ≤ e) (hm : m ≠ 0) :
    f.codeVal z (f.floorCode m e) < magnitudeAt z m e ↔ f.numer m e % 2 ^ f.denomLog m e ≠ 0 := by
  rw [FloatFmt.codeVal_floorCode hz hm, FloatFmt.units_lt_iff hz he]

theorem ne_zero_of_lt_magnitudeAt {x : Nat} (h : x < magnitudeAt z m e) : m ≠ 0 := by
  rintro rfl
  rw [magnitudeAt_zero] at h
  exact Nat.not_lt_zero x h

/-- The code, the flags and the generators that a value rounded to whole units gives. -/
def FloatFmt.deliver (f : FloatFmt) (mode : Nat) (sat neg : Bool) (steps : Nat) (r : Nat × Bool × Rng) : Rounded :=
  let code := r.1 + steps * 2 ^ f.mbits
  if f.maxCode < code then ((f.overflow mode sat neg).1, (f.overflow mode sat neg).2, r.2.2)
  else (f.signed neg code, flagIf r.2.1 fNX ||| flagIf (r.2.1 && decide (r.1 < 2 ^ f.mbits)) fUF, r.2.2)

/-- A number of units at an exponent, brought below the double of the hidden bit. -/
def FloatFmt.carried (f : FloatFmt) (n : Nat) (q : Int) : Nat × Int :=
  if n = 2 ^ (f.mbits + 1) then (n / 2, q + 1) else (n, q)

theorem FloatFmt.carried_of_double {n : Nat} {q : Int} (h : n = 2 ^ (f.mbits + 1)) : f.carried n q = (2 ^ f.mbits, q + 1) := by
  rw [FloatFmt.carried, if_pos h, h, Nat.pow_succ, Nat.mul_div_cancel _ Nat.two_pos]

theorem FloatFmt.carried_of_ne {n : Nat} {q : Int} (h : n ≠ 2 ^ (f.mbits + 1)) : f.carried n q = (n, q) := if_neg h

theorem FloatFmt.carried_fst_lt_iff {n : Nat} {q : Int} : (f.carried n q).1 < 2 ^ f.mbits ↔ n < 2 ^ f.mbits := by
  by_cases h : n = 2 ^ (f.mbits + 1)
  · rw [FloatFmt.carried_of_double h]
    rw [Nat.pow_succ] at h
    exact iff_of_false (Nat.lt_irrefl _) (by omega)
  · rw [FloatFmt.carried_of_ne h]

/-- The code of a number of units at an exponent. -/
def FloatFmt.codeOf (f : FloatFmt) (p : Nat × Int) : Nat :=
  if p.1 < 2 ^ f.mbits then p.1 else p.1 + (p.2 - f.emin).toNat * 2 ^ f.mbits

/-- The carry to the next exponent is none in the code. -/
theorem FloatFmt.codeOf_carried {n t : Nat} (h : 2 ^ f.mbits ≤ n ∨ t = 0) :
    f.codeOf (f.carried n (f.emin + t)) = n + t * 2 ^ f.mbits := by
  by_cases hc : n = 2 ^ (f.mbits + 1)
  · have hstep : (f.emin + t + 1 - f.emin).toNat = t + 1 := by omega
    rw [FloatFmt.carried_of_double hc, FloatFmt.codeOf, if_neg (Nat.lt_irrefl _), hstep, hc, Nat.pow_succ, Nat.add_mul]
    omega
  · have hstep : (f.emin + t - f.emin).toNat = t := by omega
    rw [FloatFmt.carried_of_ne hc, FloatFmt.codeOf, hstep]
    split
    case isTrue hn => rw [h.resolve_left (Nat.not_le.2 hn), Nat.zero_mul, Nat.add_zero]
    case isFalse => rfl

theorem FloatFmt.round_zero : f.round mode sat (.fin neg 0 e) g lane = (f.signed neg 0, 0, g) := rfl

theorem FloatFmt.round_eq_carried (hm : m ≠ 0) : f.round mode sat (.fin neg m e) g lane =
    (let r := roundNat mode neg (f.numer m e) (f.denomLog m e) g lane
     let p := f.carried r.1 (f.unitExp m e)
     if f.codeOf p > f.maxCode then ((f.overflow mode sat neg).1, (f.overflow mode sat neg).2, r.2.2)
     else (f.signed neg (f.codeOf p), flagIf r.2.1 fNX ||| flagIf (r.2.1 && decide (p.1 < 2 ^ f.mbits)) fUF, r.2.2)) := by
  simp only [FloatFmt.round, if_neg hm]
  rfl

/-- A nonzero value is rounded to whole units, and what that gives is ranged. -/
theorem FloatFmt.round_fin (hm : m ≠ 0) : f.round mode sat (.fin neg m e) g lane =
    f.deliver mode sat neg (f.steps m e) (roundNat mode neg (f.numer m e) (f.denomLog m e) g lane) := by
  obtain ⟨hlow, -⟩ := roundNat_bounds mode neg (f.numer m e) (f.denomLog m e) g lane
  have hfull := (f.units_bounds e hm).1.imp_left (Nat.le_trans · hlow)
  have hcode := FloatFmt.codeOf_carried hfull
  rw [← FloatFmt.unitExp_eq] at hcode
  rw [FloatFmt.round_eq_carried hm]
  simp only [hcode, FloatFmt.carried_fst_lt_iff, FloatFmt.deliver, gt_iff_lt]

theorem flagIf_false (fl : Flags) : flagIf false fl = 0 := rfl

/-! The value against the codes: exact, between two of them, or out of range. -/

/-- The value of a code is given that code, with no flag and no draw. -/
theorem FloatFmt.round_of_eq_codeVal (hz : z ≤ f.emin) (he : z ≤ e) {c : Nat} (hc : c ≤ f.maxCode)
    (h : magnitudeAt z m e = f.codeVal z c) : f.round mode sat (.fin neg m e) g lane = (f.signed neg c, 0, g) := by
  have hnext : magnitudeAt z m e < f.codeVal z (c + 1) := h ▸ FloatFmt.codeVal_lt_succ hz c
  by_cases hm : m = 0
  · have hc0 : c = 0 := by
      refine FloatFmt.code_unique hz (Nat.le_of_eq h.symm) hnext ?_ ?_
      · rw [FloatFmt.codeVal_zero]
        exact Nat.zero_le _
      · rw [hm, magnitudeAt_zero]
        exact Nat.lt_of_le_of_lt (Nat.zero_le _) (FloatFmt.codeVal_lt_succ hz 0)
    rw [hm, hc0, FloatFmt.round_zero]
  · have hfloor : f.floorCode m e = c := FloatFmt.floorCode_eq hz he hm (Nat.le_of_eq h.symm) hnext
    have hexact : f.numer m e % 2 ^ f.denomLog m e = 0 := by
      refine Decidable.byContradiction fun hne => ?_
      have hlt := (FloatFmt.codeVal_floorCode_lt_iff hz he hm).2 hne
      rw [hfloor, h] at hlt
      exact Nat.lt_irrefl _ hlt
    have hcode : f.units m e + f.steps m e * 2 ^ f.mbits = c := hfloor
    rw [FloatFmt.round_fin hm, roundNat_exact hexact, ← FloatFmt.units]
    simp only [FloatFmt.deliver, hcode, if_neg (Nat.not_lt.2 hc), Bool.false_and, flagIf_false]
    rfl

/-- A value strictly between two neighbouring codes is given one of them, and NX. -/
theorem FloatFmt.round_of_between (hz : z ≤ f.emin) (he : z ≤ e) {c : Nat} (hc : c < f.maxCode)
    (h : f.codeVal z c < magnitudeAt z m e) (h' : magnitudeAt z m e < f.codeVal z (c + 1)) (mode : Nat) (sat neg : Bool)
    (g : Rng) (lane : Nat) : ∃ fl g', f.round mode sat (.fin neg m e) g lane =
      (f.signed neg (c + roundStep mode neg (f.numer m e) (f.denomLog m e) g lane), fNX ||| fl, g') := by
  have hm := ne_zero_of_lt_magnitudeAt h
  have hfloor : f.floorCode m e = c := FloatFmt.floorCode_eq hz he hm (Nat.le_of_lt h) h'
  have hleft : f.numer m e % 2 ^ f.denomLog m e ≠ 0 := by
    rw [← FloatFmt.codeVal_floorCode_lt_iff hz he hm, hfloor]
    exact h
  have hcode (k : Nat) : f.units m e + k + f.steps m e * 2 ^ f.mbits = c + k := by
    rw [← hfloor, FloatFmt.floorCode]
    omega
  rw [FloatFmt.round_fin hm, roundNat_inexact hleft, ← FloatFmt.units, FloatFmt.deliver]
  rw [hcode, if_neg]
  · exact ⟨_, _, rfl⟩
  · rcases roundStep_eq_zero_or_one mode neg (f.numer m e) (f.denomLog m e) g lane with h | h <;> omega

/-- A value from the code after the largest finite one on is out of range. -/
theorem FloatFmt.round_of_beyond (hz : z ≤ f.emin) (he : z ≤ e) (h : f.codeVal z (f.maxCode + 1) ≤ magnitudeAt z m e)
    (mode : Nat) (sat neg : Bool) (g : Rng) (lane : Nat) : ∃ g', f.round mode sat (.fin neg m e) g lane =
      ((f.overflow mode sat neg).1, (f.overflow mode sat neg).2, g') := by
  have hm : m ≠ 0 := ne_zero_of_lt_magnitudeAt (Nat.lt_of_lt_of_le (FloatFmt.codeVal_lt_succ hz f.maxCode) h)
  have hfloor : f.maxCode < f.floorCode m e := Nat.lt_of_succ_lt_succ
    (FloatFmt.lt_of_codeVal_lt hz (Nat.lt_of_le_of_lt h (FloatFmt.lt_codeVal_floorCode_succ hz he hm)))
  obtain ⟨hlow, -⟩ := roundNat_bounds mode neg (f.numer m e) (f.denomLog m e) g lane
  rw [FloatFmt.round_fin hm, FloatFmt.deliver, if_pos (Nat.lt_of_lt_of_le hfloor (Nat.add_le_add_right hlow _))]
  exact ⟨_, rfl⟩

theorem or_fNX_and_fNX (fl : Flags) : (fNX ||| fl) &&& fNX = fNX := by
  revert fl
  decide

theorem FloatFmt.overflow_saturates : f.overflow mode true neg = (f.signed neg f.maxCode, fSAT ||| fNX) := rfl

/-- Without saturation a value out of range goes to the NaN where there is no infinity, and else to the neighbour that the
mode takes of the largest finite code and the infinity. -/
theorem FloatFmt.overflow_unsaturated : f.overflow mode false neg =
    (if f.ieee then
        f.signed neg (if mode = 1 ∨ (mode = 2 ∧ neg = true) ∨ (mode = 3 ∧ neg = false) then f.maxCode else f.infCode)
      else f.nanCode, fOF ||| fNX) := by
  cases hi : f.ieee with
  | false => simp [FloatFmt.overflow, hi]
  | true => obtain _ | _ | _ | _ | k := mode <;> cases neg <;> simp [FloatFmt.overflow, hi]

/-- The values beyond the largest finite exponent are beyond the code after the largest finite one. -/
theorem FloatFmt.Regular.codeVal_succ_maxCode_le (hf : f.Regular) (hz : z ≤ f.emin) :
    f.codeVal z (f.maxCode + 1) ≤ magnitudeAt z 1 ((f.emax : Int) + (if f.ieee then 0 else 1) - f.bias) := by
  cases hi : f.ieee with
  | true =>
    refine Nat.le_of_eq ?_
    rw [hf.ieee_max hi, FloatFmt.codeVal_mul_two_pow hz hf.emax_pos, if_pos rfl, Int.add_zero]
  | false =>
    obtain ⟨hm, he⟩ := hf.plain_max hi
    have hle : f.maxCode + 1 ≤ (f.emax + 1) * 2 ^ f.mbits := by
      rw [hm, he, FloatFmt.maxCode, hi, if_neg Bool.false_ne_true]
      decide
    have hmono := FloatFmt.codeVal_mono hz hle
    rw [FloatFmt.codeVal_mul_two_pow hz (Nat.succ_pos f.emax)] at hmono
    exact hmono

theorem FloatFmt.Regular.round_representable (hf : f.Regular) {c : Nat} (hw : c < 2 ^ f.width)
    (h : f.decode c = .fin neg m e) :
    f.round mode sat (f.decode c) g lane = (c, 0, g) := by
  obtain ⟨d, hd, rfl, rfl, rfl⟩ := hf.exists_code_of_decode_fin hw h
  rw [h, FloatFmt.round_of_eq_codeVal (Int.le_refl _) (f.emin_le_expo d) hd rfl]

theorem FloatFmt.Regular.round_between_codes (hf : f.Regular) {c : Nat} (hc : c < f.maxCode)
    (hlow : FVal.lt (.fin false m e) (f.decode c) = false) (hhigh : FVal.lt (.fin false m e) (f.decode (c + 1)) = true) :
    let r := f.round mode sat (.fin neg m e) g lane
    let exact := FVal.lt (f.decode c) (.fin false m e) = false
    (exact → r = (f.signed neg c, 0, g)) ∧
    (¬ exact → (r.1 = f.signed neg c ∨ r.1 = f.signed neg (c + 1)) ∧ r.2.1 &&& fNX = fNX ∧
      (mode = 1 → r.1 = f.signed neg c) ∧ (mode = 2 → r.1 = f.signed neg (if neg then c else c + 1)) ∧
      (mode = 3 → r.1 = f.signed neg (if neg then c + 1 else c))) := by
  have hz : min f.emin e ≤ f.emin := Int.min_le_left _ _
  have he : min f.emin e ≤ e := Int.min_le_right _ _
  have hcode (d : Nat) : min f.emin e ≤ f.expo d := Int.le_trans hz (f.emin_le_expo d)
  rw [hf.decode_positive (Nat.le_of_lt hc)] at hlow ⊢
  rw [hf.decode_positive hc] at hhigh
  rw [lt_fin_eq_false_iff he (hcode c)] at hlow
  rw [lt_fin_iff he (hcode (c + 1))] at hhigh
  rw [lt_fin_eq_false_iff (hcode c) he]
  refine ⟨fun hexact => FloatFmt.round_of_eq_codeVal hz he (Nat.le_of_lt hc) (Nat.le_antisymm hexact hlow), fun hnot => ?_⟩
  obtain ⟨fl, g', hr⟩ := FloatFmt.round_of_between hz he hc (Nat.not_le.1 hnot) hhigh mode sat neg g lane
  rw [hr]
  refine ⟨?neighbour, or_fNX_and_fNX fl, ?towardZero, ?up, ?down⟩
  case neighbour =>
    exact (roundStep_eq_zero_or_one mode neg (f.numer m e) (f.denomLog m e) g lane).imp
      (congrArg (fun k => f.signed neg (c + k))) (congrArg (fun k => f.signed neg (c + k)))
  case towardZero => rintro rfl; rfl
  case up => rintro rfl; cases neg <;> rfl
  case down => rintro rfl; cases neg <;> rfl

theorem FloatFmt.Regular.round_out_of_range (hf : f.Regular)
    (h : FVal.lt (.fin false m e) (.fin false 1 ((f.emax : Int) + (if f.ieee then 0 else 1) - f.bias)) = false) :
    let r := f.round mode sat (.fin neg m e) g lane
    let down := mode = 1 ∨ (mode = 2 ∧ neg = true) ∨ (mode = 3 ∧ neg = false)
    (sat = true → r.1 = f.signed neg f.maxCode ∧ r.2.1 = fSAT ||| fNX) ∧
    (sat = false → r.2.1 = fOF ||| fNX ∧
      r.1 = if f.ieee then f.signed neg (if down then f.maxCode else f.infCode) else f.nanCode) := by
  have hz : min f.emin e ≤ f.emin := Int.min_le_left _ _
  have he : min f.emin e ≤ e := Int.min_le_right _ _
  have htop : f.emin ≤ (f.emax : Int) + (if f.ieee then 0 else 1) - f.bias := by
    have hpos := hf.emax_pos
    unfold FloatFmt.emin
    split <;> omega
  rw [lt_fin_eq_false_iff he (Int.le_trans hz htop)] at h
  obtain ⟨g', hr⟩ := FloatFmt.round_of_beyond hz he (Nat.le_trans (hf.codeVal_succ_maxCode_le hz) h) mode sat neg g lane
  rw [hr]
  constructor
  · rintro rfl
    rw [FloatFmt.overflow_saturates]
    exact ⟨rfl, rfl⟩
  · rintro rfl
    rw [FloatFmt.overflow_unsaturated]
    exact ⟨rfl, rfl⟩

end Round

end Sys2Proof.Machine
end

section
/-! O9: conversion to the integer types (02 R26, R40). -/

namespace Sys2Proof.Machine

/-- The range of an integer type. -/
def IntFmt.holds (t : IntFmt) (x : Int) : Prop := t.minV ≤ x ∧ x ≤ t.maxV

/-- The nearer end of the range, for a value outside it. -/
def IntFmt.clamp (t : IntFmt) (x : Int) : Int := if x < t.minV then t.minV else t.maxV

theorem flagIf_true (fl : Flags) : flagIf true fl = fl := rfl

section IntFmt

variable {t : IntFmt} {x : Int} {sat : Bool}

theorem IntFmt.encode_of_nonneg (h0 : 0 ≤ x) (h : x < (2 ^ t.width : Nat)) : t.encode x = x.toNat := by
  rw [IntFmt.encode, Int.emod_eq_of_lt h0 h]

theorem IntFmt.encode_of_neg (h0 : x < 0) (h : -(2 ^ t.width : Nat) ≤ x) : t.encode x = (x + (2 ^ t.width : Nat)).toNat := by
  rw [IntFmt.encode, ← Int.add_emod_right, Int.emod_eq_of_lt (by omega) (by omega)]

theorem IntFmt.decode_of_lt {c : Nat} (h : c < 2 ^ t.width) :
    t.decode c = if t.signed = true ∧ 2 ^ (t.width - 1) ≤ c then (c : Int) - (2 ^ t.width : Nat) else c := by
  simp only [IntFmt.decode, Nat.mod_eq_of_lt h, Bool.and_eq_true, decide_eq_true_eq]

/-- The pattern of a value of the type decodes to it. -/
theorem IntFmt.decode_encode (hw : 0 < t.width) (h : t.holds x) : t.decode (t.encode x) = x := by
  obtain ⟨hmin, hmax⟩ := h
  have hhalf : 2 ^ t.width = 2 * 2 ^ (t.width - 1) := by rw [← Nat.pow_succ', Nat.succ_eq_add_one, Nat.sub_add_cancel hw]
  have hpos : 0 < 2 ^ (t.width - 1) := Nat.two_pow_pos _
  unfold IntFmt.minV at hmin
  unfold IntFmt.maxV at hmax
  have hhi : x < (2 ^ t.width : Nat) := by split at hmax <;> omega
  by_cases h0 : x < 0
  · have hs : t.signed = true := by
      refine Decidable.byContradiction fun hs => ?_
      rw [if_neg hs] at hmin
      omega
    rw [if_pos hs] at hmin
    rw [IntFmt.encode_of_neg h0 (by omega), IntFmt.decode_of_lt (by omega), if_pos ⟨hs, by omega⟩]
    omega
  · have hlow : ¬ (t.signed = true ∧ 2 ^ (t.width - 1) ≤ x.toNat) := by
      rintro ⟨hs, hx⟩
      rw [if_pos hs] at hmax
      omega
    rw [IntFmt.encode_of_nonneg (Int.not_lt.1 h0) hhi, IntFmt.decode_of_lt (by omega), if_neg hlow]
    omega

theorem IntFmt.minV_le_maxV (t : IntFmt) : t.minV ≤ t.maxV := by
  have hhalf : 0 < 2 ^ (t.width - 1) := Nat.two_pow_pos _
  have hall : 0 < 2 ^ t.width := Nat.two_pow_pos _
  unfold IntFmt.minV IntFmt.maxV
  split <;> omega

theorem IntFmt.holds_minV (t : IntFmt) : t.holds t.minV := ⟨Int.le_refl _, t.minV_le_maxV⟩

theorem IntFmt.holds_clamp (t : IntFmt) (x : Int) : t.holds (t.clamp x) := by
  unfold IntFmt.clamp
  split
  · exact t.holds_minV
  · exact ⟨t.minV_le_maxV, Int.le_refl _⟩

theorem IntFmt.not_holds_iff : ¬ t.holds x ↔ x < t.minV ∨ t.maxV < x := by
  unfold IntFmt.holds
  omega

theorem IntFmt.sat_of_not_holds (h : ¬ t.holds x) : t.sat x = (t.clamp x, fSAT) := by
  by_cases hx : x < t.minV
  · rw [IntFmt.sat, IntFmt.clamp, if_pos hx, if_pos hx]
  · have hmax : t.maxV < x := (IntFmt.not_holds_iff.1 h).resolve_left hx
    rw [IntFmt.sat, IntFmt.clamp, if_neg hx, if_neg hx, if_pos hmax]

theorem IntFmt.sat_of_holds (h : t.holds x) : t.sat x = (x, 0) := by
  rw [IntFmt.sat, if_neg (Int.not_lt.2 h.1), if_neg (Int.not_lt.2 h.2)]

theorem IntFmt.narrow_of_holds (h : t.holds x) : t.narrow sat x = (t.encode x, 0) := by
  cases sat with
  | true => rw [IntFmt.narrow, if_pos rfl, IntFmt.sat_of_holds h]
  | false =>
    have hin : ¬ (x < t.minV ∨ t.maxV < x) := mt IntFmt.not_holds_iff.2 (not_not_intro h)
    simp only [IntFmt.narrow, Bool.false_eq_true, if_false, ← Bool.decide_or, decide_eq_false hin, flagIf_false]

theorem IntFmt.narrow_saturates (h : ¬ t.holds x) : t.narrow true x = (t.encode (t.clamp x), fSAT) := by
  rw [IntFmt.narrow, if_pos rfl, IntFmt.sat_of_not_holds h]

theorem IntFmt.narrow_wraps (h : ¬ t.holds x) : t.narrow false x = (t.encode x, fIOV) := by
  simp only [IntFmt.narrow, Bool.false_eq_true, if_false, ← Bool.decide_or, decide_eq_true (IntFmt.not_holds_iff.1 h), flagIf_true]

/-- The integer that a finite value is rounded to, whether that was inexact, and the generators after it. -/
def roundToInt (mode : Nat) (neg : Bool) (m : Nat) (e : Int) (g : Rng) (lane : Nat) : Int × Bool × Rng :=
  let n := roundNat mode neg (m * 2 ^ e.toNat) (-e).toNat g lane
  (if neg then -(n.1 : Int) else n.1, n.2)

section OfFloat

variable {mode lane m : Nat} {neg : Bool} {e : Int} {g : Rng}

theorem IntFmt.minV_of_signed (t : IntFmt) : (if t.signed then t.minV else 0) = t.minV := by
  unfold IntFmt.minV
  split <;> rfl

/-- A finite value is rounded to an integer, and that is ranged. -/
theorem IntFmt.ofFloat_fin : t.ofFloat mode sat (.fin neg m e) g lane =
    (let x := (roundToInt mode neg m e g lane).1
     let nx := flagIf (roundToInt mode neg m e g lane).2.1 fNX
     let g' := (roundToInt mode neg m e g lane).2.2
     if x < t.minV ∨ t.maxV < x then
       if sat then (t.encode (t.sat x).1, fSAT ||| nx, g') else (t.encode (if t.signed then t.minV else 0), fNV ||| nx, g')
     else (t.encode x, nx, g')) := by
  simp only [IntFmt.ofFloat, roundToInt, Bool.or_eq_true, decide_eq_true_eq]
  rfl

theorem IntFmt.ofFloat_of_holds (h : t.holds (roundToInt mode neg m e g lane).1) :
    t.ofFloat mode sat (.fin neg m e) g lane = (t.encode (roundToInt mode neg m e g lane).1,
      flagIf (roundToInt mode neg m e g lane).2.1 fNX, (roundToInt mode neg m e g lane).2.2) := by
  have hin : ¬ ((roundToInt mode neg m e g lane).1 < t.minV ∨ t.maxV < (roundToInt mode neg m e g lane).1) :=
    mt IntFmt.not_holds_iff.2 (not_not_intro h)
  rw [IntFmt.ofFloat_fin, if_neg hin]

theorem IntFmt.ofFloat_of_not_holds (h : ¬ t.holds (roundToInt mode neg m e g lane).1) :
    t.ofFloat mode sat (.fin neg m e) g lane = (t.encode (if sat then t.clamp (roundToInt mode neg m e g lane).1 else t.minV),
      (if sat then fSAT else fNV) ||| flagIf (roundToInt mode neg m e g lane).2.1 fNX, (roundToInt mode neg m e g lane).2.2) := by
  rw [IntFmt.ofFloat_fin, if_pos (IntFmt.not_holds_iff.1 h), IntFmt.sat_of_not_holds h, t.minV_of_signed]
  cases sat <;> rfl

end OfFloat

end IntFmt

theorem IntFmt.narrow_exact_or_flagged (t : IntFmt) (hw : 0 < t.width) (sat : Bool) (x : Int) :
    let r := t.narrow sat x
    (t.holds x → t.decode r.1 = x ∧ r.2 = 0) ∧
    (¬ t.holds x → sat = true → t.decode r.1 = t.clamp x ∧ r.2 = fSAT) ∧
    (¬ t.holds x → sat = false → r.1 = (x % (2 ^ t.width : Nat)).toNat ∧ r.2 = fIOV) := by
  refine ⟨fun h => ?_, fun h hs => ?_, fun h hs => ?_⟩
  · rw [IntFmt.narrow_of_holds h]
    exact ⟨IntFmt.decode_encode hw h, rfl⟩
  · rw [hs, IntFmt.narrow_saturates h]
    exact ⟨IntFmt.decode_encode hw (t.holds_clamp x), rfl⟩
  · rw [hs, IntFmt.narrow_wraps h]
    exact ⟨rfl, rfl⟩

theorem IntFmt.ofFloat_rounds_then_checks (t : IntFmt) (hw : 0 < t.width) (mode lane m : Nat) (sat neg : Bool)
    (e : Int) (g : Rng) :
    let x := (roundToInt mode neg m e g lane).1
    let nx := flagIf (roundToInt mode neg m e g lane).2.1 fNX
    let r := t.ofFloat mode sat (.fin neg m e) g lane
    (t.holds x → t.decode r.1 = x ∧ r.2.1 = nx) ∧
    (¬ t.holds x → t.decode r.1 = (if sat then t.clamp x else t.minV) ∧ r.2.1 = (if sat then fSAT else fNV) ||| nx) := by
  refine ⟨fun h => ?_, fun h => ?_⟩
  · rw [IntFmt.ofFloat_of_holds h]
    exact ⟨IntFmt.decode_encode hw h, rfl⟩
  · rw [IntFmt.ofFloat_of_not_holds h]
    refine ⟨IntFmt.decode_encode hw ?_, rfl⟩
    split
    · exact t.holds_clamp _
    · exact t.holds_minV

end Sys2Proof.Machine
end

section
/-! O9: the values of block codes, and the NaN block (02 R31 to R33, R41). -/

namespace Sys2Proof.Machine

theorem blockValue_of_nanScale {bits scale : Nat} (h : isNanScale bits scale = true) (code : Nat) :
    blockValue bits scale code = .nan false := by
  simp [blockValue, h]

/-- Before it is scaled, every code of a block is a finite value. -/
theorem blockCodeVal_finite (bits ty code : Nat) : ∃ neg m e, blockCodeVal bits ty code = .fin neg m e := by
  unfold blockCodeVal
  split
  · exact ⟨_, _, _, rfl⟩
  · exact ⟨_, _, _, rfl⟩

/-- A scale byte in its parts: the type of the codes, and the exponent, offset by 32. -/
theorem blockValue_of_finite {bits ty e code m : Nat} {neg : Bool} {q : Int} (hty : ty < 4) (he : e < 64)
    (hn : isNanScale bits (64 * ty + e) = false) (h : blockCodeVal bits ty code = .fin neg m q) :
    blockValue bits (64 * ty + e) code = .fin neg m (q + e - 32) := by
  have hfield : (64 * ty + e) / 64 % 4 = ty := by omega
  have hexp : (64 * ty + e) % 64 = e := by omega
  simp [blockValue, hn, hfield, hexp, h]

/-- The NaN types do not depend on the exponent, which at 32 scales by one and is no part of the scale byte 0xFF. -/
theorem isNanScale_unscaled {bits ty e : Nat} (he : e < 64) (h : isNanScale bits (64 * ty + e) = false) :
    isNanScale bits (64 * ty + 32) = false := by
  have hty : (64 * ty + e) / 64 = (64 * ty + 32) / 64 := by omega
  simp only [isNanScale, Bool.or_eq_false_iff, hty] at h ⊢
  exact ⟨decide_eq_false (by omega), h.2⟩

theorem blockValue_scales (bits ty e code : Nat) (hty : ty < 4) (he : e < 64) :
    if isNanScale bits (64 * ty + e) then blockValue bits (64 * ty + e) code = .nan false
    else ∃ neg m q, blockValue bits (64 * ty + 32) code = .fin neg m q ∧
      blockValue bits (64 * ty + e) code = .fin neg m (q + e - 32) := by
  cases hn : isNanScale bits (64 * ty + e) with
  | true => exact blockValue_of_nanScale hn code
  | false =>
    obtain ⟨neg, m, q, h⟩ := blockCodeVal_finite bits ty code
    have hone := blockValue_of_finite hty (by decide) (isNanScale_unscaled he hn) h
    exact ⟨neg, m, q, by simpa using hone, blockValue_of_finite hty he hn h⟩

/-- R32: the magnitudes of B4's types F, P and H, in halves, and their negatives. -/
theorem blockValue_b4_float : ∀ r ∈ [(0x60, [0, 1, 2, 3, 4, 6, 8, 12]), (0xA0, [0, 2, 4, 8, 16, 32, 64, 128]),
    (0xE0, [0, 2, 4, 6, 8, 10, 16, 32])], ∀ c, c < 8 → blockValue 4 r.1 c = .fin false (r.2.getD c 0) (-1) ∧
      blockValue 4 r.1 (c + 8) = .fin true (r.2.getD c 0) (-1) := by
  decide

/-- R32: the integers of B4's type I. -/
theorem blockValue_b4_int : ∀ c, c < 16 → blockValue 4 0x20 c = if c < 8 then .fin false c 0 else .fin true (16 - c) 0 := by
  decide

section Nan

variable {xs : List (Option FVal × Nat)}

theorem any_isNan (h : ∃ x ∈ xs, ∃ sg, x.1 = some (.nan sg)) :
    xs.any (fun p => (p.1.map FVal.isNan).getD false) = true := by
  obtain ⟨x, hx, sg, hv⟩ := h
  exact List.any_eq_true.2 ⟨x, hx, by simp [hv, FVal.isNan]⟩

theorem isSnan_iff (v : Option FVal) : (v.map FVal.isSnan).getD false = decide (v = some (.nan true)) := by
  rcases v with _ | _ | _ | _ <;> simp [FVal.isSnan]

theorem encodeBlock_of_nan (bits ty mode : Nat) (sat : Bool) (g : Rng) (h : ∃ x ∈ xs, ∃ sg, x.1 = some (.nan sg)) :
    encodeBlock bits ty mode sat xs g =
      (0xFF, List.replicate 32 0, if xs.any (fun x => x.1 = some (.nan true)) then fNV else 0, g) := by
  simp only [encodeBlock, any_isNan h, if_true, isSnan_iff]
  rfl

end Nan

end Sys2Proof.Machine
end

section
/-! O9, assembled. -/

namespace Sys2Proof.Machine

/-- R40's table: FP32 values converted to F8.E4M3 under RNE, without and with saturation. -/
theorem e4m3_conversion_table :
    ∀ r ∈ [(0x3F800000, 0x38, 0, 0x38, 0), (0x3E99999A, 0x2A, fNX, 0x2A, fNX), (0x43E80000, 0x7E, fNX, 0x7E, fNX),
      (0x43FA0000, 0x7F, fOF ||| fNX, 0x7E, fSAT ||| fNX), (0xFF800000, 0x7F, fNV, 0xFE, fSAT),
      (0x3A83126F, 0x01, fUF ||| fNX, 0x01, fUF ||| fNX), (0x3A6BEDFA, 0, fUF ||| fNX, 0, fUF ||| fNX),
      (0x7F800001, 0x7F, fNV, 0x7F, fNV)],
    let to_ := fun (sat : Bool) => fmtE4M3.round 0 sat (fmtFP32.decode r.1) .none 0
    (to_ false).1 = r.2.1 ∧ (to_ false).2.1 = r.2.2.1 ∧ (to_ true).1 = r.2.2.2.1 ∧ (to_ true).2.1 = r.2.2.2.2 := by
  decide

/-- Settles O9: the fields that the registers accept, then the neighbours that a mode takes, then the conversions, each by
the place of the value among the codes' values. -/
theorem controlRegisterValues : Obligations.ControlRegisterValues := by
  unfold Obligations.ControlRegisterValues
  refine ⟨fmtOk_iff, mfpOk_iff, tshapeOk_iff,
    fun mode m sh lane neg g _ => roundNat_takes_a_neighbour mode m sh lane neg g, ?_, e4m3_conversion_table, ?_,
    fun mode m n a b e k => ⟨add_exact mode m n a b e k, mul_exact m n a b e k⟩,
    blockValue_b4_float, blockValue_b4_int, fun bits ty e code _ => blockValue_scales bits ty e code,
    fun bits ty mode sat xs g => encodeBlock_of_nan bits ty mode sat g⟩
  · intro f hmem mode lane sat g _
    have hf := FloatFmt.regular_of_mem hmem
    exact ⟨fun _ => rfl, fun _ => rfl, fun _ _ _ _ => hf.round_representable, fun _ _ _ _ => hf.round_between_codes,
      fun _ _ _ => hf.round_out_of_range⟩
  · intro t ht sat
    have hw : 0 < t.width := by
      simp only [List.mem_cons, List.not_mem_nil, or_false] at ht
      omega
    exact ⟨t.narrow_exact_or_flagged hw sat, fun mode lane g _ => ⟨fun _ => rfl, fun neg m e =>
      t.ofFloat_rounds_then_checks hw mode lane m sat neg e g⟩⟩

end Sys2Proof.Machine
end

section
/-! O55, O54: every encoding decodes back (04 R74 to R87). -/

namespace Sys2Proof

/-- The lemmas on single instructions cover all of them: those of the slots by name, the events together. -/
theorem Laws.Enc.statement (i : Instr) : Laws.Enc.Statement i := by
  open Laws.Enc in
  cases i with
  -- C
  | nop => exact nop | br => exact br _ | call => exact call _ | bc => exact bc _ _ _ | jr => exact jr _
  | callr => exact callr _ | ret => exact ret | loop => exact loop _ _ _ | lbreak => exact lbreak _
  | setfmt => exact setfmt _ | sleepu => exact sleepu _ | yield => exact yield | phint => exact phint _
  | trap => exact trap _ | eret => exact eret | halt => exact halt | mwait => exact mwait _ _
  -- S
  | add => exact add _ _ _ | sub => exact sub _ _ _ | mul => exact mul _ _ _ | mulh => exact mulh _ _ _
  | mulhu => exact mulhu _ _ _ | div => exact div _ _ _ | divu => exact divu _ _ _ | rem => exact rem _ _ _
  | remu => exact remu _ _ _ | and => exact and _ _ _ | or => exact or _ _ _ | xor => exact xor _ _ _
  | andn => exact andn _ _ _ | shl => exact shl _ _ _ | shr => exact shr _ _ _ | sar => exact sar _ _ _
  | rotr => exact rotr _ _ _ | min => exact min _ _ _ | max => exact max _ _ _ | minu => exact minu _ _ _
  | maxu => exact maxu _ _ _ | seq => exact seq _ _ _ | slt => exact slt _ _ _ | sltu => exact sltu _ _ _
  | selz => exact selz _ _ _ | clz => exact clz _ _ | ctz => exact ctz _ _ | popc => exact popc _ _
  | brev => exact brev _ _ | fshr => exact fshr _ _ _ | addi => exact addi _ _ _ | andi => exact andi _ _ _
  | ori => exact ori _ _ _ | xori => exact xori _ _ _ | slti => exact slti _ _ _ | sltiu => exact sltiu _ _ _
  | fshri => exact fshri _ _ _ _ | shli => exact shli _ _ _ | shri => exact shri _ _ _ | sari => exact sari _ _ _
  | muli => exact muli _ _ _ | sli => exact sli _ _ | sins => exact sins _ _ | bfx => exact bfx _ _ _ _
  | bfxu => exact bfxu _ _ _ _ | bfi => exact bfi _ _ _ _ | crr => exact crr _ _ | crw => exact crw _ _
  | setvl => exact setvl _ _ _
  -- A
  | ldq => exact ldq _ _ _ _ | stq => exact stq _ _ _ _ | ld => exact ld _ _ _ _ _ | st => exact st _ _ _ _
  | vldq => exact vldq _ _ _ _ _ | vstq => exact vstq _ _ _ _ | vgathq => exact vgathq _ _ _ _ _ _
  | vscatq => exact vscatq _ _ _ _ _ _ | amo => exact amo _ _ _ _ _ _ _ | amoChunk => exact amoChunk _ _ _ _ _
  | ldfe => exact ldfe _ _ _ | ldff => exact ldff _ _ _ | stef => exact stef _ _ _ | femark => exact femark _ _ _ _
  | marm => exact marm _ _ _ _ | fence => exact fence _ _ | pref => exact pref _ _ _ _ | qopen => exact qopen _ _ _
  | qnext => exact qnext _ _ _ | qand => exact qand _ _ _ _ _ | qor => exact qor _ _ _ _ _
  | qskip => exact qskip _ _ _ _ | qdown => exact qdown _ _ _ | qclose => exact qclose _ | qstat => exact qstat _ _ _
  -- V
  | vh => exact vh _ _
  -- M
  | mbeat => exact mbeat _ _ _ _ _ _ _ _ _ _ | mdrain => exact mdrain _ _ _ _ _ _ _ _ _
  | mdrainOfold => exact mdrainOfold _ _ _ _ _ _ _ | mgsel => exact mgsel _ | mmode => exact mmode _
  | mfmt => exact mfmt _ | mdrainw => exact mdrainw | mfload => exact mfload _ _ | mzero => exact mzero _
  | mguse => exact mguse _ | mrstp => exact mrstp | mrep => exact mrep _
  -- X
  | xcopy => exact xcopy _ _ _ _ | xbcast => exact xbcast _ _ _ | twrow => exact twrow _ _ _
  | trcol => exact trcol _ _ _ | trrow => exact trrow _ _ _ | ldt => exact ldt _ _ _ _ _ _ | tunpk => exact tunpk _ _
  | movvs => exact movvs _ _ _ | movsv => exact movsv _ _ _
  -- E
  | ecfg => exact ecfg _ _ _ _ | copy => exact copy _ _ _ _ _ _ _ | gather => exact gather _ _ _ _ _ _ _ _
  | scatter => exact scatter _ _ _ _ _ _ _ _ | nmop => exact nmop _ _ _ _ _ _ _ _ | nmfence => exact nmfence _ _
  | nmopt => exact nmopt _ _ _ _ _ _ _ | qfence => exact qfence _ _ _ | subscr => exact subscr _ _ _ _ _ _ _ _
  | slotret => exact slotret _ _ _ _ | unsubscr => exact unsubscr _ _ _ | hcwld => exact hcwld _ _ _ _ _
  | gload => exact gload _ _ _ _ | floadm => exact floadm _ _ _ _ _ | pmig => exact pmig _ _ _ _ _
  | put => exact put _ _ _ _ _ _ _ | get => exact get _ _ _ _ _ _ _ | phlive => exact phlive _ _ _ _
  | bankcfg => exact bankcfg _ _ _ _ _ | zerom => exact zerom _ _ _ _
  -- T
  | binit => exact binit _ _ | barrive => exact barrive _ _ | bwait => exact bwait _ _ _ _
  | bexpect => exact bexpect _ _ | sleepb => exact sleepb _ | tspawn => exact tspawn _ _ | tview => exact tview _ _
  | tend => exact tend | tsuspend => exact tsuspend _ _ | tsignal => exact tsignal _ | tnotify => exact tnotify _
  | btest => exact btest _ _ _
  -- An event has no encoding.
  | _ => rfl

theorem decodeSlot_encode {i : Instr} {sl : Slot} (hs : i.slot = some sl) (hwf : i.wf = true) :
    ∃ w, encode i = some w ∧ w < 2 ^ (8 * slotBytes sl) ∧ decodeSlot sl w = .ok i := by
  have h := Laws.Enc.statement i
  simp only [Laws.Enc.Statement, hs] at h
  exact h hwf

/-- Settles O55: the case of each instruction is its own lemma. -/
theorem encodedInstructionsDecodeBack : Obligations.EncodedInstructionsDecodeBack := by
  unfold Obligations.EncodedInstructionsDecodeBack
  exact fun _ _ hs hwf => decodeSlot_encode hs hwf

theorem readAs_of_encode {i : Instr} {sl : Slot} {w : Nat} (hs : i.slot = some sl) (hwf : i.wf = true)
    (he : encode i = some w) : readAs sl w = some i := by
  obtain ⟨v, hv, -, hd⟩ := decodeSlot_encode hs hwf
  obtain rfl : v = w := Option.some.inj (hv.symm.trans he)
  simp only [readAs, hd]

/-- Settles O54: each word is the encoding of its instruction, so it is read as that instruction. -/
theorem decodeWords : Obligations.DecodeWords := by
  unfold Obligations.DecodeWords
  refine ⟨?_, ?_, ?_, ?_, ?_, ?_, ?_, ?_, ?_⟩ <;> exact readAs_of_encode rfl rfl rfl

end Sys2Proof
end

section
/-! O56: fields as differences of quotients of the body. -/

namespace Sys2Proof

theorem fld_above_le (w lo n : Nat) : 2 ^ n * (w / 2 ^ (lo + n)) ≤ w / 2 ^ lo := by
  rw [Nat.pow_add, ← Nat.div_div_eq_div_mul]
  exact Nat.mul_div_le _ _

/-- The body from a field's first bit on, less the part above the field. -/
theorem natCast_fld (w lo n : Nat) : (fld w lo n : Int) = w / 2 ^ lo - 2 ^ n * (w / 2 ^ (lo + n)) := by
  rw [fld, Nat.mod_eq_sub_mul_div, Nat.div_div_eq_div_mul, ← Nat.pow_add, Int.ofNat_sub (fld_above_le w lo n)]
  simp only [Int.natCast_mul, Int.natCast_ediv, Int.natCast_pow, Int.cast_ofNat_Int]

@[simp] theorem toNat_bf (w lo n : Nat) : (bf w lo n).toNat = fld w lo n := BitVec.toNat_ofNat ..

theorem fld_eq_iff {w lo n k : Nat} : fld w lo n = k ↔ (w / 2 ^ lo - 2 ^ n * (w / 2 ^ (lo + n)) : Int) = k := by
  rw [← natCast_fld, Int.natCast_inj]

theorem fld_one_of_ne_zero {w lo : Nat} (h : ¬ fld w lo 1 = 0) : fld w lo 1 = 1 :=
  (Nat.mod_two_eq_zero_or_one _).resolve_left h

theorem fld_two_of_ne {w lo : Nat} (h0 : fld w lo 2 ≠ 0) (h1 : fld w lo 2 ≠ 1) (h2 : fld w lo 2 ≠ 2) :
    fld w lo 2 = 3 := by
  have hlt : fld w lo 2 < 4 := Nat.mod_lt _ (by decide)
  omega

end Sys2Proof
end

section
/-! O56: a body that decodes, slot by slot (04 R75 to R87). Each decoder is split along the rows of its table. In a row
the opcode, the fields and the reserved bits adjoin: written as differences of quotients and each put at its place, they
telescope to the whole body. The last case of a split is no row and answers an error. -/

namespace Sys2Proof

/-- A body of a slot is the encoding of an instruction that the slot admits. -/
def EncodesAs (sl : Slot) (w : Nat) (i : Instr) : Prop := encode i = some w ∧ i.wf = true ∧ i.slot = some sl

theorem checked_eq_ok_iff {sl : Slot} {r : Bool} {i j : Instr} :
    checked sl r j = .ok i ↔ r = true ∧ j.wf = true ∧ j = i := by
  unfold checked
  cases r <;> cases j.wf <;> simp

/-- A row of a decoder: where its reserved fields hold, its fields add up to the body. -/
theorem encodesAs_of_checked {sl : Slot} {r : Bool} {i j : Instr} {v w : Nat} (h : checked sl r j = .ok i)
    (hs : j.slot = some sl) (he : encode j = some v) (hv : r = true → (v : Int) = w) : EncodesAs sl w i := by
  obtain ⟨hr, hwf, rfl⟩ := checked_eq_ok_iff.1 h
  obtain rfl : v = w := Int.natCast_inj.1 (hv hr)
  exact ⟨he, hwf, hs⟩

section Decoders

variable {w : Nat} {i : Instr}

theorem decodeC_encodesAs (hw : w < 2 ^ 32) (h : decodeC w = .ok i) : EncodesAs .c w i := by
  unfold decodeC at h
  split at h
  case h_18 => contradiction
  all_goals
    next op =>
    refine encodesAs_of_checked h rfl rfl fun hr => ?_
    simp only [decide_eq_true_eq, fld_eq_iff, Int.natCast_add, Int.natCast_mul, toNat_bf, natCast_fld] at op hr ⊢
    omega

theorem decodeX_encodesAs (hw : w < 2 ^ 32) (h : decodeX w = .ok i) : EncodesAs .x w i := by
  unfold decodeX at h
  split at h
  case h_10 => contradiction
  all_goals
    next op =>
    refine encodesAs_of_checked h rfl rfl fun hr => ?_
    simp only [Bool.and_eq_true, decide_eq_true_eq, fld_eq_iff, Int.natCast_add, Int.natCast_mul,
      toNat_bf, natCast_fld] at op hr ⊢
    omega

theorem decodeE_encodesAs (hw : w < 2 ^ 64) (h : decodeE w = .ok i) : EncodesAs .e w i := by
  unfold decodeE at h
  split at h
  case h_21 => contradiction
  all_goals
    next op =>
    refine encodesAs_of_checked h rfl rfl fun hr => ?_
    simp only [Bool.and_eq_true, decide_eq_true_eq, fld_eq_iff, Int.natCast_add, Int.natCast_mul,
      toNat_bf, natCast_fld] at op hr ⊢
    omega

theorem decodeT_encodesAs (hw : w < 2 ^ 32) (h : decodeT w = .ok i) : EncodesAs .t w i := by
  unfold decodeT at h
  split at h
  case h_13 => contradiction
  all_goals
    next op =>
    refine encodesAs_of_checked h rfl rfl fun hr => ?_
    simp only [decide_eq_true_eq, fld_eq_iff, Int.natCast_add, Int.natCast_mul, toNat_bf, natCast_fld] at op hr ⊢
    omega

theorem decodeAlu_encodesAs (hw : w < 2 ^ 32) (hop : fld w 26 6 = 0) (h : decodeAlu w = .ok i) : EncodesAs .s w i := by
  unfold decodeAlu at h
  split at h
  case h_31 => contradiction
  all_goals
    next op =>
    refine encodesAs_of_checked h rfl rfl fun hr => ?_
    simp only [decide_eq_true_eq, fld_eq_iff, Int.natCast_add, Int.natCast_mul, toNat_bf, natCast_fld] at hop op hr ⊢
    omega

theorem decodeS_encodesAs (hw : w < 2 ^ 32) (h : decodeS w = .ok i) : EncodesAs .s w i := by
  unfold decodeS at h
  split at h
  case h_1 hop => exact decodeAlu_encodesAs hw hop h
  case h_21 => contradiction
  all_goals
    next op =>
    refine encodesAs_of_checked h rfl rfl fun hr => ?_
    simp only [Bool.and_eq_true, decide_eq_true_eq, fld_eq_iff, Int.natCast_add, Int.natCast_mul,
      toNat_bf, natCast_fld] at op hr ⊢
    omega

theorem decodeAmo_encodesAs (hw : w < 2 ^ 32) (hop : fld w 27 5 = 8) (h : decodeAmo w = .ok i) : EncodesAs .a w i := by
  unfold decodeAmo at h
  split at h
  all_goals
    next op =>
    refine encodesAs_of_checked h rfl rfl fun hr => ?_
    simp only [decide_eq_true_eq, fld_eq_iff, Int.natCast_add, Int.natCast_mul, toNat_bf, natCast_fld] at hop op hr ⊢
    omega

theorem decodeA_encodesAs (hw : w < 2 ^ 32) (h : decodeA w = .ok i) : EncodesAs .a w i := by
  unfold decodeA at h
  split at h
  case h_1 hop => exact decodeAmo_encodesAs hw hop h
  case h_25 => contradiction
  all_goals
    next op =>
    refine encodesAs_of_checked h rfl rfl fun hr => ?_
    simp only [Bool.and_eq_true, decide_eq_true_eq, fld_eq_iff, Int.natCast_add, Int.natCast_mul,
      toNat_bf, natCast_fld] at op hr ⊢
    omega

theorem decodeV_encodesAs (hw : w < 2 ^ 16) (h : decodeV w = .ok i) : EncodesAs .v w i := by
  refine encodesAs_of_checked h rfl rfl fun hr => ?_
  simp only [decide_eq_true_eq, fld_eq_iff, Int.natCast_add, Int.natCast_mul, toNat_bf, natCast_fld] at hr ⊢
  omega

theorem decodeMctl_encodesAs (hw : w < 2 ^ 32) (hop : fld w 30 2 = 2) (h : decodeMctl w = .ok i) :
    EncodesAs .m w i := by
  unfold decodeMctl at h
  split at h
  case h_9 => contradiction
  all_goals
    next op =>
    refine encodesAs_of_checked h rfl rfl fun hr => ?_
    simp only [decide_eq_true_eq, fld_eq_iff, Int.natCast_add, Int.natCast_mul, toNat_bf, natCast_fld] at hop op hr ⊢
    omega

theorem decodeM_encodesAs (hw : w < 2 ^ 32) (h : decodeM w = .ok i) : EncodesAs .m w i := by
  unfold decodeM at h
  split at h
  case h_3 hop => exact decodeMctl_encodesAs hw hop h
  case' h_2 => split at h
  case' h_2.isFalse hfold => have hfold := fld_one_of_ne_zero hfold
  case' h_4 h0 h1 h2 => have hop := fld_two_of_ne h0 h1 h2
  all_goals
    refine encodesAs_of_checked h rfl rfl fun hr => ?_
    clear h
    simp only [Bool.and_eq_true, decide_eq_true_eq, fld_eq_iff, Int.natCast_add, Int.natCast_mul,
      toNat_bf, natCast_fld] at *
    omega

theorem decodeSlot_encodesAs {sl : Slot} (hw : w < 2 ^ (8 * slotBytes sl)) (h : decodeSlot sl w = .ok i) :
    EncodesAs sl w i := by
  cases sl with
  | c => exact decodeC_encodesAs hw h
  | s => exact decodeS_encodesAs hw h
  | a => exact decodeA_encodesAs hw h
  | v => exact decodeV_encodesAs hw h
  | m => exact decodeM_encodesAs hw h
  | x => exact decodeX_encodesAs hw h
  | e => exact decodeE_encodesAs hw h
  | t => exact decodeT_encodesAs hw h

end Decoders

/-- Settles O56: in every row of a decoder the fields, the opcode and the reserved bits make up the whole body. -/
theorem decodedBodiesEncodeBack : Obligations.DecodedBodiesEncodeBack := by
  unfold Obligations.DecodedBodiesEncodeBack
  exact fun _ _ _ hw h => decodeSlot_encodesAs hw h

end Sys2Proof
end
